-- ==== Sys2Proof/Word.lean ====
section
/-!
DEFINITION. Word.lean: the byte that frames, plan records and slots are made of.
-/

namespace Sys2Proof

/-- One byte on a link or in a plan slot (R192). -/
abbrev Byte := BitVec 8

end Sys2Proof
end

