-- ==== Sys2Proof/Syntax.lean ====
section
/-!
DEFINITION. Syntax.lean: the commands of the part, one constructor per row of spec/opcode_table.json.
A request is taken from the oldest frame of its port's receive FIFO, so its fields are not operands here;
the levels of MAINT_N and PROTECT_N, judged when the request is taken (1.11), are. An event of a block
carries what it reads from outside: a pin's level, the bytes on a link, what the storage array returns.
-/

namespace Sys2Proof

/-- The two host links (1.2). -/
inductive Port where
  | a
  | b
deriving DecidableEq, Repr

/-- The electrical level of a pin (1.8). -/
inductive PinLevel where
  | high
  | low
deriving DecidableEq, Repr

/-- The level of the supply monitor (R171). -/
inductive SupplyLevel where
  | normal
  | low
deriving DecidableEq, Repr

/-- One byte as the Port A receiver takes it: its value and whether its stop bit was good (R183). -/
structure RxByte where
  value : Byte
  stopOk : Bool
deriving DecidableEq, Repr

/-- The commands. `p` is the port whose handler takes the request; `key` says that MAINT_N is asserted and
`prot` that PROTECT_N is asserted at the moment the request is taken. -/
inductive Instr where
  /-- OPEN (R119, R120). -/
  | openSession (p : Port) (key : Bool)
  /-- IDENTIFY (R188). -/
  | identify (p : Port)
  /-- STATUS (R188). -/
  | status (p : Port)
  /-- CLOSE (R130). -/
  | close (p : Port)
  /-- KEEPALIVE (R125). -/
  | keepalive (p : Port)
  /-- TIME_GET (R4). -/
  | timeGet (p : Port)
  /-- TIME_SET (R5). -/
  | timeSet (p : Port)
  /-- TIME_TRIM (R10). -/
  | timeTrim (p : Port) (key : Bool)
  /-- BIND (R17). -/
  | bind (p : Port)
  /-- UNBIND (R20). -/
  | unbind (p : Port) (key : Bool)
  /-- CLEAR_FAULT (R27). -/
  | clearFault (p : Port) (key : Bool)
  /-- REQUALIFY (R33). -/
  | requalify (p : Port)
  /-- CHANNEL_QUERY (R35). -/
  | channelQuery (p : Port)
  /-- SUBSCRIBE (R34). -/
  | subscribe (p : Port)
  /-- UNSUBSCRIBE (R34). -/
  | unsubscribe (p : Port)
  /-- CLAIM (R135, R136). -/
  | claim (p : Port) (key : Bool)
  /-- RELEASE (R138). -/
  | release (p : Port)
  /-- TAKEOVER (R140, R141). -/
  | takeover (p : Port)
  /-- ACTION_ADD (R43, R44). -/
  | actionAdd (p : Port)
  /-- ACTION_CANCEL (R48). -/
  | actionCancel (p : Port) (key : Bool)
  /-- GROUP_CANCEL (R50). -/
  | groupCancel (p : Port)
  /-- QUEUE_QUERY (R52). -/
  | queueQuery (p : Port)
  /-- INTERLOCK_SET (R75). -/
  | interlockSet (p : Port) (key : Bool)
  /-- INTERLOCK_CLEAR (R78). -/
  | interlockClear (p : Port) (key : Bool)
  /-- INTERLOCK_QUERY (R79). -/
  | interlockQuery (p : Port)
  /-- TRIGGER_SET (R90, R91). -/
  | triggerSet (p : Port)
  /-- TRIGGER_CLEAR (R92). -/
  | triggerClear (p : Port) (key : Bool)
  /-- TRIGGER_QUERY (R93). -/
  | triggerQuery (p : Port)
  /-- HALT (R108). -/
  | halt (p : Port)
  /-- RESUME (R112). -/
  | resume (p : Port)
  /-- REPORT_ACK (R149). -/
  | reportAck (p : Port)
  /-- REPORT_RESEND (R151). -/
  | reportResend (p : Port)
  /-- PLAN_BEGIN (R162). -/
  | planBegin (p : Port) (key : Bool)
  /-- PLAN_PUT (R163). -/
  | planPut (p : Port) (key : Bool)
  /-- PLAN_ABANDON (R164). -/
  | planAbandon (p : Port) (key : Bool)
  /-- PLAN_COMMIT (R166). -/
  | planCommit (p : Port) (key prot : Bool)
  /-- PLAN_ERASE (R168). -/
  | planErase (p : Port) (key prot : Bool)
  /-- PLAN_LIST (R173). -/
  | planList (p : Port)
  /-- PLAN_LOAD (R176). -/
  | planLoad (p : Port)
  /-- DEVICE_RESET (R190). -/
  | deviceReset (p : Port) (key : Bool)
  /-- UNKNOWN_REQUEST_KIND (R186). -/
  | unknownRequestKind (p : Port)
  /-- TICK (R1, R2). -/
  | tick
  /-- TRIM_WINDOW_END (R11). -/
  | trimWindowEnd
  /-- ENTRY_DUE (R53). -/
  | entryDue
  /-- ACTION_DRIVE (R134). -/
  | actionDrive
  /-- GUARD_DEADLINE (R58). -/
  | guardDeadline
  /-- GUARD_REEVALUATION (R57). -/
  | guardReevaluation
  /-- PULSE_RELEASE (R65) of channel `c`. -/
  | pulseRelease (c : Nat)
  /-- SETTLE_END (R25) of channel `c`; bit n of `wires` is set when pin Pn reads HIGH. -/
  | settleEnd (c : Nat) (wires : BitVec 24)
  /-- INPUT_SAMPLE (R29) of channel `c`, whose pin reads `level`. -/
  | inputSample (c : Nat) (level : PinLevel)
  /-- TRIGGER_EDGE (R94). -/
  | triggerEdge
  /-- FIRE_REQUEST (R96). -/
  | fireRequest
  /-- HOLDOFF_END (R100) of trigger `t`. -/
  | holdoffEnd (t : Nat)
  /-- STOP_N_SAMPLE (R106); `asserted` is the level read. -/
  | stopNSample (asserted : Bool)
  /-- KEEPALIVE_EXPIRY (R126) of session `n`. -/
  | keepaliveExpiry (n : Nat)
  /-- GRACE_EXPIRY (R129) of session `n`. -/
  | graceExpiry (n : Nat)
  /-- REPORT_ADD (R145). -/
  | reportAdd
  /-- ERASE_PHASE_END (R167). -/
  | erasePhaseEnd
  /-- PROGRAMMING_PHASE_END (R167); `readBack` is what the array returns, `none` for the bytes held. -/
  | programmingPhaseEnd (readBack : Option (List Byte))
  /-- ERASE_END (R168). -/
  | eraseEnd
  /-- READ_COMPLETION (R177); `bytesRead` is what the array returns, `none` for the slot's contents. -/
  | readCompletion (bytesRead : Option (List Byte))
  /-- SUPPLY_CHANGE (R171). -/
  | supplyChange (level : SupplyLevel)
  /-- HARD_RESET (R12, R174, R191): the BAUD straps, the supply level as the part leaves reset, and the slots
  whose contents the scan finds changed. -/
  | hardReset (baud1 baud0 : Bool) (supply : SupplyLevel) (found : List (Nat × List Byte))
  /-- PORT_A_FRAME (R183): the bytes received, in order. -/
  | portAFrame (bytes : List RxByte)
  /-- PORT_A_GAP_TIMEOUT (R183). -/
  | portAGapTimeout
  /-- PORT_A_TRANSMIT (R187). -/
  | portATransmit
  /-- PORT_A_FRAME_SENT (R187). -/
  | portAFrameSent
  /-- DEVICE_RESET_TIMEOUT (R190). -/
  | deviceResetTimeout
  /-- WRITE (R184): the bytes after the command; `cut` says that a reset fell inside the transaction (R190). -/
  | write (bytes : List Byte) (cut : Bool)
  /-- LEVEL (R184); `clocked` bytes are clocked after the command. -/
  | level (clocked : Nat)
  /-- READ (R185): the start of the transaction. -/
  | read
  /-- READ_END (R185): `clocked` bytes were clocked after the command, `before` of them before a reset that
  fell inside the transaction (R190; not used when none did). -/
  | readEnd (clocked before : Nat)
  /-- UNKNOWN_SPI_COMMAND (R184): the command byte and the bytes clocked after it. -/
  | unknownSpiCommand (command : Byte) (clocked : Nat)
deriving DecidableEq, Repr

end Sys2Proof
end

