-- ==== Sys2Proof/Decode.lean ====
section
/-!
DEFINITION. Decode.lean: the command that a word of spec/opcode_table.json's bits spells. The table gives no
bits to any of its 73 rows (they are requests in frames and events of the blocks), so no word spells a
command. The bytes of frames are read in Machine/Operands.lean.
-/

namespace Sys2Proof

/-- The command a word spells: none, since no row of the table has bits. -/
def decodeTableWord (_nbits _w : Nat) : Option Instr := none

end Sys2Proof
end

