-- ==== Sys2Proof/Config.lean ====
section
/-!
DEFINITION. Config.lean: the capacities and limits of the part ("Capacities and limits" of
00_scope.md) and its identification codes (R188). The manual fixes every one of them.
-/

namespace Sys2Proof.Config

/-- The greatest device time, 2^48 - 1 (1.7, R2). -/
def maxTime : Nat := 281474976710655

/-- Elapsed-count ticks in one second (1.7). -/
def ticksPerSecond : Nat := 10000

/-- The trim window after a hard reset, in seconds (R12). -/
def resetTrimWindow : Nat := 3600

/-- Action queue entries, scheduled and armed together (R42). -/
def queueCapacity : Nat := 512

/-- Entries owned by one session (R42). -/
def quota : Nat := 384

/-- Report queue per session (R143). -/
def reportCapacity : Nat := 32

/-- Reports sent and unacknowledged per session (R146). -/
def reportWindow : Nat := 8

/-- Received frames held per port (R183, R184). -/
def fifoCapacity : Nat := 4

/-- Outbound replies held per port (R186). -/
def replyCapacity : Nat := 4

/-- The largest frame body (R192). -/
def maxBody : Nat := 248

/-- The late threshold in ticks (R64). -/
def lateThreshold : Nat := 10

/-- Settle time when none is given (R17). -/
def defaultSettle : Nat := 50

/-- Samples that qualify a STOP_N level (R106). -/
def stopQualify : Nat := 4

/-- The Port A inter-byte gap limit in ticks (R183). -/
def gapLimit : Nat := 20

/-- Ticks after which an unread Port B DEVICE_RESET reply no longer holds up the soft reset (R190). -/
def deviceResetLimit : Nat := 10000

/-- The capacity of a plan slot in bytes (R158). -/
def slotCapacity (slot : Nat) : Nat := if slot < 3 then 4096 else 12288

/-- Vendor code of IDENTIFY (R188). -/
def vendorCode : Nat := 0x3C71

/-- Part code of IDENTIFY (R188). -/
def partCode : Nat := 0x0A18

/-- Revision of IDENTIFY (R188). -/
def revision : Nat := 0x01

end Sys2Proof.Config
end

