-- ==== Sys2Proof/Machine/State.lean ====
section
/-!
DEFINITION. Machine/State.lean: every piece of state that the manual gives the part, as plain data, and its
value after a hard reset. A record's optional fields are present exactly in the constructors that carry them.
-/

namespace Sys2Proof.Machine

/-! ### Time base (1.1 of Device Time) -/

/-- A trim value and a window length in seconds (R9, R10). -/
structure Trim where
  value : Int
  window : Nat
deriving DecidableEq, Repr

/-- The state of the Timebase (1.1, R1, R2, R9 to R12). -/
structure Timebase where
  device : Nat
  valid : Bool
  trim : Trim
  position : Nat
  pendingTrim : Option Trim
  elapsed : Nat
deriving DecidableEq, Repr

/-! ### Channel Matrix (R14, R15) -/

/-- A logical level (1.8), in the order of R15. -/
inductive Level where
  | active
  | inactive
deriving DecidableEq, Repr

/-- Polarity of an output channel (R15). -/
inductive Polarity where
  | activeHigh
  | activeLow
deriving DecidableEq, Repr

/-- Drive of an output channel (R15). -/
inductive Drive where
  | pushPull
  | openDrain
deriving DecidableEq, Repr

/-- What a driving pin presents to the wiring (R22). -/
inductive PinOut where
  | high
  | low
  | released
deriving DecidableEq, Repr

/-- A pin record (R14): its state and, unless ISOLATED, its owning channel. -/
inductive PinRec where
  | isolated
  | driving (channel : Nat) (presents : PinOut)
  | sensing (channel : Nat)
deriving DecidableEq, Repr

/-- The options of an output channel that BIND fixes (R17, R18). -/
structure OutConfig where
  pins : List Nat
  polarity : Polarity
  drive : Drive
  safe : Level
  settle : Nat
deriving DecidableEq, Repr

/-- Condition of an output channel (R15): while SETTLING the elapsed-count value at which the window ends
(R24), while FAULTED the fault pins (R26). -/
inductive Condition where
  | ready
  | settling (endsAt : Nat)
  | faulted (pins : List Nat)
deriving DecidableEq, Repr

/-- A bound output channel (R15). -/
structure Output where
  cfg : OutConfig
  owner : Option Nat
  level : Level
  condition : Condition
  held : Bool
  release : Option Nat
  lastOff : Option Nat
deriving DecidableEq, Repr

/-- The qualified level of an input channel (1.8). -/
inductive QLevel where
  | high
  | low
  | unknown
deriving DecidableEq, Repr

/-- A level being counted by an input channel: level, count, first-sample time (R30, R31). -/
structure Candidate where
  level : PinLevel
  count : Nat
  first : Nat
deriving DecidableEq, Repr

/-- A bound input channel (R15), with the elapsed-count value of its next sample (R29). -/
structure Input where
  pin : Nat
  interval : Nat
  qualify : Nat
  owner : Option Nat
  level : QLevel
  candidate : Option Candidate
  lastEdge : Option Nat
  subscribers : List Nat
  nextSample : Nat
deriving DecidableEq, Repr

/-- A channel record (R15), unbound (direction NONE), OUTPUT or INPUT. -/
inductive Channel where
  | unbound
  | output (o : Output)
  | input (i : Input)
deriving DecidableEq, Repr

/-! ### Schedule Engine (R37) -/

/-- The kind of an action; a PULSE carries its width (R37). -/
inductive ActionKind where
  | set
  | clear
  | toggle
  | pulse (width : Nat)
deriving DecidableEq, Repr

/-- A repeat: its period and the occurrences remaining, `none` for UNBOUNDED (R37). -/
structure Repetition where
  period : Nat
  remaining : Option Nat
deriving DecidableEq, Repr

/-- The mode of a guard; WAIT carries its limit (R37). -/
inductive GuardMode where
  | skip
  | wait (limit : Nat)
deriving DecidableEq, Repr

/-- A guard: input channel, required level, mode (R37). -/
structure Guard where
  channel : Nat
  level : PinLevel
  mode : GuardMode
deriving DecidableEq, Repr

/-- The fields of an entry that its request, plan record or template gives it (R37, R43). -/
structure Action where
  target : Nat
  kind : ActionKind
  tag : Nat
  rep : Option Repetition
  grd : Option Guard
  report : Bool
  carry : Bool
deriving DecidableEq, Repr

/-- Form and state of an entry, with the times present in each (R37, R38). -/
inductive Phase where
  | waitingTime (due : Nat)
  | waitingGuard (due effective : Nat)
  | deferred (due effective : Nat)
  | template (offset : Nat)
deriving DecidableEq, Repr

/-- Origin of an entry (R37). -/
inductive Origin where
  | request
  | load
  | trigger (template : Nat)
deriving DecidableEq, Repr

/-- A queue entry (R37). -/
structure Entry where
  handle : Nat
  owner : Nat
  adm : Nat
  phase : Phase
  act : Action
  origin : Origin
  skipped : Nat
deriving DecidableEq, Repr

/-- An occurrence whose drive request the engine has handed to the Channel Matrix (R49, R62). `owner` is the
session the drive is made for, `none` once that session has ended; the entry itself, found by its admission
number, stays in the queue in the state with which the engine took it. -/
structure InFlight where
  adm : Nat
  owner : Option Nat
  target : Nat
  level : Level
  release : Option Nat
  fireTime : Nat
deriving DecidableEq, Repr

/-- A level change handed to the engine: the input channel and the admission numbers of the WAITING_GUARD
entries still to be re-evaluated (R57). -/
structure LevelChange where
  channel : Nat
  waiting : List Nat
deriving DecidableEq, Repr

/-! ### Interlock Unit (R74) and Trigger Unit (R88) -/

/-- Mode of an interlock (R74). -/
inductive InterlockMode where
  | refuse
  | breakFirst
deriving DecidableEq, Repr

/-- An interlock record (R74); its number is its position. -/
structure Interlock where
  a : Nat
  b : Nat
  dead : Nat
  mode : InterlockMode
deriving DecidableEq, Repr

/-- The edge a trigger answers (R88). -/
inductive EdgeSel where
  | rising
  | falling
  | either
deriving DecidableEq, Repr

/-- Mode of a trigger (R88). -/
inductive TriggerMode where
  | once
  | every
deriving DecidableEq, Repr

/-- The fields of a trigger that TRIGGER_SET gives it (R90). -/
structure TriggerSpec where
  source : Nat
  edge : EdgeSel
  tag : Nat
  mode : TriggerMode
  holdoff : Nat
deriving DecidableEq, Repr

/-- State of a trigger; HOLDOFF carries its end (R88, R89). -/
inductive TriggerState where
  | ready
  | holdoff (endsAt : Nat)
  | spent
deriving DecidableEq, Repr

/-- A trigger record (R88); its number is its position. -/
structure Trigger where
  owner : Nat
  spec : TriggerSpec
  state : TriggerState
  lastFire : Option Nat
deriving DecidableEq, Repr

/-- A qualified edge (R32): channel, direction (RISING or not), back-dated timestamp. -/
structure Edge where
  channel : Nat
  rising : Bool
  t : Nat
deriving DecidableEq, Repr

/-- A fire request (R95). -/
structure FireReq where
  trigger : Nat
  owner : Nat
  source : Nat
  rising : Bool
  tag : Nat
  mode : TriggerMode
  t : Nat
deriving DecidableEq, Repr

/-! ### Stop Control (R105) -/

/-- Run state of the part (R105). -/
inductive RunState where
  | running
  | stopped
deriving DecidableEq, Repr

/-- Qualified level of STOP_N (R105). -/
inductive StopLevel where
  | asserted
  | released
  | unknown
deriving DecidableEq, Repr

/-- A STOP_N level being counted (R105, R106). -/
structure StopCandidate where
  asserted : Bool
  count : Nat
  first : Nat
deriving DecidableEq, Repr

/-- The state of Stop Control (R105): `line` and `request` are the cause set, `safeAsserted` the SAFE_N output
(R114), `nextSample` the elapsed-count value from which the next sample may be taken (R106, R116). -/
structure StopControl where
  run : RunState
  line : Bool
  request : Bool
  level : StopLevel
  candidate : Option StopCandidate
  entryTime : Option Nat
  gateOpen : Bool
  safeAsserted : Bool
  nextSample : Nat
deriving DecidableEq, Repr

/-! ### Frames, sessions and reports (R192, R117, R143) -/

/-- A checked frame without its sync byte, LEN and CRC (R192). -/
structure Frame where
  ses : Byte
  seq : Byte
  kind : Byte
  body : List Byte
deriving DecidableEq, Repr

/-- An outbound frame; `resets` marks the reply to the accepted DEVICE_RESET (R190). -/
structure OutFrame where
  frame : Frame
  resets : Bool
deriving DecidableEq, Repr

/-- Class of a session (R117). -/
inductive SessionClass where
  | observer
  | operator
  | service
deriving DecidableEq, Repr

/-- OPEN with the keepalive deadline, or LAPSED with the grace deadline, both elapsed-count values (R117). -/
inductive SessionLife where
  | opened (deadline : Nat)
  | lapsed (grace : Nat)
deriving DecidableEq, Repr

/-- A live host session (R117). `last` is the last sequence and the cached reply. -/
structure HostSession where
  port : Port
  cls : SessionClass
  tag : Nat
  interval : Nat
  life : SessionLife
  expected : Nat
  last : Option (Nat × Frame)
deriving DecidableEq, Repr

/-- A session record (R117): FREE, a live host session, or the LOCAL session (R139). -/
inductive Session where
  | free
  | host (h : HostSession)
  | localSession
deriving DecidableEq, Repr

/-- The state of an entry as a report or reply names it (R37). -/
inductive EntryState where
  | waitingTime
  | waitingGuard
  | deferred
  | template
deriving DecidableEq, Repr

/-- The reason of an ACTION_FAILED report (R152). -/
inductive FailReason where
  | guardFalse
  | guardTimeout
  | interlocked
  | channelFaulted
  | queueFull
deriving DecidableEq, Repr

/-- The fields that ACTION_DONE and ACTION_FAILED carry alike (R152). -/
structure Occurrence where
  handle : Nat
  channel : Nat
  kind : ActionKind
  due : Nat
  late : Bool
  skipped : Nat
deriving DecidableEq, Repr

/-- The change of a STOP_CHANGE report (R115). -/
inductive StopChange where
  | entered
  | causeAdded
  | causeRemoved
  | resumed
deriving DecidableEq, Repr

/-- The fields of a STOP_CHANGE report (R115, R155): `byLine` names the cause LINE, else REQUEST. -/
structure StopReport where
  change : StopChange
  byLine : Bool
  run : RunState
  line : Bool
  request : Bool
  session : Nat
  firstSample : Option Nat
  entryTime : Option Nat
deriving DecidableEq, Repr

/-- State of a plan slot (R158). -/
inductive SlotState where
  | empty
  | valid
  | invalid
  | erasing
  | programming
deriving DecidableEq, Repr

/-- Result codes of replies (R193). -/
inductive Result where
  | ok | unknownKind | malformed | noSession | sequence | notPermitted | classTaken | sessionLimit
  | notBound | alreadyBound | pinBusy | inUse | notOwner | owned | channelFaulted | notFaulted
  | queueFull | quota | noSuchAction | interlockConflict | tableFull | stopLine | noLocal
  | storeBusy | storeProtected | lowSupply | slotInvalid | planTooLarge | buildActive | noBuild
  | badAck
deriving DecidableEq, Repr

/-- The numbers of records a load has applied, and its base time (R156, R182). -/
structure LoadCounts where
  binds : Nat
  interlocks : Nat
  triggers : Nat
  actions : Nat
  base : Nat
deriving DecidableEq, Repr

/-- The fields of each report kind (R152 to R156). -/
inductive ReportBody where
  | actionDone (o : Occurrence)
  | actionFailed (o : Occurrence) (reason : FailReason)
  | actionExpired (handle channel : Nat) (kind : ActionKind) (due skipped : Nat) (remains : Bool)
  | actionCancelled (handle channel : Nat) (kind : ActionKind) (state : EntryState)
  | inputEdge (channel : Nat) (rising : Bool) (t : Nat)
  | channelFault (channel : Nat) (pins : List Nat) (verified : Level)
  | ownershipLost (channel claimer removed : Nat)
  | triggerFired (trigger source : Nat) (rising : Bool) (t scheduled failed : Nat)
  | stopChange (r : StopReport)
  | sessionNotice (released : Nat)
  | storeDone (erase : Bool) (slot : Nat) (state : SlotState) (generation size : Nat)
  | storeFailed (verify erase : Bool) (slot : Nat)
  | loadDone (slot : Nat) (counts : LoadCounts)
  | loadCorrupt (slot : Nat)
  | loadRecord (slot index : Nat) (code : Result)
deriving DecidableEq, Repr

/-- A report record (R144). -/
structure Report where
  seq : Nat
  missed : Nat
  time : Nat
  body : ReportBody
deriving DecidableEq, Repr

/-- A report queue (R143). -/
structure ReportQueue where
  records : List Report
  next : Nat
  missed : Nat
  sent : Nat
deriving DecidableEq, Repr

/-- A report handed to the Report Unit and not yet taken (R32, R145). -/
structure Handed where
  session : Nat
  time : Nat
  body : ReportBody
deriving DecidableEq, Repr

/-! ### Plan Store and Plan Loader (R158, R162, R165, R182) -/

/-- A plan slot (R158); its number is its position. -/
structure Slot where
  state : SlotState
  name : Option (List Byte)
  autostart : Bool
  generation : Nat
  size : Nat
  check : Option (BitVec 32)
  contents : List Byte
deriving DecidableEq, Repr

/-- The plan build (R162); each record is kept as the bytes that were put. -/
structure Build where
  owner : Nat
  slot : Nat
  name : List Byte
  autostart : Bool
  records : List (List Byte)
deriving DecidableEq, Repr

/-- The start of a load (R176). -/
inductive LoadStart where
  | now
  | after (delay : Nat)
  | atTime (time : Nat)
deriving DecidableEq, Repr

/-- The store operation record (R165). A requesting session `none` has ended (R131); the records held for
programming stand in `image` (R166). -/
inductive StoreOp where
  | idle
  | reading (slot : Nat) (session : Option Nat) (start : LoadStart)
  | commitErasing (slot : Nat) (session : Option Nat) (image : List Byte)
  | commitProgramming (slot : Nat) (session : Option Nat) (image : List Byte)
  | erasing (slot : Nat) (session : Option Nat)
deriving DecidableEq, Repr

/-- The startup outcome (R182); `nothing` is NONE. -/
inductive StartupOutcome where
  | nothing
  | loaded (counts : LoadCounts)
  | failed (index : Nat) (code : Result)
  | corrupt
deriving DecidableEq, Repr

/-! ### Ports (R183 to R191) -/

/-- What both ports hold: receive FIFO, reply queue, last-served session, error and overflow counts. -/
structure Link where
  fifo : List Frame
  replies : List OutFrame
  lastServed : Nat
  errors : Nat
  overflows : Nat
deriving DecidableEq, Repr

/-- State of the Port A receiver between bytes (R183); CHECK is left in the event that enters it. -/
inductive RxPhase where
  | hunt
  | header
  | body (len : Nat) (kept : List Byte)
deriving DecidableEq, Repr

/-- The Port A receiver (R183): its phase and the elapsed-count value of the last byte. -/
structure Receiver where
  phase : RxPhase
  lastByte : Nat
deriving DecidableEq, Repr

/-- A READ transaction in progress on Port B (R185): the bytes it shifts out, whether they are the offered
frame, and whether a reset has fallen inside it (R190). -/
structure ReadTxn where
  stream : List Byte
  frame : Bool
  cut : Bool
deriving DecidableEq, Repr

/-- An accepted DEVICE_RESET waiting for its soft reset (R190): its port, and the elapsed-count value 10,000
ticks after acceptance. -/
structure PendingReset where
  port : Port
  deadline : Nat
deriving DecidableEq, Repr

/-- The state of the part. `txd` and `miso` are the model's own: the bytes of the last frame sent on TXA and
those shifted out by the last ended Port B transaction. `pending` is the queue of commands. -/
structure State where
  time : Timebase
  pins : Vector PinRec 24
  channels : Vector Channel 32
  queue : List Entry
  handleCounter : Nat
  nextAdmission : Nat
  inFlight : Option InFlight
  levelChanges : List LevelChange
  fireRequests : List FireReq
  interlocks : Vector (Option Interlock) 12
  triggers : Vector (Option Trigger) 16
  edges : List Edge
  stop : StopControl
  sessions : Vector Session 5
  reports : Vector ReportQueue 5
  handed : List Handed
  slots : Vector Slot 8
  build : Option Build
  store : StoreOp
  supply : SupplyLevel
  startup : StartupOutcome
  linkA : Link
  linkB : Link
  rxA : Receiver
  baud : Bool × Bool
  sendingA : Option OutFrame
  txd : List Byte
  offered : Option OutFrame
  reading : Option ReadTxn
  miso : List Byte
  deviceReset : Option PendingReset
  pending : List Instr
deriving DecidableEq, Repr

/-- Nothing stops the part: channel faults, refused requests and failed operations are states and replies of
the machine. No meaning ends in a fault, so there is none to name. -/
inductive Fault
deriving DecidableEq, Repr

/-- Reasons for which exec gives a command no meaning. -/
inductive Refusal where
  /-- Raised by exec's arm of a command that has no meaning yet; safe, since the machine stops. No arm of
  this model raises it. -/
  | notModelled (mnemonic : String)
deriving DecidableEq, Repr

/-! ### Reset values -/

/-- The Timebase after a hard reset (R12). -/
def Timebase.reset : Timebase :=
  ⟨0, false, ⟨0, Config.resetTrimWindow⟩, 0, none, 0⟩

/-- Stop Control after a reset (R116): STOP_N is sampled from the tick on which the elapsed count is `first`.
After a hard reset that is 0, the count on the first tick after the scan (R174). -/
def StopControl.reset (first : Nat) : StopControl :=
  ⟨.running, false, false, .unknown, none, none, false, false, first⟩

/-- An empty report queue (R143). -/
def ReportQueue.fresh : ReportQueue := ⟨[], 0, 0, 0⟩

/-- A slot as the part leaves manufacture (R158). -/
def Slot.factory : Slot := ⟨.empty, none, false, 0, 0, none, []⟩

/-- A port after a hard reset (R190, R191). -/
def Link.reset : Link := ⟨[], [], 4, 0, 0⟩

/-- The part right after a hard reset with factory slots (R12, R36, R73, R87, R104, R116, R142, R143, R158,
R174, R182, R190, R191). DESIGN CHOICE (26): the supply is NORMAL, the BAUD straps read 00, the admission
number starts at 0, the receiver's last byte is at 0 and nothing has been sent on TXA or MISO. -/
def State.reset : State where
  time := Timebase.reset
  pins := Vector.replicate 24 .isolated
  channels := Vector.replicate 32 .unbound
  queue := []
  handleCounter := 1
  nextAdmission := 0
  inFlight := none
  levelChanges := []
  fireRequests := []
  interlocks := Vector.replicate 12 none
  triggers := Vector.replicate 16 none
  edges := []
  stop := StopControl.reset 0
  sessions := Vector.replicate 5 .free
  reports := Vector.replicate 5 ReportQueue.fresh
  handed := []
  slots := Vector.replicate 8 Slot.factory
  build := none
  store := .idle
  supply := .normal
  startup := .nothing
  linkA := Link.reset
  linkB := Link.reset
  rxA := ⟨.hunt, 0⟩
  baud := (false, false)
  sendingA := none
  txd := []
  offered := none
  reading := none
  miso := []
  deviceReset := none
  pending := []

end Sys2Proof.Machine
end

