-- ==== Sys2Proof/Machine/Codec.lean ====
section
/-!
DEFINITION. Machine/Codec.lean: bytes. Little-endian fields (1.10, R192), the CRC-16 of frames (R192) and the
CRC-32 of plan slots (R158), and a frame as the bytes of a link.
-/

namespace Sys2Proof.Machine

/-- The low byte of a number. -/
def toByte (n : Nat) : Byte := BitVec.ofNat 8 n

/-- `width` bytes of a number, low byte first (1.10). -/
def leBytes : Nat → Nat → List Byte
  | 0, _ => []
  | width + 1, n => toByte n :: leBytes width (n / 256)

/-- The number that bytes spell, low byte first (1.10). -/
def leNat : List Byte → Nat
  | [] => 0
  | b :: bs => b.toNat + 256 * leNat bs

/-- The `width` bytes of `body` from `offset` on, as a number. -/
def field (body : List Byte) (offset width : Nat) : Nat :=
  leNat ((body.drop offset).take width)

/-- One bit of the CRC-16: polynomial 0x1021, bits not reflected (R192). -/
def crc16Bit (crc : BitVec 16) : BitVec 16 :=
  if crc.msb then (crc <<< 1) ^^^ 0x1021 else crc <<< 1

/-- One byte of the CRC-16. -/
def crc16Byte (crc : BitVec 16) (b : Byte) : BitVec 16 :=
  (List.range 8).foldl (fun c _ => crc16Bit c) (crc ^^^ (b.zeroExtend 16 <<< 8))

/-- The CRC-16 of a frame: initial value 0xFFFF, no final exclusive-or (R192). -/
def crc16 (bytes : List Byte) : BitVec 16 := bytes.foldl crc16Byte 0xFFFF

/-- One bit of the CRC-32: polynomial 0x04C11DB7 with reflected input and output (R158). -/
def crc32Bit (crc : BitVec 32) : BitVec 32 :=
  if crc.getLsbD 0 then (crc >>> 1) ^^^ 0xEDB88320 else crc >>> 1

/-- One byte of the CRC-32. -/
def crc32Byte (crc : BitVec 32) (b : Byte) : BitVec 32 :=
  (List.range 8).foldl (fun c _ => crc32Bit c) (crc ^^^ b.zeroExtend 32)

/-- The check of a plan slot: initial value and final exclusive-or 0xFFFFFFFF (R158). -/
def crc32 (bytes : List Byte) : BitVec 32 := bytes.foldl crc32Byte 0xFFFFFFFF ^^^ 0xFFFFFFFF

/-- The content of a frame after LEN and before the CRC (R192). -/
def Frame.payload (f : Frame) : List Byte := f.ses :: f.seq :: f.kind :: f.body

/-- LEN: the number of bytes after it (R192). -/
def Frame.len (f : Frame) : Nat := f.payload.length + 2

/-- A frame from LEN to CRC, as Port B carries it (R184, R192). -/
def Frame.bytes (f : Frame) : List Byte :=
  let covered := toByte f.len :: f.payload
  covered ++ leBytes 2 (crc16 covered).toNat

/-- The sync byte of Port A (R183). -/
def syncByte : Byte := 0xA7

/-- The frame that checked bytes hold: `kept` are the LEN bytes after LEN. `none` when LEN is outside 5 to
253, when the number of bytes is not LEN, or when the CRC does not match (R183, R184). -/
def frameOf (len : Nat) (kept : List Byte) : Option Frame :=
  if 5 ≤ len ∧ len ≤ 253 ∧ kept.length = len then
    let payload := kept.take (len - 2)
    if leBytes 2 (crc16 (toByte len :: payload)).toNat = kept.drop (len - 2) then
      match payload with
      | ses :: seq :: kind :: body => some ⟨ses, seq, kind, body⟩
      | _ => none
    else none
  else none

end Sys2Proof.Machine
end

