-- ==== Sys2Proof/Machine/Ops.lean ====
section
/-!
DEFINITION. Machine/Ops.lean: the named operations over the state that the meanings share: reading and
writing the tables, driving outputs (R21 to R23, R85), adding reports (R145), the order of the queue (R40),
handles (R41), replies (R186), and taking a request from a receive FIFO (R122, R123, R186).
-/

namespace Sys2Proof.Machine

/-! ### Tables -/

/-- Entry `i` of a table, `d` outside it. -/
def tget {α : Type} {n : Nat} (v : Vector α n) (i : Nat) (d : α) : α := (v[i]?).getD d

/-- The table with entry `i` replaced; unchanged when `i` is outside it. -/
def tset {α : Type} {n : Nat} (v : Vector α n) (i : Nat) (a : α) : Vector α n := v.setIfInBounds i a

/-- "Now": the current device time (1.7). -/
def State.now (s : State) : Nat := s.time.device

/-- The elapsed count (R1). -/
def State.elapsed (s : State) : Nat := s.time.elapsed

/-- A device time held at 2^48 - 1 when it would exceed it (R2, R6, R45, R56). -/
def clampTime (t : Nat) : Nat := min t Config.maxTime

/-- Channel record `c` (R15). -/
def State.chan (s : State) (c : Nat) : Channel := tget s.channels c .unbound

/-- Writes channel record `c`. -/
def State.setChan (s : State) (c : Nat) (r : Channel) : State :=
  { s with channels := tset s.channels c r }

/-- Pin record `p` (R14). -/
def State.pin (s : State) (p : Nat) : PinRec := tget s.pins p .isolated

/-- Writes the pin records of a list of pins. -/
def State.setPins (s : State) (ps : List Nat) (r : PinRec) : State :=
  { s with pins := ps.foldl (fun v p => tset v p r) s.pins }

/-- The bound output channel `c`, if it is one. -/
def State.outputAt (s : State) (c : Nat) : Option Output :=
  match s.chan c with
  | .output o => some o
  | _ => none

/-- The bound input channel `c`, if it is one. -/
def State.inputAt (s : State) (c : Nat) : Option Input :=
  match s.chan c with
  | .input i => some i
  | _ => none

/-- The owner of a channel (R133). -/
def Channel.owner : Channel → Option Nat
  | .unbound => none
  | .output o => o.owner
  | .input i => i.owner

/-- The channel with another owner (R133). -/
def Channel.withOwner (r : Channel) (n : Option Nat) : Channel :=
  match r with
  | .unbound => .unbound
  | .output o => .output { o with owner := n }
  | .input i => .input { i with owner := n }

/-- Trigger position `t` (R88). -/
def State.trigger (s : State) (t : Nat) : Option Trigger := tget s.triggers t none

/-- Writes trigger position `t`. -/
def State.setTrigger (s : State) (t : Nat) (r : Option Trigger) : State :=
  { s with triggers := tset s.triggers t r }

/-- Interlock position `i` (R74). -/
def State.interlock (s : State) (i : Nat) : Option Interlock := tget s.interlocks i none

/-- Writes interlock position `i`. -/
def State.setInterlock (s : State) (i : Nat) (r : Option Interlock) : State :=
  { s with interlocks := tset s.interlocks i r }

/-- Session record `n`; sessions are numbered from 1, and every other number is FREE (R117). -/
def State.session (s : State) (n : Nat) : Session :=
  if n = 0 then .free else tget s.sessions (n - 1) .free

/-- Writes session record `n`. -/
def State.setSession (s : State) (n : Nat) (r : Session) : State :=
  if n = 0 then s else { s with sessions := tset s.sessions (n - 1) r }

/-- The report queue of session `n` (R143). -/
def State.reportQueue (s : State) (n : Nat) : ReportQueue :=
  if n = 0 then ReportQueue.fresh else tget s.reports (n - 1) ReportQueue.fresh

/-- Writes the report queue of session `n`. -/
def State.setReportQueue (s : State) (n : Nat) (q : ReportQueue) : State :=
  if n = 0 then s else { s with reports := tset s.reports (n - 1) q }

/-- Plan slot `k` (R158). -/
def State.slot (s : State) (k : Nat) : Slot := tget s.slots k Slot.factory

/-- Writes plan slot `k`. -/
def State.setSlot (s : State) (k : Nat) (r : Slot) : State := { s with slots := tset s.slots k r }

/-- What port `p` holds. -/
def State.link (s : State) : Port → Link
  | .a => s.linkA
  | .b => s.linkB

/-- Writes what port `p` holds. -/
def State.setLink (s : State) (p : Port) (l : Link) : State :=
  match p with
  | .a => { s with linkA := l }
  | .b => { s with linkB := l }

/-- The session numbers (1.9). -/
def sessionNumbers : List Nat := [1, 2, 3, 4, 5]

/-- The channel numbers (1.9). -/
def channelNumbers : List Nat := List.range 32

/-- A live session is OPEN or LAPSED (R118). -/
def Session.live : Session → Bool
  | .free => false
  | .host _ => true
  | .localSession => true

/-- OPEN (R117). The LOCAL session does not lapse (R139). -/
def Session.isOpen : Session → Bool
  | .free => false
  | .host h =>
    match h.life with
    | .opened _ => true
    | .lapsed _ => false
  | .localSession => true

/-- LAPSED (R117). -/
def Session.isLapsed (r : Session) : Bool := r.live && !r.isOpen

/-- The class of a live session; OPERATOR for LOCAL (R117). -/
def Session.cls : Session → SessionClass
  | .free => .observer
  | .host h => h.cls
  | .localSession => .operator

/-- The class of session `n`. -/
def State.classOf (s : State) (n : Nat) : SessionClass := (s.session n).cls

/-- SERVICE with MAINT_N asserted (R121). -/
def State.serviceRights (s : State) (n : Nat) (key : Bool) : Bool :=
  key && decide (s.classOf n = .service)

/-! ### Reports (R145) -/

/-- The Report Unit takes a report of time `time` for session `n` (R145): dropped when the session is FREE,
counted as missed when its queue holds 32 records, else appended. -/
def State.addReport (s : State) (n time : Nat) (body : ReportBody) : State :=
  if (s.session n).live then
    let q := s.reportQueue n
    if Config.reportCapacity ≤ q.records.length then
      s.setReportQueue n { q with missed := min (q.missed + 1) 255 }
    else
      s.setReportQueue n
        { q with
          records := q.records ++ [⟨q.next, q.missed, time, body⟩]
          next := (q.next + 1) % 65536
          missed := 0 }
  else s

/-- One report for each OPEN or LAPSED session (R115). -/
def State.reportToAll (s : State) (time : Nat) (body : ReportBody) : State :=
  sessionNumbers.foldl (fun s n => s.addReport n time body) s

/-! ### Driving outputs (R21 to R23, R85) -/

/-- The intended electrical level of an output at a logical level (R22). -/
def OutConfig.intended (g : OutConfig) (l : Level) : PinLevel :=
  match l, g.polarity with
  | .active, .activeHigh => .high
  | .inactive, .activeHigh => .low
  | .active, .activeLow => .low
  | .inactive, .activeLow => .high

/-- What a pin of the output presents at a logical level (R22). -/
def OutConfig.presents (g : OutConfig) (l : Level) : PinOut :=
  match g.intended l, g.drive with
  | .high, .pushPull => .high
  | .high, .openDrain => .released
  | .low, _ => .low

/-- FAULTED (R15). -/
def Output.isFaulted (o : Output) : Bool :=
  match o.condition with
  | .faulted _ => true
  | _ => false

/-- Writes output channel `c` and sets every pin of its mirror group to the level that matches (R22). -/
def State.putOutput (s : State) (c : Nat) (o : Output) : State :=
  (s.setChan c (.output o)).setPins o.cfg.pins (.driving c (o.cfg.presents o.level))

/-- The last-off time after a change to level `new` at `now` (R21, step 1). -/
def Output.lastOffAfter (o : Output) (new : Level) (now : Nat) : Option Nat :=
  if o.level = .active ∧ new = .inactive then some now else o.lastOff

/-- A drive request for an output that is not FAULTED (R21); `release` is the release time that a PULSE
carries. -/
def State.driveOutput (s : State) (c : Nat) (o : Output) (new : Level) (release : Option Nat) : State :=
  s.putOutput c
    { o with
      level := new
      lastOff := o.lastOffAfter new s.now
      release := release
      condition := .settling (s.elapsed + o.cfg.settle) }

/-- The other channel of a record that names `x` (R74). -/
def Interlock.partner (r : Interlock) (x : Nat) : Option Nat :=
  if r.a = x then some r.b else if r.b = x then some r.a else none

/-- The records of the interlock table in table order (R74). -/
def State.interlockList (s : State) : List Interlock := s.interlocks.toList.filterMap id

/-- The partners of `x`, by each record that names it, in table order. -/
def State.partnersOf (s : State) (x : Nat) : List Nat :=
  s.interlockList.filterMap fun r => r.partner x

/-- Drives `y` to INACTIVE if it is ACTIVE and not FAULTED (R85; a FAULTED partner is never ACTIVE there). -/
def State.breakPartner (s : State) (y : Nat) : State :=
  match s.chan y with
  | .output o =>
    if o.level = .active ∧ o.isFaulted = false then s.driveOutput y o .inactive none else s
  | _ => s

/-- Drives every ACTIVE partner of `x` to INACTIVE (R85). -/
def State.breakPartners (s : State) (x : Nat) : State :=
  (s.partnersOf x).foldl State.breakPartner s

/-- The drive request for the safe level of channel `c`, with no release time, that stop entry, lapse,
session end and a re-bind make: taken as R21, left as it stands when FAULTED (R23), with its ACTIVE partners
broken first when it becomes ACTIVE (R85). -/
def State.driveSafe (s : State) (c : Nat) : State :=
  match s.chan c with
  | .output o =>
    if o.isFaulted then s
    else
      (if o.cfg.safe = .active ∧ o.level = .inactive then s.breakPartners c else s).driveOutput c o
        o.cfg.safe none
  | _ => s

/-- The bound output channels owned by session `n`, in channel order. -/
def State.ownedOutputs (s : State) (n : Nat) : List Nat :=
  channelNumbers.filter fun c =>
    match s.chan c with
    | .output o => o.owner == some n
    | _ => false

/-- Sets the held field of an output channel (R28). -/
def State.setHeld (s : State) (c : Nat) (held : Bool) : State :=
  match s.chan c with
  | .output o => s.setChan c (.output { o with held := held })
  | _ => s

/-! ### The queue (R37 to R42) -/

/-- The key time of an entry; a TEMPLATE has none (R37). -/
def Phase.key? : Phase → Option Nat
  | .waitingTime due => some due
  | .waitingGuard _ effective => some effective
  | .deferred _ effective => some effective
  | .template _ => none

/-- The due time of a SCHEDULED entry (R37). -/
def Phase.due? : Phase → Option Nat
  | .waitingTime due => some due
  | .waitingGuard due _ => some due
  | .deferred due _ => some due
  | .template _ => none

/-- The state a report or reply names (R37). -/
def Phase.state : Phase → EntryState
  | .waitingTime _ => .waitingTime
  | .waitingGuard _ _ => .waitingGuard
  | .deferred _ _ => .deferred
  | .template _ => .template

/-- ARMED (R37). -/
def Phase.isTemplate : Phase → Bool
  | .template _ => true
  | _ => false

/-- WAITING_GUARD (R38). -/
def Phase.isWaitingGuard : Phase → Bool
  | .waitingGuard _ _ => true
  | _ => false

/-- The due time of an entry's occurrence; 0 for a TEMPLATE, which has none. -/
def Entry.due (e : Entry) : Nat := (e.phase.due?).getD 0

/-- `a` stands before `b` in queue order: scheduled entries by key time and then admission number, before
templates by admission number (R40). -/
def Entry.before (a b : Entry) : Bool :=
  match a.phase.key?, b.phase.key? with
  | some x, some y => x < y || (x == y && a.adm < b.adm)
  | some _, none => true
  | none, some _ => false
  | none, none => a.adm < b.adm

/-- The queue with an entry put in its place. -/
def insertEntry (e : Entry) : List Entry → List Entry
  | [] => [e]
  | x :: xs => if e.before x then e :: x :: xs else x :: insertEntry e xs

/-- The queue put in order again, after its key times have changed. -/
def sortEntries (q : List Entry) : List Entry := q.foldr insertEntry []

/-- The queue without the entry of admission number `adm`. -/
def State.removeEntry (s : State) (adm : Nat) : State :=
  { s with queue := s.queue.filter fun e => e.adm != adm }

/-- The entry of admission number `adm`. -/
def State.entry? (s : State) (adm : Nat) : Option Entry := s.queue.find? fun e => e.adm == adm

/-- The entry put into state `ph`, with its admission number kept, at its new place in queue order (R40). -/
def State.rephase (s : State) (e : Entry) (ph : Phase) : State :=
  { s with queue := insertEntry { e with phase := ph } (s.removeEntry e.adm).queue }

/-- The number of entries that session `n` owns (R42). -/
def State.entriesOwned (s : State) (n : Nat) : Nat := (s.queue.filter fun e => e.owner == n).length

/-- The pool has room for one more entry (R42). -/
def State.poolHasRoom (s : State) : Bool := s.queue.length < Config.queueCapacity

/-- Session `n` is below its quota (R42). -/
def State.quotaHasRoom (s : State) (n : Nat) : Bool := s.entriesOwned n < Config.quota

/-- The handle after `h`, from 65535 round to 1 (R41). -/
def nextHandle (h : Nat) : Nat := if 65535 ≤ h then 1 else h + 1

/-- The first handle, counting upward from `h`, that is not in use; `fuel` bounds the search. -/
def freeHandle (used : List Nat) : Nat → Nat → Nat
  | 0, h => h
  | fuel + 1, h => if used.contains h then freeHandle used fuel (nextHandle h) else h

/-- The handle the next admitted entry receives (R41). The queue holds at most 512 entries, so 513 tries find
one. -/
def State.newHandle (s : State) : Nat :=
  freeHandle (s.queue.map Entry.handle) (Config.queueCapacity + 1) s.handleCounter

/-- The entry that admission makes: a new handle, a new admission number, skipped 0 (R41, R45 to R47). -/
def State.newEntry (s : State) (owner : Nat) (ph : Phase) (act : Action) (origin : Origin) : Entry :=
  ⟨s.newHandle, owner, s.nextAdmission, ph, act, origin, 0⟩

/-- Admits an entry (R41, R42, R45 to R47). The room has been judged by the caller. -/
def State.admitEntry (s : State) (owner : Nat) (ph : Phase) (act : Action) (origin : Origin) : State :=
  { s with
    queue := insertEntry (s.newEntry owner ph act origin) s.queue
    handleCounter := nextHandle s.newHandle
    nextAdmission := s.nextAdmission + 1 }

/-- Puts an entry into the scheduled order under a new admission number, in place of the entry it follows: a
successor (R67) or a converted template (R96). -/
def State.requeue (s : State) (e : Entry) : State :=
  { s with
    queue := insertEntry { e with adm := s.nextAdmission } (s.removeEntry e.adm).queue
    nextAdmission := s.nextAdmission + 1 }

/-! ### Replies and requests (R122 to R125, R186) -/

/-- The result code of a reply (R193). -/
def Result.code : Result → Byte
  | .ok => 0x00 | .unknownKind => 0x01 | .malformed => 0x02 | .noSession => 0x03
  | .sequence => 0x04 | .notPermitted => 0x05 | .classTaken => 0x06 | .sessionLimit => 0x07
  | .notBound => 0x08 | .alreadyBound => 0x09 | .pinBusy => 0x0A | .inUse => 0x0B
  | .notOwner => 0x0C | .owned => 0x0D | .channelFaulted => 0x0E | .notFaulted => 0x0F
  | .queueFull => 0x10 | .quota => 0x11 | .noSuchAction => 0x12 | .interlockConflict => 0x13
  | .tableFull => 0x14 | .stopLine => 0x15 | .noLocal => 0x16 | .storeBusy => 0x17
  | .storeProtected => 0x18 | .lowSupply => 0x19 | .slotInvalid => 0x1A | .planTooLarge => 0x1B
  | .buildActive => 0x1C | .noBuild => 0x1D | .badAck => 0x1E

/-- What the block that owns a request decides: the result code, the fields after it, whether the reply is
cached (R123, R124, R190) and whether it is the reply to an accepted DEVICE_RESET. -/
structure Answer where
  code : Result
  fields : List Byte
  cached : Bool
  resets : Bool
deriving DecidableEq, Repr

/-- A refusal that carries its code alone. -/
def refuse (r : Result) : Answer := ⟨r, [], true, false⟩

/-- OK with the fields of the request's rule. -/
def okWith (fields : List Byte) : Answer := ⟨.ok, fields, true, false⟩

/-- The reply to a frame: SES and SEQ echoed, KIND plus 0x80, the result code first in the body (R192). -/
def replyFrame (f : Frame) (code : Result) (fields : List Byte) : Frame :=
  ⟨f.ses, f.seq, f.kind + 0x80, code.code :: fields⟩

/-- Places a reply in the port's reply queue (R186). -/
def State.placeReply (s : State) (p : Port) (r : Frame) (resets : Bool) : State :=
  let l := s.link p
  s.setLink p { l with replies := l.replies ++ [⟨r, resets⟩] }

/-- The handler of port `p` takes a frame only while the start-up gate is open, no DEVICE_RESET has been
accepted since the last reset, and the reply queue holds fewer than four replies (R186). -/
def State.canTake (s : State) (p : Port) : Bool :=
  s.stop.gateOpen && s.deviceReset.isNone && decide ((s.link p).replies.length < Config.replyCapacity)

/-- Takes the oldest frame of the port's receive FIFO, when the handler may take one and its kind passes
`sel` (R186). -/
def State.takeFrame (s : State) (p : Port) (sel : Byte → Bool) : Option (Frame × State) :=
  let l := s.link p
  match l.fifo with
  | [] => none
  | f :: rest => if s.canTake p && sel f.kind then some (f, s.setLink p { l with fifo := rest }) else none

/-- The live host session `n` of port `p`, to which a frame of that number is routed (R122). -/
def State.routed (s : State) (p : Port) (n : Nat) : Option HostSession :=
  match s.session n with
  | .host h => if h.port = p then some h else none
  | _ => none

/-- Records a reply taken in sequence: the expected sequence advances, and the reply is cached (R123). Nothing
is recorded when the session ended in the event (R130). -/
def State.noteReply (s : State) (n seq : Nat) (r : Frame) (cached : Bool) : State :=
  match s.session n with
  | .host h =>
    s.setSession n
      (.host
        { h with
          expected := (h.expected + 1) % 256
          last := if cached then some (seq, r) else h.last })
  | _ => s

end Sys2Proof.Machine
end

