-- ==== Sys2Proof/Machine/Flags.lean ====
section
/-!
DEFINITION. Machine/Flags.lean: every condition that the rules name and judge in more than one place: reached,
late, due, withheld, in use, busy, ready, and the outbound count with ATTN_N.
-/

namespace Sys2Proof.Machine

/-- A time held in device time is reached (R3). -/
def State.reached (s : State) (t : Nat) : Bool := decide (t ≤ s.now)

/-- The late indication (R64): the fire or decision time exceeds the due time by more than 10 ticks. -/
def isLate (due time : Nat) : Bool := decide (due + Config.lateThreshold < time)

/-- The part is STOPPED (R105). -/
def State.stopped (s : State) : Bool := decide (s.stop.run = .stopped)

/-- An entry is withheld when its owner is not OPEN or the part is STOPPED (R54). -/
def State.withheld (s : State) (e : Entry) : Bool := s.stopped || !(s.session e.owner).isOpen

/-- A level change of channel `c` re-evaluates the entry: it is in WAITING_GUARD on that channel and not withheld
(R57). -/
def State.reevaluates (s : State) (c : Nat) (e : Entry) : Bool :=
  e.phase.isWaitingGuard && (e.act.grd.any fun g => g.channel == c) && !s.withheld e

/-- An entry that a level change is still to re-evaluate (R57). -/
def State.awaits (s : State) (l : LevelChange) (e : Entry) : Bool :=
  l.waiting.contains e.adm && s.reevaluates l.channel e

/-- A level change with the numbers of the entries that it is still to re-evaluate. Withheld entries are passed over,
and the change is not stored for them (R57). -/
def State.standing (s : State) (l : LevelChange) : LevelChange :=
  { l with waiting := l.waiting.filter fun m => s.queue.any fun e => e.adm == m && s.awaits l e }

/-- The level changes that have an entry to re-evaluate, each with those entries alone (R57). -/
def State.standingChanges (s : State) : List LevelChange :=
  (s.levelChanges.map s.standing).filter fun l => !l.waiting.isEmpty

/-- Every level change not yet taken passes over the entries that are withheld (R57). This is done when a hold begins
and at every re-evaluation, so that no change is stored through a hold, at whose end R72 judges the entry in place of
the changes passed over (DEDUCED, 11). -/
def State.passOver (s : State) : State := { s with levelChanges := s.standingChanges }

/-- A SCHEDULED entry whose key time is reached, in any of its states (R53, R58). -/
def State.keyReached (s : State) (e : Entry) : Bool :=
  match e.phase.key? with
  | some t => s.reached t
  | none => false

/-- An action names a channel as its target or as its guard (R16). -/
def Action.names (a : Action) (c : Nat) : Bool :=
  a.target == c ||
    match a.grd with
    | some g => g.channel == c
    | none => false

/-- The triggers held, in table order (R88). -/
def State.triggerList (s : State) : List (Nat × Trigger) :=
  (List.range 16).filterMap fun t => (s.trigger t).map fun r => (t, r)

/-- A channel is in use while an entry, a trigger or an interlock names it (R16). -/
def State.inUse (s : State) (c : Nat) : Bool :=
  s.queue.any (fun e => e.act.names c) ||
    s.triggerList.any (fun x => x.2.spec.source == c) ||
    s.interlockList.any (fun r => r.a == c || r.b == c)

/-- An entry of session `n` targets the channel: the narrower test of RELEASE (R138). -/
def State.targetedBy (s : State) (n c : Nat) : Bool :=
  s.queue.any fun e => e.owner == n && e.act.target == c

/-- A store operation is in flight while the state is not IDLE (R165). -/
def State.storeBusy (s : State) : Bool := !decide (s.store = .idle)

/-- A report queue is ready when it has an unsent record and fewer than 8 are sent (R146). -/
def ReportQueue.ready (q : ReportQueue) : Bool :=
  decide (q.sent < q.records.length) && decide (q.sent < Config.reportWindow)

/-- Session `n` is a live host session of the port with a ready report queue (R146, R148). -/
def State.readyOn (s : State) (p : Port) (n : Nat) : Bool :=
  (s.routed p n).isSome && (s.reportQueue n).ready

/-- The outbound count of Port B (R185): the offered frame, the replies waiting, and, unless a DEVICE_RESET
has been accepted, one for each ready report queue of a Port B session. -/
def State.outboundCount (s : State) : Nat :=
  (if s.offered.isSome then 1 else 0) + s.linkB.replies.length +
    (if s.deviceReset.isSome then 0 else ([1, 2, 3, 4].filter (s.readyOn .b)).length)

/-- ATTN_N is asserted while the outbound count is not 0 (R185). -/
def State.attnAsserted (s : State) : Bool := s.outboundCount != 0

end Sys2Proof.Machine
end

