-- ==== Sys2Proof/Machine/Layout.lean ====
section
/-!
DEFINITION. Machine/Layout.lean: every layout that the part sends: enumerated values, query records, report
frames and the STATUS reply (R192, R193). Enumerated values are numbered from 0 in the order of the rule that
lists them.
-/

namespace Sys2Proof.Machine

/-! ### Field encodings (R192) -/

/-- A one-byte number. -/
def u8 (n : Nat) : List Byte := [toByte n]

/-- A two-byte number. -/
def u16 (n : Nat) : List Byte := leBytes 2 n

/-- A three-byte number. -/
def u24 (n : Nat) : List Byte := leBytes 3 n

/-- A four-byte number. -/
def u32 (n : Nat) : List Byte := leBytes 4 n

/-- A device time, six bytes (1.7). -/
def u48 (n : Nat) : List Byte := leBytes 6 n

/-- A yes/no flag. -/
def flag (b : Bool) : List Byte := [if b then 1 else 0]

/-- A trim value in two's complement. -/
def trimByte (v : Int) : List Byte := [BitVec.ofInt 8 v]

/-- A pin list of three places, 0xFF in each unused one. -/
def pinPlaces (ps : List Nat) : List Byte :=
  ((ps.map toByte) ++ [0xFF, 0xFF, 0xFF]).take 3

/-- The subscribers set: bit n - 1 for session n. -/
def sessionSet (ns : List Nat) : List Byte :=
  [toByte ((sessionNumbers.map fun n => if ns.contains n then 2 ^ (n - 1) else 0).sum)]

/-- The cause set: bit 0 LINE, bit 1 REQUEST. -/
def causeSet (line request : Bool) : List Byte :=
  [toByte ((if line then 1 else 0) + (if request then 2 else 0))]

/-- ACTIVE 0, INACTIVE 1 (R15). -/
def Level.code : Level → Nat
  | .active => 0
  | .inactive => 1

/-- HIGH 0, LOW 1 (R15, R37). -/
def pinLevelCode : PinLevel → Nat
  | .high => 0
  | .low => 1

/-- HIGH 0, LOW 1, UNKNOWN 2 (R15). -/
def QLevel.code : QLevel → Nat
  | .high => 0
  | .low => 1
  | .unknown => 2

/-- ACTIVE_HIGH 0, ACTIVE_LOW 1 (R15). -/
def Polarity.code : Polarity → Nat
  | .activeHigh => 0
  | .activeLow => 1

/-- PUSH_PULL 0, OPEN_DRAIN 1 (R15). -/
def Drive.code : Drive → Nat
  | .pushPull => 0
  | .openDrain => 1

/-- READY 0, SETTLING 1, FAULTED 2 (R15). -/
def Condition.code : Condition → Nat
  | .ready => 0
  | .settling _ => 1
  | .faulted _ => 2

/-- SET 0, CLEAR 1, TOGGLE 2, PULSE 3 (R37). -/
def ActionKind.code : ActionKind → Nat
  | .set => 0
  | .clear => 1
  | .toggle => 2
  | .pulse _ => 3

/-- WAITING_TIME 0, WAITING_GUARD 1, DEFERRED 2, TEMPLATE 3 (R37). -/
def EntryState.code : EntryState → Nat
  | .waitingTime => 0
  | .waitingGuard => 1
  | .deferred => 2
  | .template => 3

/-- REFUSE 0, BREAK_FIRST 1 (R74). -/
def InterlockMode.code : InterlockMode → Nat
  | .refuse => 0
  | .breakFirst => 1

/-- RISING 0, FALLING 1, EITHER 2 (R88). -/
def EdgeSel.code : EdgeSel → Nat
  | .rising => 0
  | .falling => 1
  | .either => 2

/-- ONCE 0, EVERY 1 (R88). -/
def TriggerMode.code : TriggerMode → Nat
  | .once => 0
  | .every => 1

/-- READY 0, HOLDOFF 1, SPENT 2 (R88). -/
def TriggerState.code : TriggerState → Nat
  | .ready => 0
  | .holdoff _ => 1
  | .spent => 2

/-- RISING 0, FALLING 1 (R32). -/
def directionCode (rising : Bool) : Nat := if rising then 0 else 1

/-- RUNNING 0, STOPPED 1 (R105). -/
def RunState.code : RunState → Nat
  | .running => 0
  | .stopped => 1

/-- FREE 0, OPEN 1, LAPSED 2 (R117). -/
def Session.stateCode (r : Session) : Nat :=
  if r.live then (if r.isOpen then 1 else 2) else 0

/-- OBSERVER 0, OPERATOR 1, SERVICE 2 (R117). -/
def SessionClass.code : SessionClass → Nat
  | .observer => 0
  | .operator => 1
  | .service => 2

/-- A 0, B 1 (R117). -/
def portCode : Port → Nat
  | .a => 0
  | .b => 1

/-- EMPTY 0, VALID 1, INVALID 2, ERASING 3, PROGRAMMING 4 (R158). -/
def SlotState.code : SlotState → Nat
  | .empty => 0
  | .valid => 1
  | .invalid => 2
  | .erasing => 3
  | .programming => 4

/-- NORMAL 0, LOW 1 (R171). -/
def supplyCode : SupplyLevel → Nat
  | .normal => 0
  | .low => 1

/-- GUARD_FALSE 0, GUARD_TIMEOUT 1, INTERLOCKED 2, CHANNEL_FAULTED 3, QUEUE_FULL 4 (R152). -/
def FailReason.code : FailReason → Nat
  | .guardFalse => 0
  | .guardTimeout => 1
  | .interlocked => 2
  | .channelFaulted => 3
  | .queueFull => 4

/-- ENTERED 0, CAUSE_ADDED 1, CAUSE_REMOVED 2, RESUMED 3 (R115). -/
def StopChange.code : StopChange → Nat
  | .entered => 0
  | .causeAdded => 1
  | .causeRemoved => 2
  | .resumed => 3

/-- IDLE 0, READING 1, ERASING 2, PROGRAMMING 3 (R165). -/
def StoreOp.stateCode : StoreOp → Nat
  | .idle => 0
  | .reading _ _ _ => 1
  | .commitErasing _ _ _ => 2
  | .commitProgramming _ _ _ => 3
  | .erasing _ _ => 2

/-- COMMIT 0, ERASE 1, LOAD 2; absent when IDLE (R165). -/
def StoreOp.kindCode? : StoreOp → Option Nat
  | .idle => none
  | .reading _ _ _ => some 2
  | .commitErasing _ _ _ => some 0
  | .commitProgramming _ _ _ => some 0
  | .erasing _ _ => some 1

/-- The slot of the operation; absent when IDLE (R165). -/
def StoreOp.slot? : StoreOp → Option Nat
  | .idle => none
  | .reading k _ _ => some k
  | .commitErasing k _ _ => some k
  | .commitProgramming k _ _ => some k
  | .erasing k _ => some k

/-- The requesting session; `none` when IDLE, and while an operation whose session has ended is in flight, which
R165 calls none. -/
def StoreOp.session? : StoreOp → Option Nat
  | .idle => none
  | .reading _ n _ => n
  | .commitErasing _ n _ => n
  | .commitProgramming _ n _ => n
  | .erasing _ n => n

/-! ### Records with optional fields (R192) -/

/-- The presence field, with one bit for each optional field from bit 0 of its first byte onward, `width`
bytes long. -/
def presence (width : Nat) (optional : List (Option (List Byte))) : List Byte :=
  leBytes width ((optional.map fun o => if o.isSome then 1 else 0).foldr (fun b n => b + 2 * n) 0)

/-- The bytes of an optional field: none when absent. -/
def optBytes (o : Option (List Byte)) : List Byte := o.getD []

/-- A record that begins with a length byte, which counts the bytes after it (16). -/
def lengthFirst (bytes : List Byte) : List Byte := toByte bytes.length :: bytes

/-- The longest run of records from the front that fits in `room` bytes (R192). -/
def takeFitting : Nat → List (List Byte) → List (List Byte)
  | _, [] => []
  | room, r :: rs => if r.length ≤ room then r :: takeFitting (room - r.length) rs else []

/-- The fault pins of an output, while FAULTED (R15). -/
def Output.faultPins (o : Output) : Option (List Nat) :=
  match o.condition with
  | .faulted ps => some ps
  | _ => none

/-- The optional fields of a channel record, in the order of R15. -/
def Channel.optionals : Channel → List (Option (List Byte))
  | .unbound => []
  | .output o =>
    [o.owner.map u8, some (u8 o.cfg.polarity.code), some (u8 o.cfg.drive.code),
      some (u8 o.cfg.safe.code), some (u16 o.cfg.settle), some (u8 o.level.code),
      some (u8 o.condition.code), some (flag o.held), o.release.map u48, o.lastOff.map u48,
      o.faultPins.map pinPlaces, none, none, none, none, none, none, none, none]
  | .input i =>
    [i.owner.map u8, none, none, none, none, none, none, none, none, none, none,
      some (u8 i.interval), some (u8 i.qualify), some (u8 i.level.code),
      i.candidate.map fun k => u8 (pinLevelCode k.level), i.candidate.map fun k => u8 k.count,
      i.candidate.map fun k => u48 k.first, i.lastEdge.map u48, some (sessionSet i.subscribers)]

/-- Direction NONE 0, OUTPUT 1, INPUT 2, and the pin list (R15). -/
def Channel.head : Channel → List Byte
  | .unbound => u8 0
  | .output o => u8 1 ++ pinPlaces o.cfg.pins
  | .input i => u8 2 ++ pinPlaces [i.pin]

/-- A channel record of CHANNEL_QUERY (R35, R192). -/
def channelRecord (c : Nat) (r : Channel) : List Byte :=
  lengthFirst (presence 3 r.optionals ++ u8 c ++ r.head ++ (r.optionals.map optBytes).flatten)

/-- A repeat in a queue entry record: period, then remaining with 0xFFFFFF for UNBOUNDED (R192). -/
def repetitionBytes (r : Repetition) : List Byte := u32 r.period ++ u24 (r.remaining.getD 0xFFFFFF)

/-- A guard in a queue entry record; the wait limit is 0 for SKIP (18). -/
def guardBytes (g : Guard) : List Byte :=
  u8 g.channel ++ u8 (pinLevelCode g.level) ++
    match g.mode with
    | .skip => u8 0 ++ u24 0
    | .wait limit => u8 1 ++ u24 limit

/-- Origin of an entry: one byte, then the template handle or 0 (R192). -/
def originBytes : Origin → List Byte
  | .request => u8 0 ++ u16 0
  | .load => u8 1 ++ u16 0
  | .trigger h => u8 2 ++ u16 h

/-- The width of a PULSE (R37). -/
def ActionKind.width? : ActionKind → Option Nat
  | .pulse w => some w
  | _ => none

/-- The effective time, present while DEFERRED or WAITING_GUARD (R37). -/
def Phase.effective? : Phase → Option Nat
  | .waitingGuard _ t => some t
  | .deferred _ t => some t
  | _ => none

/-- The offset of a TEMPLATE (R37). -/
def Phase.offset? : Phase → Option Nat
  | .template o => some o
  | _ => none

/-- A queue entry record of QUEUE_QUERY: every field of R37 but the admission number (R52, R192). -/
def entryRecord (e : Entry) : List Byte :=
  let width := e.act.kind.width?.map u24
  let due := e.phase.due?.map u48
  let effective := e.phase.effective?.map u48
  let offset := e.phase.offset?.map u32
  let rep := e.act.rep.map repetitionBytes
  let grd := e.act.grd.map guardBytes
  lengthFirst
    (presence 1 [width, due, effective, offset, rep, grd] ++ u16 e.handle ++ u8 e.owner ++
      flag e.phase.isTemplate ++ u8 e.phase.state.code ++ u8 e.act.target ++ u8 e.act.kind.code ++
      optBytes width ++ optBytes due ++ optBytes effective ++ optBytes offset ++ u8 e.act.tag ++
      optBytes rep ++ optBytes grd ++ flag e.act.report ++ flag e.act.carry ++
      originBytes e.origin ++ u16 e.skipped)

/-- An interlock record of INTERLOCK_QUERY (R79); it has no optional field. -/
def interlockRecord (i : Nat) (r : Interlock) : List Byte :=
  u8 i ++ u8 r.a ++ u8 r.b ++ u16 r.dead ++ u8 r.mode.code

/-- The holdoff end of a trigger in HOLDOFF (R88). -/
def TriggerState.endsAt? : TriggerState → Option Nat
  | .holdoff t => some t
  | _ => none

/-- A trigger record of TRIGGER_QUERY (R93). -/
def triggerRecord (t : Nat) (r : Trigger) : List Byte :=
  let ends := r.state.endsAt?.map u48
  let last := r.lastFire.map u48
  lengthFirst
    (presence 1 [ends, last] ++ u8 t ++ u8 r.owner ++ u8 r.spec.source ++ u8 r.spec.edge.code ++
      u8 r.spec.tag ++ u8 r.spec.mode.code ++ u24 r.spec.holdoff ++ u8 r.state.code ++
      optBytes ends ++ optBytes last)

/-- A slot metadata record of PLAN_LIST (R158, R173). -/
def slotRecord (k : Nat) (r : Slot) : List Byte :=
  let name := r.name.map fun n => toByte n.length :: n
  let check := r.check.map fun x => u32 x.toNat
  lengthFirst
    (presence 1 [name, check] ++ u8 k ++ u16 (Config.slotCapacity k) ++ u8 r.state.code ++
      optBytes name ++ flag r.autostart ++ u32 r.generation ++ u16 r.size ++ optBytes check)

/-- A one-byte number, 0xFF when absent or none (R193). -/
def orFF (o : Option Nat) : List Byte := u8 (o.getD 0xFF)

/-- The store operation record in PLAN_LIST (R165, R173): slot, kind and requesting session are absent exactly
when IDLE. A requesting session that is none is sent as 0xFF, as STATUS sends it (DESIGN CHOICE, 44). -/
def storeRecord (op : StoreOp) : List Byte :=
  let slot := op.slot?.map u8
  let kind := op.kindCode?.map u8
  let session := op.slot?.map fun _ => orFF op.session?
  lengthFirst
    (presence 1 [slot, kind, session] ++ u8 op.stateCode ++ optBytes slot ++ optBytes kind ++
      optBytes session)

/-- The byte size of a build (R162). -/
def Build.size (b : Build) : Nat := (b.records.map List.length).sum

/-- The build in PLAN_LIST: absent, or owner, slot, record count and byte size (R173). -/
def buildRecord (b : Option Build) : List Byte :=
  let fields := [b.map fun x => u8 x.owner, b.map fun x => u8 x.slot,
    b.map fun x => u16 x.records.length, b.map fun x => u16 x.size]
  lengthFirst (presence 1 fields ++ (fields.map optBytes).flatten)

/-! ### Reports (R152 to R157, R193) -/

/-- The fields that ACTION_DONE and ACTION_FAILED carry (R152). -/
def occurrenceBytes (o : Occurrence) : List Byte :=
  u16 o.handle ++ u8 o.channel ++ u8 o.kind.code ++ u48 o.due ++ flag o.late ++ u16 o.skipped

/-- Report kind code and fields (R193). -/
def ReportBody.layout : ReportBody → Nat × List Byte
  | .actionDone o => (0x01, occurrenceBytes o)
  | .actionFailed o r => (0x02, occurrenceBytes o ++ u8 r.code)
  | .actionExpired h c k due skipped remains =>
    (0x03, u16 h ++ u8 c ++ u8 k.code ++ u48 due ++ u16 skipped ++ flag remains)
  | .actionCancelled h c k st => (0x04, u8 0 ++ u16 h ++ u8 c ++ u8 k.code ++ u8 st.code)
  | .inputEdge c rising t => (0x05, u8 c ++ u8 (directionCode rising) ++ u48 t)
  | .channelFault c ps l => (0x06, u8 c ++ pinPlaces ps ++ u8 l.code)
  | .ownershipLost c n k => (0x07, u8 c ++ u8 n ++ u16 k)
  | .triggerFired tr src rising t scheduled failed =>
    (0x08, u8 tr ++ u8 src ++ u8 (directionCode rising) ++ u48 t ++ u16 scheduled ++ u16 failed)
  | .stopChange r =>
    (0x09, presence 1 [r.firstSample.map u48, r.entryTime.map u48] ++ u8 r.change.code ++
      u8 (if r.byLine then 0 else 1) ++ u8 r.run.code ++ causeSet r.line r.request ++
      u8 r.session ++ optBytes (r.firstSample.map u48) ++ optBytes (r.entryTime.map u48))
  | .sessionNotice k => (0x0A, u8 0 ++ u8 k)
  | .storeDone erase k st generation size =>
    (0x0B, u8 (if erase then 1 else 0) ++ u8 k ++ u8 st.code ++ u32 generation ++ u16 size)
  | .storeFailed verify erase k =>
    (0x0C, u8 (if verify then 1 else 0) ++ u8 (if erase then 1 else 0) ++ u8 k)
  | .loadDone k n =>
    (0x0D, u8 k ++ u16 n.binds ++ u16 n.interlocks ++ u16 n.triggers ++ u16 n.actions ++ u48 n.base)
  | .loadCorrupt k => (0x0E, u8 k ++ u8 0)
  | .loadRecord k i code => (0x0E, u8 k ++ u8 1 ++ u16 i ++ [code.code])

/-- The report frame that the transmitter builds from a record of session `n` (R157). -/
def reportFrame (n : Nat) (r : Report) : Frame :=
  ⟨toByte n, 0, 0xF0, u16 r.seq ++ u8 r.missed ++ u8 r.body.layout.1 ++ u48 r.time ++ r.body.layout.2⟩

/-! ### STATUS and IDENTIFY (R188, R193) -/

/-- NONE 0, LOADED 1, FAILED 2, CORRUPT 3, with what the outcome carries (R182). -/
def startupBytes : StartupOutcome → List Byte
  | .nothing => u8 0
  | .loaded n =>
    u8 1 ++ u16 n.binds ++ u16 n.interlocks ++ u16 n.triggers ++ u16 n.actions ++ u48 n.base
  | .failed i code => u8 2 ++ u16 i ++ [code.code]
  | .corrupt => u8 3

/-- State, port and class of a session; 0xFF for an absent port or class (20). -/
def sessionBytes (r : Session) : List Byte :=
  u8 r.stateCode ++
    match r with
    | .free => orFF none ++ orFF none
    | .host h => u8 (portCode h.port) ++ u8 h.cls.code
    | .localSession => orFF none ++ u8 SessionClass.operator.code

/-- The fields of the STATUS reply (R193). -/
def State.statusBytes (s : State) : List Byte :=
  u8 s.stop.run.code ++ causeSet s.stop.line s.stop.request ++
    presence 1 [s.stop.entryTime.map u48] ++ optBytes (s.stop.entryTime.map u48) ++
    u48 s.now ++ flag s.time.valid ++
    u8 s.store.stateCode ++ orFF s.store.slot? ++ orFF s.store.kindCode? ++ orFF s.store.session? ++
    u8 (supplyCode s.supply) ++ startupBytes s.startup ++
    (sessionNumbers.map fun n => sessionBytes (s.session n)).flatten ++
    u16 s.queue.length ++
    u16 s.linkA.errors ++ u16 s.linkA.overflows ++ u16 s.linkB.errors ++ u16 s.linkB.overflows

/-- The fields of the IDENTIFY reply (R188); a capacity takes one byte up to 255, else two (22). -/
def identifyBytes : List Byte :=
  u16 Config.vendorCode ++ u16 Config.partCode ++ u8 Config.revision ++ u8 24 ++ u8 32 ++
    u16 Config.queueCapacity ++ u16 Config.quota ++ u8 4 ++ u8 12 ++ u8 16 ++
    u8 Config.reportCapacity ++ u8 Config.reportWindow ++ u8 Config.fifoCapacity ++
    u8 Config.replyCapacity ++ u8 Config.maxBody ++ u8 8

end Sys2Proof.Machine
end

