-- ==== Sys2Proof/Machine/Operands.lean ====
section
/-!
DEFINITION. Machine/Operands.lean: the fields of request bodies and plan records, and the ranges that each
request applies at its MALFORMED condition (R192, R193). Each reader answers `none` where the rule refuses the
body as MALFORMED, which includes a body of the wrong length (R192).
-/

namespace Sys2Proof.Machine

/-! ### Single fields -/

/-- A body of one one-byte number below `bound`. -/
def readIndex (bound : Nat) (body : List Byte) : Option Nat :=
  if body.length = 1 ∧ field body 0 1 < bound then some (field body 0 1) else none

/-- A yes/no flag; a byte other than 0 and 1 is no flag (24). -/
def readFlag (n : Nat) : Option Bool :=
  match n with
  | 0 => some false
  | 1 => some true
  | _ => none

/-- Polarity by its number (R15). -/
def readPolarity (n : Nat) : Option Polarity :=
  match n with
  | 0 => some .activeHigh
  | 1 => some .activeLow
  | _ => none

/-- Drive by its number (R15). -/
def readDrive (n : Nat) : Option Drive :=
  match n with
  | 0 => some .pushPull
  | 1 => some .openDrain
  | _ => none

/-- Level by its number (R15). -/
def readLevel (n : Nat) : Option Level :=
  match n with
  | 0 => some .active
  | 1 => some .inactive
  | _ => none

/-- Required level of a guard by its number (R37). -/
def readPinLevel (n : Nat) : Option PinLevel :=
  match n with
  | 0 => some .high
  | 1 => some .low
  | _ => none

/-- Mode of an interlock by its number (R74). -/
def readInterlockMode (n : Nat) : Option InterlockMode :=
  match n with
  | 0 => some .refuse
  | 1 => some .breakFirst
  | _ => none

/-- Edge of a trigger by its number (R88). -/
def readEdge (n : Nat) : Option EdgeSel :=
  match n with
  | 0 => some .rising
  | 1 => some .falling
  | 2 => some .either
  | _ => none

/-- Mode of a trigger by its number (R88). -/
def readTriggerMode (n : Nat) : Option TriggerMode :=
  match n with
  | 0 => some .once
  | 1 => some .every
  | _ => none

/-- Class by its number (R117). -/
def readClass (n : Nat) : Option SessionClass :=
  match n with
  | 0 => some .observer
  | 1 => some .operator
  | 2 => some .service
  | _ => none

/-- The trim value of a byte in two's complement (R192). -/
def trimOf (b : Nat) : Int := (toByte b).toInt

/-! ### Time -/

/-- TIME_SET: one device time (R5). -/
def readTimeSet (body : List Byte) : Option Nat :=
  if body.length = 6 then some (field body 0 6) else none

/-- TIME_TRIM: a trim value of -127 to 127 and a window of 1 second or more (R10). -/
def readTimeTrim (body : List Byte) : Option Trim :=
  let value := trimOf (field body 0 1)
  let window := field body 1 2
  if body.length = 3 ∧ -127 ≤ value ∧ window ≠ 0 then some ⟨value, window⟩ else none

/-! ### Channels -/

/-- What BIND makes of a channel: an output or an input with its options (R17). -/
inductive BindSpec where
  | output (g : OutConfig)
  | input (pin interval qualify : Nat)
deriving DecidableEq, Repr

/-- The pins that the spec names (R17). -/
def BindSpec.pins : BindSpec → List Nat
  | .output g => g.pins
  | .input pin _ _ => [pin]

/-- The pins of a list of three places, 0xFF being an unused place (R192, 23). -/
def pinsOf (places : List Byte) : List Nat := (places.map BitVec.toNat).filter (· != 255)

/-- The ranges of an output bind (R17); a settle time of 0 counts as 50. -/
def checkedOutput (pins : List Nat) (pol : Polarity) (drive : Drive) (safe : Level) (settle : Nat) :
    Option BindSpec :=
  if pins.all (· < 24) ∧ pins.Nodup ∧ 1 ≤ pins.length ∧ pins.length ≤ 3 ∧ settle ≤ 2000 then
    some (.output ⟨pins, pol, drive, safe, if settle = 0 then Config.defaultSettle else settle⟩)
  else none

/-- The ranges of an input's sampling options (R17, R33). -/
def samplingInRange (interval qualify : Nat) : Bool :=
  1 ≤ interval && interval ≤ 250 && 2 ≤ qualify && qualify ≤ 16

/-- The ranges of an input bind (R17). -/
def checkedInput (pins : List Nat) (interval qualify : Nat) : Option BindSpec :=
  match pins with
  | [pin] => if pin < 24 ∧ samplingInRange interval qualify then some (.input pin interval qualify) else none
  | _ => none

/-- BIND: channel, direction (OUTPUT 1, INPUT 2), three pin places, and the options of the direction (R17,
R192). -/
def readBind (body : List Byte) : Option (Nat × BindSpec) :=
  let c := field body 0 1
  let pins := pinsOf ((body.drop 2).take 3)
  if 31 < c then none
  else if field body 1 1 = 1 ∧ body.length = 10 then do
    let pol ← readPolarity (field body 5 1)
    let drive ← readDrive (field body 6 1)
    let safe ← readLevel (field body 7 1)
    let spec ← checkedOutput pins pol drive safe (field body 8 2)
    pure (c, spec)
  else if field body 1 1 = 2 ∧ body.length = 7 then do
    let spec ← checkedInput pins (field body 5 1) (field body 6 1)
    pure (c, spec)
  else none

/-- REQUALIFY: channel, sample interval, qualify count (R33). -/
def readRequalify (body : List Byte) : Option (Nat × Nat × Nat) :=
  let c := field body 0 1
  let interval := field body 1 1
  let qualify := field body 2 1
  if body.length = 3 ∧ c ≤ 31 ∧ samplingInRange interval qualify then some (c, interval, qualify) else none

/-- CHANNEL_QUERY: first channel 0 to 31, count 1 to 32 (R35). -/
def readChannelQuery (body : List Byte) : Option (Nat × Nat) :=
  let first := field body 0 1
  let count := field body 1 1
  if body.length = 2 ∧ first ≤ 31 ∧ 1 ≤ count ∧ count ≤ 32 then some (first, count) else none

/-- CLAIM: channel, force flag (R135). -/
def readClaim (body : List Byte) : Option (Nat × Bool) :=
  if body.length = 2 ∧ field body 0 1 ≤ 31 then do
    let force ← readFlag (field body 1 1)
    pure (field body 0 1, force)
  else none

/-! ### Sessions -/

/-- OPEN: class, keepalive interval of 1,000 to 600,000, client tag (R119). -/
def readOpen (body : List Byte) : Option (SessionClass × Nat × Nat) :=
  let interval := field body 1 4
  if body.length = 7 ∧ 1000 ≤ interval ∧ interval ≤ 600000 then do
    let cls ← readClass (field body 0 1)
    pure (cls, interval, field body 5 2)
  else none

/-! ### Actions -/

/-- The form of an admission with its time: an absolute due time, a delay from the request or an offset from
the load base, or an armed offset (R43, R160). -/
inductive ActionForm where
  | absolute (due : Nat)
  | relative (ticks : Nat)
  | armed (offset : Nat)
deriving DecidableEq, Repr

/-- The kind of an action; a width is given for PULSE and only for PULSE (R44). -/
def readActionKind (k width : Nat) : Option ActionKind :=
  match k with
  | 0 => if width = 0 then some .set else none
  | 1 => if width = 0 then some .clear else none
  | 2 => if width = 0 then some .toggle else none
  | 3 => if width = 0 then none else some (.pulse width)
  | _ => none

/-- The repeat part at `at_`: period of 10 or more, count with 0 for UNBOUNDED (R43, R192, R193). -/
def readRepetition (b : List Byte) (at_ : Nat) : Option Repetition :=
  let period := field b at_ 4
  let count := field b (at_ + 4) 2
  if 10 ≤ period then some ⟨period, if count = 0 then none else some count⟩ else none

/-- The guard part at `at_` (R44, R193): the wait limit is 0 for SKIP and not 0 for WAIT. -/
def readGuard (b : List Byte) (at_ : Nat) : Option Guard :=
  let limit := field b (at_ + 4) 3
  if field b at_ 1 ≤ 31 then do
    let level ← readPinLevel (field b (at_ + 1) 1)
    match field b (at_ + 2) 1 with
    | 0 => if limit = 0 then some ⟨field b at_ 1, level, .skip⟩ else none
    | 1 => if limit = 0 then none else some ⟨field b at_ 1, level, .wait limit⟩
    | _ => none
  else none

/-- The guard mode is WAIT (R44). -/
def Guard.waits (g : Guard) : Bool :=
  match g.mode with
  | .wait _ => true
  | .skip => false

/-- The layout of an ACTION record with its range checks (R44, R161, R193). Bit 0 of the kind byte announces a
repeat part, bit 1 a guard part after it. In a request, bit 3 of the flags selects a delay in place of an
absolute due time (R192). -/
def readAction (request : Bool) (b : List Byte) : Option (ActionForm × Action) :=
  let kindByte := field b 0 1
  let hasRep := kindByte = 0x41 ∨ kindByte = 0x43
  let hasGuard := kindByte = 0x42 ∨ kindByte = 0x43
  let size := 16 + (if hasRep then 8 else 0) + (if hasGuard then 8 else 0)
  let flags := toByte (field b 1 1)
  let armed := flags.getLsbD 0
  let tag := field b 4 1
  if 0x40 ≤ kindByte ∧ kindByte ≤ 0x43 ∧ b.length = size ∧ field b 2 1 ≤ 31 ∧ ¬(armed ∧ tag = 0) then do
    let kind ← readActionKind (field b 3 1) (field b 5 3)
    let rep ← if hasRep then (readRepetition b 16).map some else some none
    let grd ← if hasGuard then (readGuard b (if hasRep then 24 else 16)).map some else some none
    if rep.isSome ∧ grd.any Guard.waits then none
    else
      let form : ActionForm :=
        if armed then .armed (field b 8 4)
        else if request ∧ flags.getLsbD 3 = false then .absolute (field b 8 6)
        else .relative (field b 8 4)
      some (form, ⟨field b 2 1, kind, tag, rep, grd, flags.getLsbD 1, flags.getLsbD 2⟩)
  else none

/-- ACTION_CANCEL: a handle other than 0 (R48). -/
def readHandle (body : List Byte) : Option Nat :=
  if body.length = 2 ∧ field body 0 2 ≠ 0 then some (field body 0 2) else none

/-- GROUP_CANCEL: a tag other than 0 (R50). -/
def readTag (body : List Byte) : Option Nat :=
  if body.length = 1 ∧ field body 0 1 ≠ 0 then some (field body 0 1) else none

/-- QUEUE_QUERY: first position 0 to 511, count 1 to 512, session filter 0 to 5 (R52). -/
def readQueueQuery (body : List Byte) : Option (Nat × Nat × Nat) :=
  let first := field body 0 2
  let count := field body 2 2
  let session := field body 4 1
  if body.length = 5 ∧ first ≤ 511 ∧ 1 ≤ count ∧ count ≤ 512 ∧ session ≤ 5 then some (first, count, session)
  else none

/-! ### Interlocks and triggers -/

/-- The ranges of an interlock (R75): two distinct channels up to 31 and a mode. -/
def checkedInterlock (a b dead mode : Nat) : Option Interlock :=
  if a ≤ 31 ∧ b ≤ 31 ∧ a ≠ b then (readInterlockMode mode).map fun m => ⟨a, b, dead, m⟩ else none

/-- INTERLOCK_SET: number or ANY (0xFF, read as `none`), channels, dead time, mode (R75, R192). -/
def readInterlockSet (body : List Byte) : Option (Option Nat × Interlock) :=
  let number := field body 0 1
  if body.length = 6 ∧ (number ≤ 11 ∨ number = 255) then do
    let r ← checkedInterlock (field body 1 1) (field body 2 1) (field body 3 2) (field body 5 1)
    pure (if number = 255 then none else some number, r)
  else none

/-- The ranges of a trigger (R90). -/
def checkedTrigger (number source edge tag mode holdoff : Nat) : Option (Nat × TriggerSpec) :=
  if number ≤ 15 ∧ source ≤ 31 ∧ tag ≠ 0 ∧ holdoff ≤ 16777215 then do
    let e ← readEdge edge
    let m ← readTriggerMode mode
    pure (number, ⟨source, e, tag, m, holdoff⟩)
  else none

/-- TRIGGER_SET: number, source, edge, tag, mode, holdoff (R90). -/
def readTriggerSet (body : List Byte) : Option (Nat × TriggerSpec) :=
  if body.length = 8 then
    checkedTrigger (field body 0 1) (field body 1 1) (field body 2 1) (field body 3 1) (field body 4 1)
      (field body 5 3)
  else none

/-- TRIGGER_QUERY: first number 0 to 15, count 1 to 16 (R93). -/
def readTriggerQuery (body : List Byte) : Option (Nat × Nat) :=
  let first := field body 0 1
  let count := field body 1 1
  if body.length = 2 ∧ first ≤ 15 ∧ 1 ≤ count ∧ count ≤ 16 then some (first, count) else none

/-! ### Plans -/

/-- REPORT_ACK: one report sequence (R149). -/
def readReportAck (body : List Byte) : Option Nat :=
  if body.length = 2 then some (field body 0 2) else none

/-- A printable character of a plan name (R162). -/
def printable (b : Byte) : Bool := 0x20 ≤ b.toNat && b.toNat ≤ 0x7E

/-- PLAN_BEGIN: slot, name of 1 to 16 printable characters, autostart flag (R162). -/
def readPlanBegin (body : List Byte) : Option (Nat × List Byte × Bool) :=
  let len := field body 1 1
  let name := (body.drop 2).take len
  if field body 0 1 ≤ 7 ∧ 1 ≤ len ∧ len ≤ 16 ∧ body.length = len + 3 ∧ name.all printable then do
    let auto ← readFlag (field body (len + 2) 1)
    pure (field body 0 1, name, auto)
  else none

/-- PLAN_LOAD: slot and start, NOW 0, AFTER 1 with a delay, AT 2 with a device time (R176). -/
def readPlanLoad (body : List Byte) : Option (Nat × LoadStart) :=
  let slot := field body 0 1
  if 7 < slot ∨ body.length < 2 then none
  else
    match field body 1 1 with
    | 0 => if body.length = 2 then some (slot, .now) else none
    | 1 => if body.length = 6 then some (slot, .after (field body 2 4)) else none
    | 2 => if body.length = 8 then some (slot, .atTime (field body 2 6)) else none
    | _ => none

/-- A plan record (R160); `unreadable` stands for the bytes from the first on that spell no record, which no
commit writes (29). -/
inductive PlanRecord where
  | bind (channel : Nat) (spec : BindSpec)
  | interlock (r : Interlock)
  | trigger (number : Nat) (spec : TriggerSpec)
  | action (form : ActionForm) (act : Action)
  | unreadable
deriving DecidableEq, Repr

/-- The size of a record by its first byte; 0 when it names no kind (R160, R193). -/
def recordSize (kindByte : Nat) : Nat :=
  match kindByte with
  | 0x10 => 8
  | 0x20 => 8
  | 0x30 => 12
  | 0x40 => 16
  | 0x41 => 24
  | 0x42 => 24
  | 0x43 => 32
  | _ => 0

/-- The place of a record's kind in plan order (R161). -/
def recordGroup (record : List Byte) : Nat :=
  match field record 0 1 with
  | 0x10 => 0
  | 0x20 => 1
  | 0x30 => 2
  | _ => 3

/-- A BIND record (R193): bits of byte 2 give direction, polarity, drive and safe level. -/
def readBindRecord (b : List Byte) : Option PlanRecord :=
  let c := field b 1 1
  let opts := toByte (field b 2 1)
  let pins := pinsOf ((b.drop 3).take 3)
  if 31 < c then none
  else if opts.getLsbD 0 then
    (checkedInput pins (field b 6 1) (field b 7 1)).map (.bind c)
  else
    (checkedOutput pins (if opts.getLsbD 1 then .activeLow else .activeHigh)
      (if opts.getLsbD 2 then .openDrain else .pushPull)
      (if opts.getLsbD 3 then .active else .inactive) (field b 6 2)).map (.bind c)

/-- A plan record with its range checks (R161, R193); `b` is exactly the record's bytes. -/
def readRecord (b : List Byte) : Option PlanRecord :=
  match field b 0 1 with
  | 0x10 => readBindRecord b
  | 0x20 =>
    (checkedInterlock (field b 1 1) (field b 2 1) (field b 4 2) (field b 3 1)).map .interlock
  | 0x30 =>
    (checkedTrigger (field b 1 1) (field b 2 1) (field b 3 1) (field b 4 1) (field b 5 1)
      (field b 6 3)).map fun x => .trigger x.1 x.2
  | _ => (readAction false b).map fun x => .action x.1 x.2

/-- The first record of a run of bytes and the bytes after it: none when the kind byte names no kind or the
record runs past the end (R161). -/
def splitRecord (bytes : List Byte) : Option (List Byte × List Byte) :=
  let size := recordSize (field bytes 0 1)
  if size = 0 ∨ bytes.length < size then none else some (bytes.take size, bytes.drop size)

/-- Where the reading of a PLAN_PUT body ends: its records, or the position of the first that fails its range
checks (R161, R163). -/
inductive PutResult where
  | records (rs : List (List Byte))
  | failsAt (position : Nat)
deriving DecidableEq, Repr

/-- The records of a body from `bytes` on (R161, R163): each in range and not before `group` in plan order.
`fuel` bounds the number of records. -/
def readPut : Nat → Nat → Nat → List Byte → PutResult
  | 0, _, _, _ => .records []
  | fuel + 1, position, group, bytes =>
    if bytes = [] then .records []
    else
      match splitRecord bytes with
      | none => .failsAt position
      | some (r, rest) =>
        if (readRecord r).isNone ∨ recordGroup r < group then .failsAt position
        else
          match readPut fuel (position + 1) (recordGroup r) rest with
          | .records rs => .records (r :: rs)
          | .failsAt k => .failsAt k

/-- The plan that a slot's bytes hold, in plan order (R158, R160); `fuel` bounds the number of records. -/
def readPlan : Nat → List Byte → List PlanRecord
  | 0, _ => []
  | fuel + 1, bytes =>
    if bytes = [] then []
    else
      match splitRecord bytes with
      | none => [.unreadable]
      | some (r, rest) =>
        match readRecord r with
        | none => [.unreadable]
        | some x => x :: readPlan fuel rest

end Sys2Proof.Machine
end

