-- ==== Sys2Proof/Machine/Engine.lean ====
section
/-!
DEFINITION. Machine/Engine.lean: the Schedule Engine's shared operations: the interlock check (R80, R81) and
confirmation (R83), the firing sequence (R53 to R62), reports of occurrences and repeats (R63, R67, R68), the
Channel Matrix's side of an action's drive (R134), and the overdue disposition (R69 to R72).
-/

namespace Sys2Proof.Machine

/-! ### Interlocks -/

/-- The answer of the interlock check (R80): `defer` carries the effective time and the partner to break. -/
inductive InterlockAnswer where
  | proceed
  | fail
  | defer (effective : Nat) (broken : Option Nat)
deriving DecidableEq, Repr

/-- One record of the interlock check, judged for target `x` and the entry's owner (R80): `none` when it does
not block. -/
def State.judgeRecord (s : State) (x owner : Nat) (r : Interlock) : Option InterlockAnswer :=
  match r.partner x with
  | none => none
  | some y =>
    match s.chan y with
    | .output o =>
      if o.level = .active then
        match r.mode with
        | .refuse => some .fail
        | .breakFirst =>
          if o.owner = some owner ∧ o.isFaulted = false then
            some (.defer (clampTime (s.now + r.dead)) (some y))
          else some .fail
      else
        match o.lastOff with
        | some t => if s.now < t + r.dead then some (.defer (clampTime (t + r.dead)) none) else none
        | none => none
    | _ => none

/-- The interlock check: the first record that blocks, in table order, decides (R80). -/
def State.interlockCheck (s : State) (x owner : Nat) : InterlockAnswer :=
  (s.interlockList.findSome? (s.judgeRecord x owner)).getD .proceed

/-- One record lets `x` become ACTIVE at the drive: its partner is INACTIVE and its dead time has passed
(R83). -/
def State.confirms (s : State) (x : Nat) (r : Interlock) : Bool :=
  match r.partner x with
  | none => true
  | some y =>
    match s.chan y with
    | .output o =>
      decide (o.level = .inactive) &&
        match o.lastOff with
        | some t => decide (t + r.dead ≤ s.now)
        | none => true
    | _ => true

/-- The interlock confirmation: every record that names `x` lets it become ACTIVE (R83). -/
def State.interlockConfirmed (s : State) (x : Nat) : Bool := s.interlockList.all (s.confirms x)

/-! ### Reports of occurrences and repeats -/

/-- Where the advance of a repeating entry ends (R68, R71). -/
inductive Advance where
  | queued (due : Nat) (remaining : Option Nat) (skipped : Nat)
  | ended (lastDue skipped : Nat)
deriving DecidableEq, Repr

/-- A count held at 65,535 (R37). -/
def saturate (n : Nat) : Nat := min n 65535

/-- The advance of R68 from an occurrence due at `due` with `remaining` still to follow it: every occurrence
earlier than `now` is passed over, until one is not, or none remains, or the next would exceed 2^48 - 1. In
closed form: `n` periods reach `now`, and at most `room` periods may be advanced. -/
def advance (due : Nat) (remaining : Option Nat) (period now skipped : Nat) : Advance :=
  if now ≤ due then .queued due remaining skipped
  else
    let n := (now - due + (period - 1)) / period
    let span := (Config.maxTime - due) / period
    let room :=
      match remaining with
      | none => span
      | some r => min r span
    if n ≤ room then .queued (due + n * period) (remaining.map (· - n)) (saturate (skipped + n))
    else .ended (due + room * period) (saturate (skipped + room + 1))

/-- The remaining of a successor: one less, unless UNBOUNDED (R67). -/
def lowered (remaining : Option Nat) : Option Nat := remaining.map (· - 1)

/-- The due time and remaining of the occurrence after this one, if the entry has one (R67): none without a
repeat, when remaining is 0, or when the due time would exceed 2^48 - 1. -/
def Entry.successor (e : Entry) : Option (Nat × Repetition) :=
  match e.act.rep with
  | none => none
  | some r =>
    if r.remaining = some 0 ∨ Config.maxTime < e.due + r.period then none
    else some (e.due + r.period, { r with remaining := lowered r.remaining })

/-- The entry of a later occurrence: its due time, remaining and skipped count (R67, R68). -/
def Entry.advanced (e : Entry) (due : Nat) (remaining : Option Nat) (skipped : Nat) : Entry :=
  { e with
    phase := .waitingTime due
    act := { e.act with rep := e.act.rep.map fun r => { r with remaining := remaining } }
    skipped := skipped }

/-- The repeat step of an ended occurrence (R67, R68). `e` carries the skipped count after its report. -/
def State.repeatStep (s : State) (e : Entry) : State :=
  match e.successor with
  | none => s.removeEntry e.adm
  | some (due, r) =>
    match advance due r.remaining r.period s.now e.skipped with
    | .queued due' remaining skipped => s.requeue (e.advanced due' remaining skipped)
    | .ended lastDue skipped =>
      (s.removeEntry e.adm).addReport e.owner s.now
        (.actionExpired e.handle e.act.target e.act.kind lastDue skipped false)

/-- The fields of an occurrence's report, decided at `time` (R63, R64, R152). -/
def Entry.occurrence (e : Entry) (time : Nat) : Occurrence :=
  ⟨e.handle, e.act.target, e.act.kind, e.due, isLate e.due time, e.skipped⟩

/-- An occurrence that ends in success, fired at `time`: ACTION_DONE when REPORT is set, then the repeat step
(R63). -/
def State.succeed (s : State) (e : Entry) (time : Nat) : State :=
  if e.act.report then
    (s.addReport e.owner time (.actionDone (e.occurrence time))).repeatStep { e with skipped := 0 }
  else s.repeatStep e

/-- An occurrence that ends in failure, decided at `time`: ACTION_FAILED whatever REPORT says, then the repeat
step (R63). -/
def State.failOccurrence (s : State) (e : Entry) (reason : FailReason) (time : Nat) : State :=
  (s.addReport e.owner time (.actionFailed (e.occurrence time) reason)).repeatStep { e with skipped := 0 }

/-! ### The firing sequence -/

/-- What the engine decides for an entry it takes (steps 2 to 5 of 3.6). -/
inductive Verdict where
  | fail (reason : FailReason)
  | waitGuard (effective : Nat)
  | defer (effective : Nat) (broken : Option Nat)
  | drive (level : Level) (release : Option Nat)
deriving DecidableEq, Repr

/-- The resulting level of an action on a target at level `l` (R61). -/
def ActionKind.result (k : ActionKind) (l : Level) : Level :=
  match k with
  | .set => .active
  | .clear => .inactive
  | .toggle => if l = .active then .inactive else .active
  | .pulse _ => .active

/-- The release time in the drive request of an action fired at `now` (R61). -/
def ActionKind.release (k : ActionKind) (now : Nat) : Option Nat :=
  match k with
  | .pulse width => some (clampTime (now + width))
  | _ => none

/-- Steps 3 to 5: the fault test, the interlock check and the drive (R59 to R61). -/
def State.judgeFromFault (s : State) (e : Entry) : Verdict :=
  match s.chan e.act.target with
  | .output o =>
    let l := e.act.kind.result o.level
    let release := e.act.kind.release s.now
    if o.isFaulted then
      if l = o.cfg.safe ∧ release = none then .drive l none else .fail .channelFaulted
    else if o.level = .inactive ∧ l = .active then
      match s.interlockCheck e.act.target e.owner with
      | .proceed => .drive l release
      | .fail => .fail .interlocked
      | .defer effective broken => .defer effective broken
    else .drive l release
  | _ => .fail .channelFaulted

/-- The guard matches the qualified level of its channel; UNKNOWN matches nothing (R55). -/
def State.guardMatches (s : State) (g : Guard) : Bool :=
  match s.chan g.channel with
  | .input i =>
    match g.level, i.level with
    | .high, .high => true
    | .low, .low => true
    | _, _ => false
  | _ => false

/-- Steps 2 to 5 (R55, R56). -/
def State.judge (s : State) (e : Entry) : Verdict :=
  match e.act.grd with
  | none => s.judgeFromFault e
  | some g =>
    if s.guardMatches g then s.judgeFromFault e
    else
      match g.mode with
      | .skip => .fail .guardFalse
      | .wait limit => .waitGuard (clampTime (s.now + limit))

/-- The partner that a BREAK_FIRST record breaks is driven INACTIVE in the event of the check (R81). -/
def State.breakFor (s : State) (broken : Option Nat) : State :=
  match broken with
  | none => s
  | some y => s.breakPartner y

/-- The drive request that an occurrence hands over (R61, R62). -/
def State.inFlightOf (s : State) (e : Entry) (l : Level) (release : Option Nat) : InFlight :=
  ⟨e.adm, some e.owner, e.act.target, l, release, s.now⟩

/-- The engine carries out its verdict: an entry that goes on to step 5 has its drive request handed to the
Channel Matrix and stays in the queue meanwhile (R49, R56, R60, R62, R63). -/
def State.applyVerdict (s : State) (e : Entry) : Verdict → State
  | .fail reason => s.failOccurrence e reason s.now
  | .waitGuard effective => s.rephase e (.waitingGuard e.due effective)
  | .defer effective broken => (s.breakFor broken).rephase e (.deferred e.due effective)
  | .drive l release => { s with inFlight := some (s.inFlightOf e l release) }

/-! ### The drive of an action at the Channel Matrix -/

/-- The Channel Matrix's answer to an action's drive request (R134): `returned` covers the refusals by owner,
held and run state, after which the entry stays as the engine took it. -/
inductive DriveAnswer where
  | taken
  | returned
  | faulted
  | interlocked
deriving DecidableEq, Repr

/-- The tests of an action's drive request, in the order of R134. An unbound target has no owner and is refused as
R134 says. One that was unbound and bound again as an input by the same session, which R21, R62 and R134 do not
speak of, is refused without effect as well (DESIGN CHOICE, 46). -/
def State.judgeDrive (s : State) (f : InFlight) : DriveAnswer :=
  match s.chan f.target with
  | .output o =>
    if f.owner = none ∨ o.owner ≠ f.owner ∨ o.held then .returned
    else if s.stopped then .returned
    else if o.isFaulted then
      if f.level = o.cfg.safe ∧ f.release = none then .taken else .faulted
    else if o.level = .inactive ∧ f.level = .active ∧ s.interlockConfirmed f.target = false then
      .interlocked
    else .taken
  | _ => .returned

/-- The drive of an action, taken as R21, or as R23 on a FAULTED channel, which it leaves as it stands. -/
def State.driveAction (s : State) (f : InFlight) : State :=
  match s.chan f.target with
  | .output o => if o.isFaulted then s else s.driveOutput f.target o f.level f.release
  | _ => s

/-- The Channel Matrix takes the drive request, and the engine settles the occurrence by the answer (R62,
R110, R134). An entry removed meanwhile makes no report and no successor (R49). -/
def State.settleDrive (s : State) (f : InFlight) : State :=
  match s.judgeDrive f with
  | .taken =>
    let s1 := s.driveAction f
    match s.entry? f.adm with
    | some e => s1.succeed e f.fireTime
    | none => s1
  | .returned => s
  | .faulted =>
    match s.entry? f.adm with
    | some e => s.failOccurrence e .channelFaulted s.now
    | none => s
  | .interlocked =>
    match s.entry? f.adm with
    | some e => s.failOccurrence e .interlocked s.now
    | none => s

/-! ### The overdue disposition -/

/-- Carries out a verdict within one event: the drive is taken at once (R70, R72). -/
def State.applyVerdictNow (s : State) (e : Entry) (v : Verdict) : State :=
  match v with
  | .drive l release => s.settleDrive (s.inFlightOf e l release)
  | .fail reason => s.failOccurrence e reason s.now
  | .waitGuard effective => s.rephase e (.waitingGuard e.due effective)
  | .defer effective broken => (s.breakFor broken).rephase e (.deferred e.due effective)

/-- Expires an entry at the return time (R71). -/
def State.expire (s : State) (e : Entry) : State :=
  let report := fun (s' : State) (skipped : Nat) (remains : Bool) =>
    s'.addReport e.owner s.now
      (.actionExpired e.handle e.act.target e.act.kind e.due skipped remains)
  match e.successor with
  | none => report (s.removeEntry e.adm) e.skipped false
  | some (due, r) =>
    match advance due r.remaining r.period s.now e.skipped with
    | .queued due' remaining skipped => report (s.requeue (e.advanced due' remaining 0)) skipped true
    | .ended _ skipped => report (s.removeEntry e.adm) skipped false

/-- The overdue disposition of one entry (R70 to R72). -/
def State.disposeEntry (s : State) (e : Entry) : State :=
  match e.phase with
  | .waitingGuard _ deadline =>
    if deadline < s.now then s.failOccurrence e .guardTimeout s.now
    else
      match e.act.grd with
      | some g => if s.guardMatches g then s.applyVerdictNow e (s.judgeFromFault e) else s
      | none => s
  | .template _ => s
  | .waitingTime key =>
    if key < s.now then
      if e.act.carry then s.applyVerdictNow e (s.judge e) else s.expire e
    else s
  | .deferred _ key =>
    if key < s.now then
      if e.act.carry then s.applyVerdictNow e (s.judge e) else s.expire e
    else s

/-- One visit of the disposition: the entry as it then stands. An occurrence whose drive request is on its way
is passed over (9). -/
def State.visitOverdue (s : State) (adm : Nat) : State :=
  match s.entry? adm with
  | none => s
  | some e =>
    match s.inFlight with
    | some f => if f.adm = adm then s else s.disposeEntry e
    | none => s.disposeEntry e

/-- The overdue disposition, at the present device time, of the entries whose owner passes `owners`, visited in
scheduled order (R69). -/
def State.dispose (s : State) (owners : Nat → Bool) : State :=
  ((s.queue.filter fun e => owners e.owner).map Entry.adm).foldl State.visitOverdue s

end Sys2Proof.Machine
end

