-- ==== Sys2Proof/Machine/Requests.lean ====
section
/-!
DEFINITION. Machine/Requests.lean: what every request passes through before and after its own rule: routing
(R122), the keepalive deadline and the return of a LAPSED session (R125, R128), the sequence check (R123,
R124), and the placing of exactly one reply (R186).
-/

namespace Sys2Proof.Machine

/-- What the block that owns a request does with it: the session, the body and the state give the new state
and the answer. -/
abbrev Service := Nat → List Byte → State → State × Answer

/-- The outputs of session `n` that are held (R128, step 2). -/
def State.heldOutputs (s : State) (n : Nat) : List Nat :=
  (s.ownedOutputs n).filter fun c =>
    match s.chan c with
    | .output o => o.held
    | _ => false

/-- A LAPSED session returns (R128): OPEN with a fresh keepalive deadline, held marks removed, a
SESSION_NOTICE, and the overdue disposition of its entries unless the part is STOPPED. -/
def State.returnSession (s : State) (n : Nat) (h : HostSession) : State :=
  let held := s.heldOutputs n
  let s1 := s.setSession n (.host { h with life := .opened (s.elapsed + h.interval) })
  let s2 := held.foldl (fun s' c => s'.setHeld c false) s1
  let s3 := s2.addReport n s.now (.sessionNotice held.length)
  if s3.stopped then s3 else s3.dispose (· == n)

/-- What every frame for a session does before its request is judged: it restarts the keepalive deadline, or
returns a LAPSED session (R122, R125, R128). -/
def State.arrive (s : State) (n : Nat) (h : HostSession) : State :=
  match h.life with
  | .opened _ => s.setSession n (.host { h with life := .opened (s.elapsed + h.interval) })
  | .lapsed _ => s.returnSession n h

/-- The request is passed to its block; its reply is cached, the expected sequence advances, and the reply is
placed (R123, R186). -/
def State.performRequest (s : State) (p : Port) (n : Nat) (f : Frame) (serve : Service) : State :=
  let (s1, a) := serve n f.body s
  let r := replyFrame f a.code a.fields
  (s1.noteReply n f.seq.toNat r a.cached).placeReply p r a.resets

/-- A frame for a live session of the port: arrival, then the sequence check (R122, R123). -/
def State.frameForSession (s : State) (p : Port) (n : Nat) (h : HostSession) (f : Frame) (serve : Service) :
    State :=
  let s1 := s.arrive n h
  if f.seq.toNat = h.expected then s1.performRequest p n f serve
  else
    match h.last with
    | some (q, r) =>
      if f.seq.toNat = q then s1.placeReply p r false
      else s1.placeReply p (replyFrame f .sequence (u8 h.expected)) false
    | none => s1.placeReply p (replyFrame f .sequence (u8 h.expected)) false

/-- A frame that names a session: routed to it, or refused with NO_SESSION (R122). -/
def State.routeFrame (s : State) (p : Port) (f : Frame) (serve : Service) : State :=
  match s.routed p f.ses.toNat with
  | some h => s.frameForSession p f.ses.toNat h f serve
  | none => s.placeReply p (replyFrame f .noSession []) false

/-- A request of kind `code` is taken by the handler of port `p`: the oldest frame of the receive FIFO, when
it is one of that kind and the handler may take one (R186). Otherwise the step does not occur (2). -/
def State.takeRequest (s : State) (p : Port) (code : Byte) (serve : Service) : State :=
  match s.takeFrame p (· == code) with
  | none => s
  | some (f, s1) => s1.routeFrame p f serve

/-- A request that may also be sent with session 0 (R188): then it is judged without a session, its reply is
not cached, and no deadline is restarted. -/
def State.takeSessionless (s : State) (p : Port) (code : Byte) (bare : List Byte → State → State × Answer)
    (serve : Service) : State :=
  match s.takeFrame p (· == code) with
  | none => s
  | some (f, s1) =>
    if f.ses = 0 then
      let (s2, a) := bare f.body s1
      s2.placeReply p (replyFrame f a.code a.fields) false
    else s1.routeFrame p f serve

/-- Judges the least class OPERATOR first (R121), and then the request. -/
def asOperator (s : State) (n : Nat) (act : State × Answer) : State × Answer :=
  if s.classOf n = .observer then (s, refuse .notPermitted) else act

/-- Judges the SERVICE class with MAINT_N asserted first (R121), and then the request. -/
def asService (s : State) (n : Nat) (key : Bool) (act : State × Answer) : State × Answer :=
  if s.serviceRights n key then act else (s, refuse .notPermitted)

/-- A request that changes no state and whose body is empty (R192). -/
def emptyQuery (body : List Byte) (s : State) (fields : List Byte) : State × Answer :=
  if body = [] then (s, okWith fields) else (s, refuse .malformed)

/-- Ownership of a channel or entry for a requester that is not its owner (R20, R27, R48, R92): NOT_OWNER to an
OPERATOR; a SERVICE session is accepted with the key and otherwise NOT_PERMITTED. `none` accepts. -/
def foreignRefusal (s : State) (n : Nat) (key : Bool) : Option Result :=
  if s.classOf n = .service then (if key then none else some .notPermitted) else some .notOwner

end Sys2Proof.Machine
end

