-- ==== Sys2Proof/Machine/ActionQueue.lean ====
section
/-!
DEFINITION. Machine/ActionQueue.lean: the Schedule Engine: ACTION_ADD, ACTION_CANCEL, GROUP_CANCEL,
QUEUE_QUERY, ENTRY_DUE, GUARD_DEADLINE, GUARD_REEVALUATION, PULSE_RELEASE (R37 to R73).
-/

namespace Sys2Proof.Machine

/-! ### Requests -/

/-- The guard of an action, if any, names a bound input channel (R44). -/
def State.guardBound (s : State) (a : Action) : Bool :=
  match a.grd with
  | none => true
  | some g =>
    match s.chan g.channel with
    | .input _ => true
    | _ => false

/-- The state an entry enters by its form (R45, R46, R179): a delay counts from `base`. -/
def ActionForm.phase (form : ActionForm) (base : Nat) : Phase :=
  match form with
  | .absolute due => .waitingTime due
  | .relative ticks => .waitingTime (clampTime (base + ticks))
  | .armed offset => .template offset

/-- The fields of the reply to an accepted ACTION_ADD (R43): the handle, and the due time if SCHEDULED. -/
def admissionReply (handle : Nat) (ph : Phase) : List Byte :=
  u16 handle ++ optBytes (ph.due?.map u48)

/-- The room conditions of an admission (R42, R44): `none` accepts. -/
def State.roomRefusal (s : State) (n : Nat) : Option Result :=
  if s.poolHasRoom = false then some .queueFull
  else if s.quotaHasRoom n = false then some .quota
  else none

/-- ACTION_ADD's rule, its conditions in the order of R44. -/
def serveActionAdd : Service := fun n body s =>
  asOperator s n
    (match readAction true body with
    | none => (s, refuse .malformed)
    | some (form, a) =>
      match s.chan a.target with
      | .output o =>
        if o.owner ≠ some n then (s, refuse .notOwner)
        else if o.isFaulted then (s, refuse .channelFaulted)
        else if s.guardBound a = false then (s, refuse .notBound)
        else
          match s.roomRefusal n with
          | some r => (s, refuse r)
          | none =>
            let ph := form.phase s.now
            (s.admitEntry n ph a .request, okWith (admissionReply s.newHandle ph))
      | _ => (s, refuse .notBound))

/-- ACTION_ADD (R43 to R46). -/
def execActionAdd (p : Port) (s : State) : Host.Outcome State Fault Refusal :=
  .next (s.takeRequest p 0x20 serveActionAdd)

/-- The ownership condition of ACTION_CANCEL (R48): `none` accepts. -/
def State.entryRefusal (s : State) (n : Nat) (key : Bool) (e : Entry) : Option Result :=
  if e.owner = n then none else foreignRefusal s n key

/-- ACTION_CANCEL's rule, its conditions in the order of R48. -/
def serveActionCancel (key : Bool) : Service := fun n body s =>
  asOperator s n
    (match readHandle body with
    | none => (s, refuse .malformed)
    | some h =>
      match s.queue.find? fun e => e.handle == h with
      | none => (s, refuse .noSuchAction)
      | some e =>
        match s.entryRefusal n key e with
        | some r => (s, refuse r)
        | none => (s.removeEntry e.adm, okWith (u8 e.phase.state.code)))

/-- ACTION_CANCEL (R48, R49). -/
def execActionCancel (p : Port) (key : Bool) (s : State) : Host.Outcome State Fault Refusal :=
  .next (s.takeRequest p 0x21 (serveActionCancel key))

/-- The entries of session `n` that carry tag `g` (R50). -/
def State.groupOf (s : State) (n g : Nat) : List Entry :=
  s.queue.filter fun e => e.owner == n && e.act.tag == g

/-- GROUP_CANCEL's rule (R50). -/
def serveGroupCancel : Service := fun n body s =>
  asOperator s n
    (match readTag body with
    | none => (s, refuse .malformed)
    | some g =>
      ({ s with queue := s.queue.filter fun e => !(e.owner == n && e.act.tag == g) },
        okWith (u16 (s.groupOf n g).length)))

/-- GROUP_CANCEL (R50). -/
def execGroupCancel (p : Port) (s : State) : Host.Outcome State Fault Refusal :=
  .next (s.takeRequest p 0x22 serveGroupCancel)

/-- The entries that pass a session filter, 0 for all (R52). -/
def State.filtered (s : State) (session : Nat) : List Entry :=
  s.queue.filter fun e => session == 0 || e.owner == session

/-- The reply of QUEUE_QUERY (R52): total, entries owned by each session, those passing the filter, those
returned, and their records. -/
def State.queueReply (s : State) (first count session : Nat) : List Byte :=
  let passing := s.filtered session
  let records := ((passing.drop first).take count).map entryRecord
  let sent := takeFitting (Config.maxBody - 17) records
  u16 s.queue.length ++ (sessionNumbers.map fun n => u16 (s.entriesOwned n)).flatten ++
    u16 passing.length ++ u16 sent.length ++ sent.flatten

/-- QUEUE_QUERY's rule (R52). -/
def serveQueueQuery : Service := fun _ body s =>
  match readQueueQuery body with
  | none => (s, refuse .malformed)
  | some (first, count, session) => (s, okWith (s.queueReply first count session))

/-- QUEUE_QUERY (R52). -/
def execQueueQuery (p : Port) (s : State) : Host.Outcome State Fault Refusal :=
  .next (s.takeRequest p 0x23 serveQueueQuery)

/-! ### Events of the Schedule Engine -/

/-- The entry that the engine attends to next: the first in scheduled order whose key time is reached and
which is not withheld (R53, R54, R58). While the answer to a drive request is awaited it attends to none, since
the outcome of each entry stands before the next is taken (R53, 8). -/
def State.nextReached (s : State) : Option Entry :=
  match s.inFlight with
  | some _ => none
  | none => s.queue.find? fun e => s.keyReached e && !s.withheld e

/-- ENTRY_DUE: the due entry at the front runs the firing sequence (R53 to R63). -/
def execEntryDue (s : State) : Host.Outcome State Fault Refusal :=
  match s.nextReached with
  | none => .next s
  | some e => if e.phase.isWaitingGuard then .next s else .next (s.applyVerdict e (s.judge e))

/-- GUARD_DEADLINE: a WAITING_GUARD entry at its deadline fails with GUARD_TIMEOUT (R58). -/
def execGuardDeadline (s : State) : Host.Outcome State Fault Refusal :=
  match s.nextReached with
  | none => .next s
  | some e =>
    if e.phase.isWaitingGuard then .next (s.failOccurrence e .guardTimeout s.now) else .next s

/-- The first entry, in scheduled order, of the oldest level change that has one to re-evaluate, with the level
changes that remain after it. R57 orders the entries of one level change alone; an older change comes before a later
one (DESIGN CHOICE, 51). -/
def State.nextReevaluation (s : State) : Option (Entry × List LevelChange) :=
  match s.standingChanges with
  | [] => none
  | l :: ls =>
    (s.queue.find? (s.awaits l)).map fun e =>
      let rest := l.waiting.filter (· != e.adm)
      (e, if rest = [] then ls else { l with waiting := rest } :: ls)

/-- One re-evaluation: a matching entry goes on to step 3, any other keeps waiting (R57). -/
def State.reevaluate (s : State) (e : Entry) : State :=
  match e.act.grd with
  | none => s
  | some g => if s.guardMatches g then s.applyVerdict e (s.judgeFromFault e) else s

/-- GUARD_REEVALUATION (R57): one entry is re-evaluated, and the withheld entries are passed over. -/
def execGuardReevaluation (s : State) : Host.Outcome State Fault Refusal :=
  match s.inFlight with
  | some _ => .next s
  | none =>
    match s.nextReevaluation with
    | none => .next s.passOver
    | some (e, ls) => .next ({ s with levelChanges := ls }.reevaluate e)

/-- PULSE_RELEASE of channel `c` (R65): once its release time is reached, it is driven INACTIVE. A FAULTED
channel has no release time (R23). -/
def execPulseRelease (c : Nat) (s : State) : Host.Outcome State Fault Refusal :=
  match s.chan c with
  | .output o =>
    match o.release with
    | some t =>
      if s.reached t ∧ o.isFaulted = false then .next (s.driveOutput c o .inactive none) else .next s
    | none => .next s
  | _ => .next s

end Sys2Proof.Machine
end

