-- ==== Sys2Proof/Machine/Channels.lean ====
section
/-!
DEFINITION. Machine/Channels.lean: the Channel Matrix: BIND, UNBIND, CLEAR_FAULT, REQUALIFY, CHANNEL_QUERY,
SUBSCRIBE, UNSUBSCRIBE, ACTION_DRIVE, SETTLE_END, INPUT_SAMPLE (R14 to R36, R134).
-/

namespace Sys2Proof.Machine

/-! ### Binding -/

/-- A new output channel before its first drive request (R18). -/
def OutConfig.fresh (g : OutConfig) (owner : Nat) : Output :=
  ⟨g, some owner, g.safe, .ready, false, none, none⟩

/-- The effects of an accepted BIND (R17 to R19): an output is driven to its safe level, an input starts
UNKNOWN with its first sample one interval later. -/
def State.bindChannel (s : State) (c owner : Nat) : BindSpec → State
  | .output g => s.driveOutput c (g.fresh owner) g.safe none
  | .input pin interval qualify =>
    (s.setChan c
        (.input ⟨pin, interval, qualify, some owner, .unknown, none, none, [], s.elapsed + interval⟩)).setPins
      [pin] (.sensing c)

/-- BIND's rule, its conditions in the order of R17. -/
def serveBind : Service := fun n body s =>
  asOperator s n
    (match readBind body with
    | none => (s, refuse .malformed)
    | some (c, spec) =>
      if s.chan c ≠ .unbound then (s, refuse .alreadyBound)
      else if spec.pins.any (fun p => s.pin p != .isolated) then (s, refuse .pinBusy)
      else (s.bindChannel c n spec, okWith []))

/-- BIND (R17 to R19). -/
def execBind (p : Port) (s : State) : Host.Outcome State Fault Refusal :=
  .next (s.takeRequest p 0x10 serveBind)

/-- The pins of a channel (R15). -/
def Channel.pins : Channel → List Nat
  | .unbound => []
  | .output o => o.cfg.pins
  | .input i => [i.pin]

/-- The channel returns to direction NONE and its pins are ISOLATED (R20). -/
def State.unbindChannel (s : State) (c : Nat) : State :=
  (s.setPins (s.chan c).pins .isolated).setChan c .unbound

/-- The ownership condition of UNBIND and CLEAR_FAULT (R20, R27): `none` accepts. -/
def State.channelRefusal (s : State) (n c : Nat) (key : Bool) : Option Result :=
  match (s.chan c).owner with
  | none => none
  | some m => if m = n then none else foreignRefusal s n key

/-- UNBIND's rule, its conditions in the order of R20. -/
def serveUnbind (key : Bool) : Service := fun n body s =>
  asOperator s n
    (match readIndex 32 body with
    | none => (s, refuse .malformed)
    | some c =>
      if s.chan c = .unbound then (s, refuse .notBound)
      else
        match s.channelRefusal n c key with
        | some r => (s, refuse r)
        | none => if s.inUse c then (s, refuse .inUse) else (s.unbindChannel c, okWith []))

/-- UNBIND (R20). -/
def execUnbind (p : Port) (key : Bool) (s : State) : Host.Outcome State Fault Refusal :=
  .next (s.takeRequest p 0x11 (serveUnbind key))

/-- CLEAR_FAULT's rule, its conditions in the order of R27. -/
def serveClearFault (key : Bool) : Service := fun n body s =>
  asOperator s n
    (match readIndex 32 body with
    | none => (s, refuse .malformed)
    | some c =>
      match s.chan c with
      | .output o =>
        match s.channelRefusal n c key with
        | some r => (s, refuse r)
        | none =>
          if o.isFaulted then (s.driveOutput c o o.cfg.safe none, okWith [])
          else (s, refuse .notFaulted)
      | _ => (s, refuse .notBound))

/-- CLEAR_FAULT (R27). -/
def execClearFault (p : Port) (key : Bool) (s : State) : Host.Outcome State Fault Refusal :=
  .next (s.takeRequest p 0x12 (serveClearFault key))

/-! ### Inputs -/

/-- An input set to a new interval and count, UNKNOWN, with its sampling phase restarted (R33). -/
def Input.requalified (i : Input) (interval qualify elapsed : Nat) : Input :=
  { i with
    interval := interval
    qualify := qualify
    level := .unknown
    candidate := none
    nextSample := elapsed + interval }

/-- REQUALIFY's rule, its conditions in the order of R33. -/
def serveRequalify : Service := fun n body s =>
  asOperator s n
    (match readRequalify body with
    | none => (s, refuse .malformed)
    | some (c, interval, qualify) =>
      match s.chan c with
      | .input i =>
        if i.owner = some n then
          (s.setChan c (.input (i.requalified interval qualify s.elapsed)), okWith [])
        else (s, refuse .notOwner)
      | _ => (s, refuse .notBound))

/-- REQUALIFY (R33). -/
def execRequalify (p : Port) (s : State) : Host.Outcome State Fault Refusal :=
  .next (s.takeRequest p 0x13 serveRequalify)

/-- A set of sessions with `n` in it; a member is not added twice (R34). -/
def addMember (ns : List Nat) (n : Nat) : List Nat := if ns.contains n then ns else ns ++ [n]

/-- A set of sessions without `n` (R34). -/
def dropMember (ns : List Nat) (n : Nat) : List Nat := ns.filter (· != n)

/-- Changes the subscribers set of the input channel that a body names (R34). -/
def serveSubscribers (change : List Nat → List Nat) : List Byte → State → State × Answer := fun body s =>
  match readIndex 32 body with
  | none => (s, refuse .malformed)
  | some c =>
    match s.chan c with
    | .input i => (s.setChan c (.input { i with subscribers := change i.subscribers }), okWith [])
    | _ => (s, refuse .notBound)

/-- SUBSCRIBE's rule (R34). -/
def serveSubscribe : Service := fun n => serveSubscribers fun ns => addMember ns n

/-- UNSUBSCRIBE's rule (R34). -/
def serveUnsubscribe : Service := fun n => serveSubscribers fun ns => dropMember ns n

/-- SUBSCRIBE (R34). -/
def execSubscribe (p : Port) (s : State) : Host.Outcome State Fault Refusal :=
  .next (s.takeRequest p 0x15 serveSubscribe)

/-- UNSUBSCRIBE (R34). -/
def execUnsubscribe (p : Port) (s : State) : Host.Outcome State Fault Refusal :=
  .next (s.takeRequest p 0x16 serveUnsubscribe)

/-- The reply of CHANNEL_QUERY: the records from `first` on that fit (R35). -/
def State.channelReply (s : State) (first count : Nat) : List Byte :=
  let records := ((channelNumbers.drop first).take count).map fun c => channelRecord c (s.chan c)
  let sent := takeFitting (Config.maxBody - 2) records
  u8 sent.length ++ sent.flatten

/-- CHANNEL_QUERY's rule (R35). -/
def serveChannelQuery : Service := fun _ body s =>
  match readChannelQuery body with
  | none => (s, refuse .malformed)
  | some (first, count) => (s, okWith (s.channelReply first count))

/-- CHANNEL_QUERY (R35). -/
def execChannelQuery (p : Port) (s : State) : Host.Outcome State Fault Refusal :=
  .next (s.takeRequest p 0x14 serveChannelQuery)

/-! ### Events of the Channel Matrix -/

/-- ACTION_DRIVE: the Channel Matrix takes the drive request of the occurrence in flight (R62, R134). -/
def execActionDrive (s : State) : Host.Outcome State Fault Refusal :=
  match s.inFlight with
  | none => .next s
  | some f => .next ({ s with inFlight := none }.settleDrive f)

/-- The level that pin `p` reads on the wiring. -/
def readPin (wires : BitVec 24) (p : Nat) : PinLevel := if wires.getLsbD p then .high else .low

/-- The pins that do not match at a readback, in pin-list order (R25): a released OPEN_DRAIN pin is not
judged. -/
def Output.mismatches (o : Output) (wires : BitVec 24) : List Nat :=
  let want := o.cfg.intended o.level
  if o.cfg.drive = .openDrain ∧ want = .high then []
  else o.cfg.pins.filter fun p => decide (readPin wires p ≠ want)

/-- Fault entry (R26): FAULTED at the safe level with no release time, its ACTIVE partners broken first when
it becomes ACTIVE (R85), and CHANNEL_FAULT to its owner. -/
def State.faultEntry (s : State) (c : Nat) (o : Output) (bad : List Nat) : State :=
  let s1 := if o.cfg.safe = .active ∧ o.level = .inactive then s.breakPartners c else s
  let s2 :=
    s1.putOutput c
      { o with
        level := o.cfg.safe
        lastOff := o.lastOffAfter o.cfg.safe s.now
        release := none
        condition := .faulted bad }
  match o.owner with
  | some n => s2.addReport n s.now (.channelFault c bad o.level)
  | none => s2

/-- The readback at the end of a settle window (R25). -/
def State.readback (s : State) (c : Nat) (o : Output) (wires : BitVec 24) : State :=
  if o.mismatches wires = [] then s.setChan c (.output { o with condition := .ready })
  else s.faultEntry c o (o.mismatches wires)

/-- SETTLE_END (R24 to R26): taken once the elapsed count has reached the window's end. -/
def execSettleEnd (c : Nat) (wires : BitVec 24) (s : State) : Host.Outcome State Fault Refusal :=
  match s.chan c with
  | .output o =>
    match o.condition with
    | .settling endsAt => if endsAt ≤ s.elapsed then .next (s.readback c o wires) else .next s
    | _ => .next s
  | _ => .next s

/-- A qualified level equals a sampled one. -/
def QLevel.equals (q : QLevel) (l : PinLevel) : Bool :=
  match q, l with
  | .high, .high => true
  | .low, .low => true
  | _, _ => false

/-- The candidate after a sample (R30, R31), before it is compared with the qualify count. -/
def Input.count (i : Input) (l : PinLevel) (now : Nat) : Option Candidate :=
  if i.level.equals l then none
  else
    match i.candidate with
    | none => some ⟨l, 1, now⟩
    | some k => if k.level = l then some { k with count := k.count + 1 } else some ⟨l, 1, now⟩

/-- The qualified level that a candidate gives. -/
def qualifiedAs (l : PinLevel) : QLevel :=
  match l with
  | .high => .high
  | .low => .low

/-- A level change of channel `c` handed to the engine, for the WAITING_GUARD entries on it that are not
withheld (R57). -/
def State.handLevelChange (s : State) (c : Nat) : State :=
  let waiting := (s.queue.filter (s.reevaluates c)).map Entry.adm
  if waiting = [] then s else { s with levelChanges := s.levelChanges ++ [⟨c, waiting⟩] }

/-- A qualified edge handed to its three receivers (R32): an INPUT_EDGE for each subscriber, the Trigger Unit,
the Schedule Engine. -/
def State.handEdge (s : State) (c : Nat) (subscribers : List Nat) (rising : Bool) (t : Nat) : State :=
  let reports :=
    (sessionNumbers.filter subscribers.contains).map fun n => Handed.mk n s.now (.inputEdge c rising t)
  { s with handed := s.handed ++ reports, edges := s.edges ++ [Edge.mk c rising t] }.handLevelChange c

/-- One sample of an input (R29 to R32). -/
def State.sampleInput (s : State) (c : Nat) (i : Input) (l : PinLevel) : State :=
  let i1 := { i with nextSample := i.nextSample + i.interval }
  match i.count l s.now with
  | none => s.setChan c (.input { i1 with candidate := none })
  | some k =>
    if k.count < i.qualify then s.setChan c (.input { i1 with candidate := some k })
    else if i.level = .unknown then
      (s.setChan c (.input { i1 with candidate := none, level := qualifiedAs k.level })).handLevelChange c
    else
      (s.setChan c
            (.input
              { i1 with candidate := none, level := qualifiedAs k.level, lastEdge := some k.first })).handEdge
        c i.subscribers (k.level = .high) k.first

/-- INPUT_SAMPLE (R29): taken once the elapsed count has reached the channel's next sample. -/
def execInputSample (c : Nat) (l : PinLevel) (s : State) : Host.Outcome State Fault Refusal :=
  match s.chan c with
  | .input i => if i.nextSample ≤ s.elapsed then .next (s.sampleInput c i l) else .next s
  | _ => .next s

end Sys2Proof.Machine
end

