-- ==== Sys2Proof/Machine/Interlocks.lean ====
section
/-!
DEFINITION. Machine/Interlocks.lean: INTERLOCK_SET, INTERLOCK_CLEAR, INTERLOCK_QUERY (R74 to R79).
-/

namespace Sys2Proof.Machine

/-- The lowest free position of the table (R75). -/
def State.freeInterlock (s : State) : Option Nat :=
  (List.range 12).find? fun i => (s.interlock i).isNone

/-- The pair meets the three safety conditions of R76: levels now, safe levels, dead time with an ACTIVE safe
level. -/
def pairSafe (a b : Output) (dead : Nat) : Bool :=
  !(decide (a.level = .active) && decide (b.level = .active)) &&
    !(decide (a.cfg.safe = .active) && decide (b.cfg.safe = .active)) &&
    (!(decide (a.cfg.safe = .active) || decide (b.cfg.safe = .active)) || dead == 0)

/-- The position condition of INTERLOCK_SET (R75, step 5): the position, or the refusal. -/
def State.interlockPosition (s : State) (n : Nat) (key : Bool) (number : Option Nat) : Except Result Nat :=
  match number with
  | none =>
    match s.freeInterlock with
    | some i => .ok i
    | none => .error .tableFull
  | some i =>
    if (s.interlock i).isNone then .ok i
    else if s.classOf n = .service then (if key then .ok i else .error .notPermitted)
    else .error .inUse

/-- Both channels are owned by session `n` (R75, step 4). -/
def bothOwned (a b : Output) (n : Nat) : Bool := a.owner == some n && b.owner == some n

/-- INTERLOCK_SET's rule, its conditions in the order of R75. -/
def serveInterlockSet (key : Bool) : Service := fun n body s =>
  asOperator s n
    (match readInterlockSet body with
    | none => (s, refuse .malformed)
    | some (number, r) =>
      match s.outputAt r.a, s.outputAt r.b with
      | some a, some b =>
        match if bothOwned a b n then none else foreignRefusal s n key with
        | some x => (s, refuse x)
        | none =>
          match s.interlockPosition n key number with
          | .error x => (s, refuse x)
          | .ok i =>
            if pairSafe a b r.dead then (s.setInterlock i (some r), okWith (u8 i))
            else (s, refuse .interlockConflict)
      | _, _ => (s, refuse .notBound))

/-- INTERLOCK_SET (R75 to R77). -/
def execInterlockSet (p : Port) (key : Bool) (s : State) : Host.Outcome State Fault Refusal :=
  .next (s.takeRequest p 0x28 (serveInterlockSet key))

/-- INTERLOCK_CLEAR's rule (R78). -/
def serveInterlockClear (key : Bool) : Service := fun n body s =>
  asService s n key
    (match readIndex 12 body with
    | none => (s, refuse .malformed)
    | some i => (s.setInterlock i none, okWith (flag (s.interlock i).isSome)))

/-- INTERLOCK_CLEAR (R78). -/
def execInterlockClear (p : Port) (key : Bool) (s : State) : Host.Outcome State Fault Refusal :=
  .next (s.takeRequest p 0x29 (serveInterlockClear key))

/-- The reply of INTERLOCK_QUERY: the number of positions held, and their records in table order (R79). -/
def State.interlockReply (s : State) : List Byte :=
  let records := (List.range 12).filterMap fun i => (s.interlock i).map (interlockRecord i)
  u8 records.length ++ records.flatten

/-- INTERLOCK_QUERY's rule (R79). -/
def serveInterlockQuery : Service := fun _ body s => emptyQuery body s s.interlockReply

/-- INTERLOCK_QUERY (R79). -/
def execInterlockQuery (p : Port) (s : State) : Host.Outcome State Fault Refusal :=
  .next (s.takeRequest p 0x2A serveInterlockQuery)

end Sys2Proof.Machine
end

