-- ==== Sys2Proof/Machine/PlanStore.lean ====
section
/-!
DEFINITION. Machine/PlanStore.lean: PLAN_BEGIN, PLAN_PUT, PLAN_ABANDON, PLAN_COMMIT, PLAN_ERASE, PLAN_LIST,
ERASE_PHASE_END, PROGRAMMING_PHASE_END, ERASE_END and SUPPLY_CHANGE (R158 to R175).
-/

namespace Sys2Proof.Machine

/-! ### The build -/

/-- PLAN_BEGIN's rule, its conditions in the order of R162. -/
def servePlanBegin (key : Bool) : Service := fun n body s =>
  asService s n key
    (match readPlanBegin body with
    | none => (s, refuse .malformed)
    | some (k, name, auto) =>
      match s.build with
      | some _ => (s, refuse .buildActive)
      | none => ({ s with build := some ⟨n, k, name, auto, []⟩ }, okWith (u16 (Config.slotCapacity k))))

/-- PLAN_BEGIN (R162). -/
def execPlanBegin (p : Port) (key : Bool) (s : State) : Host.Outcome State Fault Refusal :=
  .next (s.takeRequest p 0x48 (servePlanBegin key))

/-- The first three conditions of PLAN_PUT, PLAN_ABANDON and PLAN_COMMIT (R163, R164, R166): class, build,
key. What follows is judged with the requester's build. -/
def withBuild (s : State) (n : Nat) (key : Bool) (act : Build → State × Answer) : State × Answer :=
  if s.classOf n ≠ .service then (s, refuse .notPermitted)
  else
    match s.build with
    | none => (s, refuse .noBuild)
    | some b =>
      if b.owner ≠ n then (s, refuse .noBuild)
      else if key = false then (s, refuse .notPermitted)
      else act b

/-- The place in plan order that the build has reached (R161). -/
def Build.group (b : Build) : Nat :=
  match b.records.getLast? with
  | none => 0
  | some r => recordGroup r

/-- The build with records appended (R163). -/
def Build.put (b : Build) (rs : List (List Byte)) : Build := { b with records := b.records ++ rs }

/-- The fields of the reply to an accepted PLAN_PUT (R163). -/
def putReply (added : Nat) (b : Build) : List Byte := u8 added ++ u16 b.records.length ++ u16 b.size

/-- PLAN_PUT's rule, its conditions in the order of R163. -/
def servePlanPut (key : Bool) : Service := fun n body s =>
  withBuild s n key fun b =>
    match readPut body.length 0 b.group body with
    | .failsAt position => (s, ⟨.malformed, u8 position, true, false⟩)
    | .records rs =>
      if Config.slotCapacity b.slot < (b.put rs).size then
        (s, ⟨.planTooLarge, u16 (Config.slotCapacity b.slot - b.size), true, false⟩)
      else ({ s with build := some (b.put rs) }, okWith (putReply rs.length (b.put rs)))

/-- PLAN_PUT (R161, R163). -/
def execPlanPut (p : Port) (key : Bool) (s : State) : Host.Outcome State Fault Refusal :=
  .next (s.takeRequest p 0x49 (servePlanPut key))

/-- PLAN_ABANDON's rule (R164). -/
def servePlanAbandon (key : Bool) : Service := fun n body s =>
  withBuild s n key fun b =>
    if body = [] then ({ s with build := none }, okWith (u16 b.records.length ++ u16 b.size))
    else (s, refuse .malformed)

/-- PLAN_ABANDON (R164). -/
def execPlanAbandon (p : Port) (key : Bool) (s : State) : Host.Outcome State Fault Refusal :=
  .next (s.takeRequest p 0x4A (servePlanAbandon key))

/-! ### Commit and erase -/

/-- The last three conditions of PLAN_COMMIT and PLAN_ERASE, for slot `k` (R166, R168): `none` accepts. -/
def State.writeRefusal (s : State) (k : Nat) (prot : Bool) : Option Result :=
  if s.storeBusy then some .storeBusy
  else if s.supply = .low then some .lowSupply
  else if k = 0 ∧ prot then some .storeProtected
  else none

/-- The slot once a commit of the build is accepted (R166, step 2); its old contents are no longer usable. -/
def Slot.committing (r : Slot) (b : Build) : Slot :=
  { r with
    state := .erasing
    name := some b.name
    autostart := b.autostart
    size := b.size
    check := none
    contents := [] }

/-- An accepted PLAN_COMMIT by session `n` (R166). -/
def State.beginCommit (s : State) (n : Nat) (b : Build) : State :=
  { s.setSlot b.slot ((s.slot b.slot).committing b) with
    store := .commitErasing b.slot (some n) b.records.flatten
    build := none }

/-- PLAN_COMMIT's rule, its conditions in the order of R166. -/
def servePlanCommit (key prot : Bool) : Service := fun n body s =>
  withBuild s n key fun b =>
    if body ≠ [] then (s, refuse .malformed)
    else
      match s.writeRefusal b.slot prot with
      | some r => (s, refuse r)
      | none => (s.beginCommit n b, okWith (u8 b.slot ++ u16 b.size))

/-- PLAN_COMMIT (R166). -/
def execPlanCommit (p : Port) (key prot : Bool) (s : State) : Host.Outcome State Fault Refusal :=
  .next (s.takeRequest p 0x4B (servePlanCommit key prot))

/-- The slot once an erase is accepted (R168). -/
def Slot.erasing (r : Slot) : Slot :=
  { r with state := .erasing, name := none, autostart := false, size := 0, check := none, contents := [] }

/-- An accepted PLAN_ERASE of slot `k` by session `n` (R168). -/
def State.beginErase (s : State) (n k : Nat) : State :=
  { s.setSlot k (s.slot k).erasing with store := .erasing k (some n) }

/-- PLAN_ERASE's rule, its conditions in the order of R168. -/
def servePlanErase (key prot : Bool) : Service := fun n body s =>
  asService s n key
    (match readIndex 8 body with
    | none => (s, refuse .malformed)
    | some k =>
      match s.writeRefusal k prot with
      | some r => (s, refuse r)
      | none => (s.beginErase n k, okWith (u8 k)))

/-- PLAN_ERASE (R168). -/
def execPlanErase (p : Port) (key prot : Bool) (s : State) : Host.Outcome State Fault Refusal :=
  .next (s.takeRequest p 0x4C (servePlanErase key prot))

/-! ### Looking at the store -/

/-- The reply of PLAN_LIST (R173): the slot records that fit beside the fields that follow them (R192, 19). -/
def State.planListReply (s : State) : List Byte :=
  let tail := storeRecord s.store ++ u8 (supplyCode s.supply) ++ buildRecord s.build
  let records := (List.range 8).map fun k => slotRecord k (s.slot k)
  (takeFitting (Config.maxBody - 1 - tail.length) records).flatten ++ tail

/-- PLAN_LIST's rule (R173). -/
def servePlanList : Service := fun _ body s => emptyQuery body s s.planListReply

/-- PLAN_LIST (R173). -/
def execPlanList (p : Port) (s : State) : Host.Outcome State Fault Refusal :=
  .next (s.takeRequest p 0x4D servePlanList)

/-! ### Events of the storage array and the supply -/

/-- A report for the requesting session of a store operation; none is made when it has ended (R169). -/
def State.reportTo (s : State) (n : Option Nat) (body : ReportBody) : State :=
  match n with
  | none => s
  | some m => s.addReport m s.now body

/-- ERASE_PHASE_END: a commit goes on to PROGRAMMING (R167). The programming phase of a plan of size 0, which R167
ends "at once after the erase", ends by PROGRAMMING_PHASE_END like any other, so that another event may come between
(DESIGN CHOICE, 47). -/
def execErasePhaseEnd (s : State) : Host.Outcome State Fault Refusal :=
  match s.store with
  | .commitErasing k n image =>
    .next
      { s.setSlot k { s.slot k with state := .programming } with store := .commitProgramming k n image }
  | _ => .next s

/-- The slot after a commit that verified (R167). -/
def Slot.committed (r : Slot) (bytes : List Byte) : Slot :=
  { r with
    state := .valid
    check := some (crc32 bytes)
    generation := (r.generation + 1) % 4294967296
    contents := bytes }

/-- A slot made INVALID; it keeps its name, autostart flag, generation and size (R159). -/
def Slot.invalidated (r : Slot) : Slot := { r with state := .invalid, check := none, contents := [] }

/-- The end of the programming phase with the bytes read back (R167). -/
def State.endProgramming (s : State) (k : Nat) (n : Option Nat) (image bytes : List Byte) : State :=
  if bytes = image then
    let r := (s.slot k).committed bytes
    ({ s.setSlot k r with store := .idle }).reportTo n (.storeDone false k .valid r.generation r.size)
  else
    ({ s.setSlot k (s.slot k).invalidated with store := .idle }).reportTo n (.storeFailed true false k)

/-- PROGRAMMING_PHASE_END: the verification of a commit (R167). A plan of size 0 has nothing to read back. -/
def execProgrammingPhaseEnd (readBack : Option (List Byte)) (s : State) :
    Host.Outcome State Fault Refusal :=
  match s.store with
  | .commitProgramming k n image =>
    .next (s.endProgramming k n image (if image = [] then [] else readBack.getD image))
  | _ => .next s

/-- ERASE_END: the slot of an erase becomes EMPTY (R168). -/
def execEraseEnd (s : State) : Host.Outcome State Fault Refusal :=
  match s.store with
  | .erasing k n =>
    let r := { s.slot k with state := .empty }
    .next (({ s.setSlot k r with store := .idle }).reportTo n (.storeDone true k .empty r.generation 0))
  | _ => .next s

/-- The abort of an operation that writes slot `k` (R172). -/
def State.abortWrite (s : State) (k : Nat) (n : Option Nat) (erase : Bool) : State :=
  ({ s.setSlot k (s.slot k).invalidated with store := .idle }).reportTo n (.storeFailed false erase k)

/-- A supply change to LOW reaches the operation in flight (R172): a commit or an erase is aborted. -/
def State.abortByLow (s : State) : State :=
  match s.store with
  | .idle => s
  | .reading _ _ _ => s
  | .commitErasing k n _ => s.abortWrite k n false
  | .commitProgramming k n _ => s.abortWrite k n false
  | .erasing k n => s.abortWrite k n true

/-- SUPPLY_CHANGE: a crossing of the upper threshold sets the level (R171, R172). A level that the supply
already has is no crossing (2). -/
def execSupplyChange (level : SupplyLevel) (s : State) : Host.Outcome State Fault Refusal :=
  if level = s.supply then .next s
  else
    let s1 := { s with supply := level }
    .next (if level = .low then s1.abortByLow else s1)

end Sys2Proof.Machine
end

