-- ==== Sys2Proof/Machine/Timebase.lean ====
section
/-!
DEFINITION. Machine/Timebase.lean: TICK, TRIM_WINDOW_END, TIME_GET, TIME_SET, TIME_TRIM (R1 to R13).
-/

namespace Sys2Proof.Machine

/-! ### Ticks and trim windows -/

/-- The length of the trim window in force, in elapsed-count ticks (R9). -/
def Timebase.windowTicks (t : Timebase) : Nat := t.trim.window * Config.ticksPerSecond

/-- The tick that brings the window position to `position` carries a correction: position is the integer part
of k x L / |c| for some k from 1 to |c| (R9). -/
def carriesCorrection (c : Int) (ticks position : Nat) : Bool :=
  (List.range c.natAbs).any fun k => (k + 1) * ticks / c.natAbs == position

/-- The amount by which device time advances at a tick (R2). -/
def tickAmount (c : Int) (correction : Bool) : Nat :=
  if correction then (if 0 < c then 2 else 0) else 1

/-- The end of a trim window (R9, R11): the position returns to 0, and the pending trim, if any, comes into
force. -/
def Timebase.endWindow (t : Timebase) : Timebase :=
  { t with
    position := 0
    trim := t.pendingTrim.getD t.trim
    pendingTrim := none }

/-- The window has ended and its end has not been taken yet (4). -/
def Timebase.windowEnded (t : Timebase) : Bool := decide (t.windowTicks ≤ t.position)

/-- The end of the window taken, where it is outstanding (R9: a window never ends late). -/
def Timebase.settled (t : Timebase) : Timebase := if t.windowEnded then t.endWindow else t

/-- One tick of the internal time base (R1, R2, R9). -/
def Timebase.advance (t : Timebase) : Timebase :=
  let u := t.settled
  let position := u.position + 1
  { u with
    elapsed := u.elapsed + 1
    position := position
    device :=
      clampTime (u.device + tickAmount u.trim.value (carriesCorrection u.trim.value u.windowTicks position)) }

/-- TICK (R1, R2, R9). -/
def execTick (s : State) : Host.Outcome State Fault Refusal :=
  .next { s with time := s.time.advance }

/-- TRIM_WINDOW_END (R9, R11). -/
def execTrimWindowEnd (s : State) : Host.Outcome State Fault Refusal :=
  .next { s with time := s.time.settled }

/-! ### Requests -/

/-- The fields of the TIME_GET reply (R4). -/
def Timebase.reply (t : Timebase) : List Byte :=
  let pending := t.pendingTrim.getD ⟨0, 0⟩
  u48 t.device ++ flag t.valid ++ trimByte t.trim.value ++ u16 t.trim.window ++
    flag t.pendingTrim.isSome ++ trimByte pending.value ++ u16 pending.window

/-- TIME_GET's rule (R4). -/
def serveTimeGet : Service := fun _ body s => emptyQuery body s s.time.reply

/-- TIME_GET (R4). -/
def execTimeGet (p : Port) (s : State) : Host.Outcome State Fault Refusal :=
  .next (s.takeRequest p 0x08 serveTimeGet)

/-- A held time shifted by a jump from `old` to `new`, held between 0 and 2^48 - 1 (R6). -/
def shiftTime (old new t : Nat) : Nat := clampTime (t + new - old)

/-- A channel's times derived from durations, shifted: release time, last-off time, candidate first-sample
time (R6). -/
def Channel.shift (f : Nat → Nat) : Channel → Channel
  | .unbound => .unbound
  | .output o => .output { o with release := o.release.map f, lastOff := o.lastOff.map f }
  | .input i => .input { i with candidate := i.candidate.map fun k => { k with first := f k.first } }

/-- An entry's effective time, shifted (R6); its due time or offset is not. -/
def Phase.shift (f : Nat → Nat) : Phase → Phase
  | .waitingTime due => .waitingTime due
  | .waitingGuard due effective => .waitingGuard due (f effective)
  | .deferred due effective => .deferred due (f effective)
  | .template offset => .template offset

/-- A trigger's holdoff end, shifted (R6). -/
def TriggerState.shift (f : Nat → Nat) : TriggerState → TriggerState
  | .holdoff t => .holdoff (f t)
  | st => st

/-- Every held time of R6 shifted by `f`; the entries take their new places in queue order. The release time
that a drive request on its way carries moves with them (DESIGN CHOICE, 10). R6 lists neither way the timestamp of
a qualified edge, of a fire request and of an INPUT_EDGE report still on their way, nor the fire time of a drive
request: they are not shifted (DESIGN CHOICE, 45). -/
def State.shiftHeld (s : State) (f : Nat → Nat) : State :=
  { s with
    channels := s.channels.map (Channel.shift f)
    queue := sortEntries (s.queue.map fun e => { e with phase := e.phase.shift f })
    inFlight := s.inFlight.map fun d => { d with release := d.release.map f }
    triggers := s.triggers.map fun r => r.map fun t => { t with state := t.state.shift f }
    stop :=
      { s.stop with candidate := s.stop.candidate.map fun k => { k with first := f k.first } } }

/-- TIME_SET to `new`: the new time, TIME_VALID, and the shifts, in one event (R5, R6). -/
def State.setTime (s : State) (new : Nat) : State :=
  let s1 := s.shiftHeld (shiftTime s.now new)
  { s1 with time := { s1.time with device := new, valid := true } }

/-- TIME_SET's rule (R5). -/
def serveTimeSet : Service := fun n body s =>
  asOperator s n
    (match readTimeSet body with
    | none => (s, refuse .malformed)
    | some new => (s.setTime new, okWith (u48 s.now)))

/-- TIME_SET (R5, R6). -/
def execTimeSet (p : Port) (s : State) : Host.Outcome State Fault Refusal :=
  .next (s.takeRequest p 0x09 serveTimeSet)

/-- TIME_TRIM's rule (R10). -/
def serveTimeTrim (key : Bool) : Service := fun n body s =>
  asService s n key
    (match readTimeTrim body with
    | none => (s, refuse .malformed)
    | some trim => ({ s with time := { s.time with pendingTrim := some trim } }, okWith []))

/-- TIME_TRIM (R10). -/
def execTimeTrim (p : Port) (key : Bool) (s : State) : Host.Outcome State Fault Refusal :=
  .next (s.takeRequest p 0x0A (serveTimeTrim key))

end Sys2Proof.Machine
end

