-- ==== Sys2Proof/WellFormed.lean ====
section
/-!
DEFINITION. WellFormed.lean: the operands a command may carry (1.9, R183 to R185). exec is total on every
command; an ill-formed one names a channel, trigger, session or slot that the part does not have, or a
transaction that another row describes.
-/

namespace Sys2Proof

/-- The command bytes that Port B knows: WRITE, READ, LEVEL (R184). -/
def isSpiCommand (command : Byte) : Bool :=
  command == 0xB1 || command == 0xB2 || command == 0xB3

/-- The operands lie in the ranges of 1.9, and a transaction is of the kind its row describes. -/
def Instr.wellFormed : Instr → Bool
  | .pulseRelease c => c < 32
  | .settleEnd c _ => c < 32
  | .inputSample c _ => c < 32
  | .holdoffEnd t => t < 16
  | .keepaliveExpiry n => 1 ≤ n && n ≤ 4
  | .graceExpiry n => 1 ≤ n && n ≤ 4
  | .hardReset _ _ _ found => found.all fun x => x.1 < 8
  | .readEnd clocked before => before ≤ clocked
  | .unknownSpiCommand command _ => !isSpiCommand command
  | .openSession _ _ | .identify _ | .status _ | .close _ | .keepalive _ | .timeGet _ | .timeSet _
  | .timeTrim _ _ | .bind _ | .unbind _ _ | .clearFault _ _ | .requalify _ | .channelQuery _
  | .subscribe _ | .unsubscribe _ | .claim _ _ | .release _ | .takeover _ | .actionAdd _
  | .actionCancel _ _ | .groupCancel _ | .queueQuery _ | .interlockSet _ _ | .interlockClear _ _
  | .interlockQuery _ | .triggerSet _ | .triggerClear _ _ | .triggerQuery _ | .halt _ | .resume _
  | .reportAck _ | .reportResend _ | .planBegin _ _ | .planPut _ _ | .planAbandon _ _
  | .planCommit _ _ _ | .planErase _ _ _ | .planList _ | .planLoad _ | .deviceReset _ _
  | .unknownRequestKind _ | .tick | .trimWindowEnd | .entryDue | .actionDrive | .guardDeadline
  | .guardReevaluation | .triggerEdge | .fireRequest | .stopNSample _ | .reportAdd | .erasePhaseEnd
  | .programmingPhaseEnd _ | .eraseEnd | .readCompletion _ | .supplyChange _ | .portAFrame _
  | .portAGapTimeout | .portATransmit | .portAFrameSent | .deviceResetTimeout | .write _ _
  | .level _ | .read => true

end Sys2Proof
end

