-- ==== Sys2Proof/Machine/Links.lean ====
section
/-!
DEFINITION. Machine/Links.lean: the two ports: IDENTIFY, STATUS, DEVICE_RESET, UNKNOWN_REQUEST_KIND, the Port A
receiver and transmitter, the transactions of Port B, and the resets (R183 to R193, R12, R174).
-/

namespace Sys2Proof.Machine

/-! ### Sessionless requests -/

/-- IDENTIFY's rule, without a session (R188). -/
def identifyBare (body : List Byte) (s : State) : State × Answer := emptyQuery body s identifyBytes

/-- IDENTIFY (R188). -/
def execIdentify (p : Port) (s : State) : Host.Outcome State Fault Refusal :=
  .next (s.takeSessionless p 0x02 identifyBare fun _ => identifyBare)

/-- STATUS's rule, without a session (R188, R193). -/
def statusBare (body : List Byte) (s : State) : State × Answer := emptyQuery body s s.statusBytes

/-- STATUS (R188, R193). -/
def execStatus (p : Port) (s : State) : Host.Outcome State Fault Refusal :=
  .next (s.takeSessionless p 0x03 statusBare fun _ => statusBare)

/-- The request codes (R193). -/
def requestCodes : List Nat :=
  [0x01, 0x02, 0x03, 0x04, 0x05, 0x08, 0x09, 0x0A, 0x10, 0x11, 0x12, 0x13, 0x14, 0x15, 0x16, 0x18, 0x19,
    0x1A, 0x20, 0x21, 0x22, 0x23, 0x28, 0x29, 0x2A, 0x30, 0x31, 0x32, 0x38, 0x39, 0x40, 0x41, 0x48, 0x49,
    0x4A, 0x4B, 0x4C, 0x4D, 0x4E, 0x50]

/-- A kind that is no request code (R186). -/
def unknownKind (kind : Byte) : Bool := !requestCodes.contains kind.toNat

/-- The answer to an unknown kind under a session number (R186). -/
def serveUnknown : Service := fun _ _ s => (s, refuse .unknownKind)

/-- UNKNOWN_REQUEST_KIND: the oldest frame carries a kind that is no request code (R186, step 1). -/
def execUnknownRequestKind (p : Port) (s : State) : Host.Outcome State Fault Refusal :=
  match s.takeFrame p unknownKind with
  | none => .next s
  | some (f, s1) =>
    if f.ses = 0 then .next (s1.placeReply p (replyFrame f .unknownKind []) false)
    else .next (s1.routeFrame p f serveUnknown)

/-- DEVICE_RESET's rule on port `p`, its conditions in the order of R190. The reply of an accepted one is not
cached (R124). -/
def serveDeviceReset (p : Port) (key : Bool) : Service := fun n body s =>
  asService s n key
    (if body ≠ [] then (s, refuse .malformed)
    else if s.storeBusy then (s, refuse .storeBusy)
    else
      ({ s with deviceReset := some ⟨p, s.elapsed + Config.deviceResetLimit⟩ }, ⟨.ok, [], false, true⟩))

/-- DEVICE_RESET (R190). -/
def execDeviceReset (p : Port) (key : Bool) (s : State) : Host.Outcome State Fault Refusal :=
  .next (s.takeRequest p 0x50 (serveDeviceReset p key))

/-! ### Resets -/

/-- A port after a reset: emptied, last-served session 4, with its counts (R190). A store request that waits in the
receive FIFO at a soft reset goes with the rest, as R190 says, whose chapter owns the FIFO and so gives the outcome
(00_scope.md); R175's NO_SESSION is for a request that arrives, or is repeated, after the reset (DEDUCED, 48). -/
def Link.cleared (l : Link) : Link := { Link.reset with errors := l.errors, overflows := l.overflows }

/-- The soft reset (R13, R36, R73, R87, R104, R116, R142, R143, R175, R182, R190): all but the Timebase, the
slots, the store operation, the supply level, the counts, the straps, a Port A frame begun and the lines' past
bytes is as after a hard reset. A Port B READ in progress is cut. -/
def State.softReset (s : State) : State :=
  { State.reset with
    time := s.time
    stop := StopControl.reset (s.elapsed + 1)
    slots := s.slots
    store := s.store
    supply := s.supply
    linkA := s.linkA.cleared
    linkB := s.linkB.cleared
    rxA := { s.rxA with phase := .hunt }
    baud := s.baud
    sendingA := s.sendingA.map fun (f : OutFrame) => { f with resets := false }
    txd := s.txd
    reading := s.reading.map fun (r : ReadTxn) => { r with cut := true }
    miso := s.miso
    pending := s.pending }

/-- One slot judged by the scan (R174); `found` is what the array holds of a VALID slot. -/
def Slot.scanned (r : Slot) (found : List Byte) : Slot :=
  match r.state with
  | .empty => r
  | .invalid => r
  | .erasing => r.invalidated
  | .programming => r.invalidated
  | .valid => if r.check = some (crc32 found) then { r with contents := found } else r.invalidated

/-- The scan of the eight slots (R174). -/
def State.scannedSlots (s : State) (found : List (Nat × List Byte)) : Vector Slot 8 :=
  Vector.ofFn fun k => (s.slot k.val).scanned ((found.lookup k.val).getD (s.slot k.val).contents)

/-- HARD_RESET (R12, R171, R174, R189, R191): the soft reset's values in every block, and in addition the time
base, the counts and the elapsed values at 0, the straps and the supply as sampled, the slots as scanned. -/
def execHardReset (baud1 baud0 : Bool) (supply : SupplyLevel) (found : List (Nat × List Byte)) (s : State) :
    Host.Outcome State Fault Refusal :=
  .next
    { s.softReset with
      time := Timebase.reset
      stop := StopControl.reset 0
      slots := s.scannedSlots found
      store := .idle
      supply := supply
      linkA := Link.reset
      linkB := Link.reset
      rxA := ⟨.hunt, 0⟩
      baud := (baud1, baud0) }

/-- DEVICE_RESET_TIMEOUT (R190): a Port B reply not read within 10,000 ticks holds the reset up no longer. -/
def execDeviceResetTimeout (s : State) : Host.Outcome State Fault Refusal :=
  match s.deviceReset with
  | some r => if r.port = .b ∧ r.deadline ≤ s.elapsed then .next s.softReset else .next s
  | none => .next s

/-! ### Receiving -/

/-- Adds one to the error count of the port (R189). -/
def State.countError (s : State) (p : Port) : State :=
  s.setLink p { s.link p with errors := saturate ((s.link p).errors + 1) }

/-- A checked frame arrives at the receive FIFO of the port (R183, R184). -/
def State.receive (s : State) (p : Port) (f : Frame) : State :=
  let l := s.link p
  if l.fifo.length < Config.fifoCapacity then s.setLink p { l with fifo := l.fifo ++ [f] }
  else s.setLink p { l with overflows := saturate (l.overflows + 1) }

/-- The Port A receiver in a phase. -/
def State.rxPhase (s : State) (ph : RxPhase) : State := { s with rxA := { s.rxA with phase := ph } }

/-- A frame is discarded, counted, and the receiver hunts (R183). -/
def State.discard (s : State) : State := (s.countError .a).rxPhase .hunt

/-- CHECK (R183): the frame of LEN and the kept bytes is received, or discarded. -/
def State.checkFrame (s : State) (len : Nat) (kept : List Byte) : State :=
  match frameOf len kept with
  | some f => (s.receive .a f).rxPhase .hunt
  | none => s.discard

/-- The gap limit is passed in HEADER or BODY (R183). -/
def State.gapPassed (s : State) : Bool :=
  decide (s.rxA.phase ≠ .hunt) && decide (s.rxA.lastByte + Config.gapLimit < s.elapsed)

/-- The gap timeout, where it is outstanding (R183). -/
def State.gapTimeout (s : State) : State := if s.gapPassed then s.discard else s

/-- The receiver judges a byte by its phase (R183). -/
def State.judgeByte (s : State) (b : RxByte) : State :=
  match s.rxA.phase with
  | .hunt => if b.stopOk ∧ b.value = syncByte then s.rxPhase .header else s
  | .header =>
    if b.stopOk ∧ 5 ≤ b.value.toNat ∧ b.value.toNat ≤ 253 then s.rxPhase (.body b.value.toNat [])
    else s.discard
  | .body len kept =>
    if b.stopOk = false then s.discard
    else if kept.length + 1 = len then s.checkFrame len (kept ++ [b.value])
    else s.rxPhase (.body len (kept ++ [b.value]))

/-- One byte at the Port A receiver (R183); an outstanding gap timeout comes first (37). -/
def State.takeByte (s : State) (b : RxByte) : State :=
  let s1 := s.gapTimeout
  { s1 with rxA := { s1.rxA with lastByte := s.elapsed } }.judgeByte b

/-- PORT_A_FRAME: bytes received on Port A, in order (R183). -/
def execPortAFrame (bytes : List RxByte) (s : State) : Host.Outcome State Fault Refusal :=
  .next (bytes.foldl State.takeByte s)

/-- PORT_A_GAP_TIMEOUT (R183). -/
def execPortAGapTimeout (s : State) : Host.Outcome State Fault Refusal := .next s.gapTimeout

/-! ### Transmitting -/

/-- The first ready session of the port after its last-served one, round from 4 to 1 (R187). -/
def State.nextReady (s : State) (p : Port) : Option Nat :=
  ((List.range 4).map fun i => ((s.link p).lastServed + i) % 4 + 1).find? (s.readyOn p)

/-- The hand-over of the oldest unsent record of session `n` to the port (R146, R187). -/
def State.handOver (s : State) (p : Port) (n : Nat) : Option (OutFrame × State) :=
  let q := s.reportQueue n
  match q.records[q.sent]? with
  | none => none
  | some r =>
    some
      (⟨reportFrame n r, false⟩,
        (s.setReportQueue n { q with sent := q.sent + 1 }).setLink p { s.link p with lastServed := n })

/-- The selection of a transmitter (R187): the oldest reply, else the next ready report queue, which is not
chosen from once a DEVICE_RESET has been accepted (R190). -/
def State.choose (s : State) (p : Port) : Option (OutFrame × State) :=
  match (s.link p).replies with
  | r :: rest => some (r, s.setLink p { s.link p with replies := rest })
  | [] =>
    if s.deviceReset.isSome then none
    else
      match s.nextReady p with
      | none => none
      | some n => s.handOver p n

/-- PORT_A_TRANSMIT: the idle transmitter chooses and begins to send (R187). -/
def execPortATransmit (s : State) : Host.Outcome State Fault Refusal :=
  match s.sendingA with
  | some _ => .next s
  | none =>
    match s.choose .a with
    | none => .next s
    | some (f, s1) => .next { s1 with sendingA := some f }

/-- The soft reset occurs in the event in which the DEVICE_RESET reply has been transmitted (R190). -/
def State.transmitted (s : State) (f : OutFrame) : State := if f.resets then s.softReset else s

/-- PORT_A_FRAME_SENT: the last byte of the frame has been sent, sync byte first (R187, R190). -/
def execPortAFrameSent (s : State) : Host.Outcome State Fault Refusal :=
  match s.sendingA with
  | none => .next s
  | some f => .next ({ s with sendingA := none, txd := syncByte :: f.frame.bytes }.transmitted f)

/-! ### Port B transactions -/

/-- What a transaction shifts out on MISO: 0x00 during the command, then `stream`, then 0xFF, for `clocked`
bytes (R184, R185). -/
def shiftedOut (stream : List Byte) (clocked : Nat) : List Byte :=
  0x00 :: (stream ++ List.replicate (clocked - stream.length) 0xFF).take clocked

/-- The kept bytes of a WRITE judged at the deassertion of CS_N (R184). -/
def State.judgeWrite (s : State) (bytes : List Byte) : State :=
  match bytes with
  | [] => s.countError .b
  | len :: kept =>
    match frameOf len.toNat kept with
    | some f => s.receive .b f
    | none => s.countError .b

/-- WRITE (R184, R190): a WRITE that a reset cut keeps nothing from before it. No transaction begins while a
READ is in progress (2). -/
def execWrite (bytes : List Byte) (cut : Bool) (s : State) : Host.Outcome State Fault Refusal :=
  match s.reading with
  | some _ => .next s
  | none =>
    .next
      { (if cut then s.countError .b else s.judgeWrite bytes) with
        miso := List.replicate (bytes.length + 1) 0x00 }

/-- The free places of the Port B receive FIFO (R184). -/
def State.freePlaces (s : State) : Nat := Config.fifoCapacity - s.linkB.fifo.length

/-- LEVEL (R184): the outbound count and the free places are shifted out; nothing of the part changes. -/
def execLevel (clocked : Nat) (s : State) : Host.Outcome State Fault Refusal :=
  match s.reading with
  | some _ => .next s
  | none => .next { s with miso := shiftedOut (u8 s.outboundCount ++ u8 s.freePlaces) clocked }

/-- The transmitter of Port B with a frame offered: the one it holds, or the one it chooses (R185, step 1). -/
def State.offer (s : State) : Option (OutFrame × State) :=
  match s.offered with
  | some f => some (f, s)
  | none => (s.choose .b).map fun x => (x.1, { x.2 with offered := some x.1 })

/-- READ: the start of a READ transaction (R185). -/
def execRead (s : State) : Host.Outcome State Fault Refusal :=
  match s.reading with
  | some _ => .next s
  | none =>
    match s.offer with
    | some (f, s1) => .next { s1 with reading := some ⟨f.frame.bytes, true, false⟩ }
    | none => .next { s with reading := some ⟨[0x00], false, false⟩ }

/-- The frame offered is read when all LEN + 1 bytes of it were shifted out (R185, step 3). -/
def State.finishRead (s : State) (r : ReadTxn) (clocked : Nat) : State :=
  if r.frame ∧ r.stream.length ≤ clocked then
    match s.offered with
    | some f => { s with offered := none }.transmitted f
    | none => s
  else s

/-- READ_END: CS_N deasserts after `clocked` bytes (R185). Of a READ that a reset cut, the bytes after the
reset are 0xFF and nothing is read (R190). -/
def execReadEnd (clocked before : Nat) (s : State) : Host.Outcome State Fault Refusal :=
  match s.reading with
  | none => .next s
  | some r =>
    if r.cut then .next { s with reading := none, miso := shiftedOut (r.stream.take before) clocked }
    else .next ({ s with reading := none, miso := shiftedOut r.stream clocked }.finishRead r clocked)

/-- UNKNOWN_SPI_COMMAND (R184): the error count rises and 0xFF is shifted out. The three known commands are
other rows. -/
def execUnknownSpiCommand (command : Byte) (clocked : Nat) (s : State) : Host.Outcome State Fault Refusal :=
  if isSpiCommand command then .next s
  else
    match s.reading with
    | some _ => .next s
    | none => .next { s.countError .b with miso := shiftedOut [] clocked }

end Sys2Proof.Machine
end

