-- ==== Sys2Proof/Machine/Sessions.lean ====
section
/-!
DEFINITION. Machine/Sessions.lean: OPEN, CLOSE, KEEPALIVE, CLAIM, RELEASE, TAKEOVER, KEEPALIVE_EXPIRY,
GRACE_EXPIRY, and the teardown of a session (R117 to R142).
-/

namespace Sys2Proof.Machine

/-! ### Opening -/

/-- A live host session on port `p` that holds the client tag (R119, step 2). -/
def State.holderOf (s : State) (p : Port) (tag : Nat) : Option (Nat × HostSession) :=
  [1, 2, 3, 4].findSome? fun n =>
    match s.routed p n with
    | some h => if h.tag = tag then some (n, h) else none
    | none => none

/-- A live session of class SERVICE exists (R118). -/
def State.serviceTaken (s : State) : Bool :=
  sessionNumbers.any fun n => (s.session n).live && decide ((s.session n).cls = .service)

/-- The lowest FREE number among 1 to 4 (R120). -/
def State.freeSession (s : State) : Option Nat := [1, 2, 3, 4].find? fun n => !(s.session n).live

/-- A new host session (R120). -/
def State.newSession (s : State) (p : Port) (cls : SessionClass) (interval tag : Nat) : HostSession :=
  ⟨p, cls, tag, interval, .opened (s.elapsed + interval), 0, none⟩

/-- The fields of the reply to an accepted OPEN (R120). -/
def openReply (n : Nat) (reopened : Bool) (h : HostSession) : List Byte :=
  u8 n ++ flag reopened ++ u8 h.cls.code ++ u32 h.interval ++ u8 (Session.host h).stateCode ++ u8 h.expected

/-- OPEN's rule on port `p`, its conditions in the order of R119. -/
def serveOpen (p : Port) (key : Bool) (body : List Byte) (s : State) : State × Answer :=
  match readOpen body with
  | none => (s, refuse .malformed)
  | some (cls, interval, tag) =>
    match s.holderOf p tag with
    | some (n, h) => (s, okWith (openReply n true h))
    | none =>
      if cls = .service ∧ key = false then (s, refuse .notPermitted)
      else if cls = .service ∧ s.serviceTaken then (s, refuse .classTaken)
      else
        match s.freeSession with
        | none => (s, refuse .sessionLimit)
        | some n =>
          let h := s.newSession p cls interval tag
          ((s.setSession n (.host h)).setReportQueue n ReportQueue.fresh, okWith (openReply n false h))

/-- OPEN (R119, R120, R188): under a session number it is MALFORMED. -/
def execOpenSession (p : Port) (key : Bool) (s : State) : Host.Outcome State Fault Refusal :=
  .next (s.takeSessionless p 0x01 (serveOpen p key) fun _ _ s' => (s', refuse .malformed))

/-- KEEPALIVE's rule (R125). -/
def serveKeepalive : Service := fun _ body s => emptyQuery body s []

/-- KEEPALIVE (R125). -/
def execKeepalive (p : Port) (s : State) : Host.Outcome State Fault Refusal :=
  .next (s.takeRequest p 0x05 serveKeepalive)

/-! ### Ending -/

/-- The safe-level drives of the bound output channels that session `n` owns (R126, R131). -/
def State.driveOwnedSafe (s : State) (n : Nat) : State := (s.ownedOutputs n).foldl State.driveSafe s

/-- A channel of an ended session: unowned, not held, and without the session among its subscribers (R131,
steps 3 to 5). -/
def Channel.disown (n : Nat) : Channel → Channel
  | .unbound => .unbound
  | .output o => if o.owner = some n then .output { o with owner := none, held := false } else .output o
  | .input i =>
    .input
      { i with
        owner := if i.owner = some n then none else i.owner
        subscribers := dropMember i.subscribers n }

/-- The store operation with its requesting session replaced. -/
def StoreOp.withSession (op : StoreOp) (n : Option Nat) : StoreOp :=
  match op with
  | .idle => .idle
  | .reading k _ start => .reading k n start
  | .commitErasing k _ image => .commitErasing k n image
  | .commitProgramming k _ image => .commitProgramming k n image
  | .erasing k _ => .erasing k n

/-- An operation or a load of an ended session keeps running for none (R131, step 7). -/
def StoreOp.disown (op : StoreOp) (n : Nat) : StoreOp :=
  if op.session? = some n then op.withSession none else op

/-- The teardown of session `n` (R131): its entries, triggers and fire requests go, its outputs rest at their
safe levels, its channels are unowned, its build and reports are discarded, its store operation goes on for
none, and its record becomes FREE. A drive request of it on its way belongs to no session from then on (12). -/
def State.teardown (s : State) (n : Nat) : State :=
  let s1 := { s with
    queue := s.queue.filter fun (e : Entry) => e.owner != n
    triggers := s.triggers.map fun (r : Option Trigger) => r.filter fun (t : Trigger) => t.owner != n
    fireRequests := s.fireRequests.filter fun (f : FireReq) => f.owner != n }
  let s2 := s1.driveOwnedSafe n
  let s3 := { s2 with
    channels := s2.channels.map (Channel.disown n)
    inFlight := s2.inFlight.map fun (f : InFlight) => if f.owner = some n then { f with owner := none } else f
    build := s2.build.filter fun (b : Build) => b.owner != n
    store := s2.store.disown n
    handed := s2.handed.filter fun (r : Handed) => r.session != n }
  (s3.setReportQueue n ReportQueue.fresh).setSession n .free

/-- CLOSE's rule (R130). -/
def serveClose : Service := fun n body s =>
  if body = [] then (s.teardown n, okWith []) else (s, refuse .malformed)

/-- CLOSE (R130, R131). -/
def execClose (p : Port) (s : State) : Host.Outcome State Fault Refusal :=
  .next (s.takeRequest p 0x04 serveClose)

/-- The keepalive expiry of session `n` (R126): LAPSED, the safe-level drives, the held marks. The level changes not
yet taken pass over its entries, which are withheld (R57). -/
def State.lapse (s : State) (n : Nat) (h : HostSession) : State :=
  let s1 := (s.setSession n (.host { h with life := .lapsed (s.elapsed + h.interval) })).passOver
  let owned := s1.ownedOutputs n
  owned.foldl (fun s' c => s'.setHeld c true) (owned.foldl State.driveSafe s1)

/-- KEEPALIVE_EXPIRY of session `n` (R126): taken once the elapsed count has reached its deadline. -/
def execKeepaliveExpiry (n : Nat) (s : State) : Host.Outcome State Fault Refusal :=
  match s.session n with
  | .host h =>
    match h.life with
    | .opened deadline => if deadline ≤ s.elapsed then .next (s.lapse n h) else .next s
    | .lapsed _ => .next s
  | _ => .next s

/-- GRACE_EXPIRY of session `n` (R129): taken once the elapsed count has reached the grace deadline. -/
def execGraceExpiry (n : Nat) (s : State) : Host.Outcome State Fault Refusal :=
  match s.session n with
  | .host h =>
    match h.life with
    | .lapsed grace => if grace ≤ s.elapsed then .next (s.teardown n) else .next s
    | .opened _ => .next s
  | _ => .next s

/-! ### Ownership -/

/-- The channel after a forced claim by session `n` (R136, steps 2 and 3). -/
def Channel.claimed (n : Nat) : Channel → Channel
  | .unbound => .unbound
  | .output o => .output { o with owner := some n, held := false, release := none }
  | .input i => .input { i with owner := some n }

/-- The entries of session `m` that target channel `c`, in queue order (R136, step 1). -/
def State.entriesOn (s : State) (m c : Nat) : List Entry :=
  s.queue.filter fun e => e.owner == m && e.act.target == c

/-- One entry removed by a forced claim, with its report (R136, step 1). -/
def State.cancelClaimed (s : State) (e : Entry) : State :=
  (s.removeEntry e.adm).addReport e.owner s.now
    (.actionCancelled e.handle e.act.target e.act.kind e.phase.state)

/-- A forced claim of channel `c`, owned by session `m`, by session `n` (R136). -/
def State.forceClaim (s : State) (c m n : Nat) : State :=
  let gone := s.entriesOn m c
  let s1 := gone.foldl State.cancelClaimed s
  let s2 := s1.setChan c (Channel.claimed n (s1.chan c))
  s2.addReport m s.now (.ownershipLost c n gone.length)

/-- CLAIM's rule, its conditions in the order of R135. -/
def serveClaim (key : Bool) : Service := fun n body s =>
  asOperator s n
    (match readClaim body with
    | none => (s, refuse .malformed)
    | some (c, force) =>
      if s.chan c = .unbound then (s, refuse .notBound)
      else
        match (s.chan c).owner with
        | none => (s.setChan c ((s.chan c).withOwner (some n)), okWith [])
        | some m =>
          if m = n then (s, okWith [])
          else if force = false then (s, refuse .owned)
          else if s.serviceRights n key then
            (s.forceClaim c m n, okWith (u16 (s.entriesOn m c).length))
          else (s, refuse .notPermitted))

/-- CLAIM (R135, R136). -/
def execClaim (p : Port) (key : Bool) (s : State) : Host.Outcome State Fault Refusal :=
  .next (s.takeRequest p 0x18 (serveClaim key))

/-- RELEASE's rule, its conditions in the order of R138. -/
def serveRelease : Service := fun n body s =>
  asOperator s n
    (match readIndex 32 body with
    | none => (s, refuse .malformed)
    | some c =>
      if s.chan c = .unbound then (s, refuse .notBound)
      else if (s.chan c).owner ≠ some n then (s, refuse .notOwner)
      else if s.targetedBy n c then (s, refuse .inUse)
      else (s.setChan c ((s.chan c).withOwner none), okWith []))

/-- RELEASE (R138). -/
def execRelease (p : Port) (s : State) : Host.Outcome State Fault Refusal :=
  .next (s.takeRequest p 0x19 serveRelease)

/-- A channel after a TAKEOVER by session `n`: owner and subscription moved (R141). -/
def Channel.takenOver (n : Nat) : Channel → Channel
  | .unbound => .unbound
  | .output o => .output { o with owner := if o.owner = some 5 then some n else o.owner }
  | .input i =>
    .input
      { i with
        owner := if i.owner = some 5 then some n else i.owner
        subscribers :=
          if i.subscribers.contains 5 then addMember (dropMember i.subscribers 5) n else i.subscribers }

/-- The session that LOCAL's work belongs to after a TAKEOVER by `n` (R141). -/
def movedTo (n owner : Nat) : Nat := if owner = 5 then n else owner

/-- LOCAL's work moved to session `n`, and its record freed (R141). Fire requests and a drive request on its
way move with it (R102, R141, 12). -/
def State.takeOver (s : State) (n : Nat) : State :=
  let s1 := { s with
    channels := s.channels.map (Channel.takenOver n)
    queue := s.queue.map fun (e : Entry) => { e with owner := movedTo n e.owner }
    triggers := s.triggers.map fun (r : Option Trigger) => r.map fun (t : Trigger) => { t with owner := movedTo n t.owner }
    fireRequests := s.fireRequests.map fun (f : FireReq) => { f with owner := movedTo n f.owner }
    inFlight := s.inFlight.map fun (f : InFlight) => { f with owner := f.owner.map (movedTo n) }
    handed := s.handed.filter fun (r : Handed) => r.session != 5 }
  (s1.setReportQueue 5 ReportQueue.fresh).setSession 5 .free

/-- The numbers of channels, entries, triggers and subscriptions that a TAKEOVER moves (R141). -/
def State.takeoverReply (s : State) : List Byte :=
  u8 (s.channels.toList.countP fun r => r.owner == some 5) ++ u16 (s.entriesOwned 5) ++
    u8 (s.triggerList.countP fun x => x.2.owner == 5) ++
    u8 (s.channels.toList.countP fun r =>
      match r with
      | .input i => i.subscribers.contains 5
      | _ => false)

/-- The startup load is in flight: only it reads for session 5 (R140, R181). -/
def State.startupLoading (s : State) : Bool :=
  match s.store with
  | .reading _ n _ => n == some 5
  | _ => false

/-- TAKEOVER's rule, its conditions in the order of R140. -/
def serveTakeover : Service := fun n body s =>
  asOperator s n
    (if body ≠ [] then (s, refuse .malformed)
    else if s.session 5 = .free then (s, refuse .noLocal)
    else if s.startupLoading then (s, refuse .storeBusy)
    else if Config.quota < s.entriesOwned n + s.entriesOwned 5 then (s, refuse .quota)
    else (s.takeOver n, okWith s.takeoverReply))

/-- TAKEOVER (R140, R141). -/
def execTakeover (p : Port) (s : State) : Host.Outcome State Fault Refusal :=
  .next (s.takeRequest p 0x1A serveTakeover)

end Sys2Proof.Machine
end

