-- ==== Sys2Proof/Machine/Triggers.lean ====
section
/-!
DEFINITION. Machine/Triggers.lean: TRIGGER_SET, TRIGGER_CLEAR, TRIGGER_QUERY, TRIGGER_EDGE, FIRE_REQUEST,
HOLDOFF_END (R88 to R104).
-/

namespace Sys2Proof.Machine

/-! ### The table -/

/-- The effects of an accepted TRIGGER_SET by session `n` (R91). -/
def State.writeTrigger (s : State) (t n : Nat) (spec : TriggerSpec) : State :=
  s.setTrigger t (some ⟨n, spec, .ready, none⟩)

/-- Position `t` holds a record of a session other than `n`. -/
def State.foreignTrigger (s : State) (t n : Nat) : Bool := (s.trigger t).any fun r => r.owner != n

/-- TRIGGER_SET's rule, its conditions in the order of R90. -/
def serveTriggerSet : Service := fun n body s =>
  asOperator s n
    (match readTriggerSet body with
    | none => (s, refuse .malformed)
    | some (t, spec) =>
      match s.chan spec.source with
      | .input _ =>
        if s.foreignTrigger t n then (s, refuse .inUse) else (s.writeTrigger t n spec, okWith [])
      | _ => (s, refuse .notBound))

/-- TRIGGER_SET (R90, R91). -/
def execTriggerSet (p : Port) (s : State) : Host.Outcome State Fault Refusal :=
  .next (s.takeRequest p 0x30 serveTriggerSet)

/-- TRIGGER_CLEAR's rule, its conditions in the order of R92. -/
def serveTriggerClear (key : Bool) : Service := fun n body s =>
  asOperator s n
    (match readIndex 16 body with
    | none => (s, refuse .malformed)
    | some t =>
      match if s.foreignTrigger t n then foreignRefusal s n key else none with
      | some r => (s, refuse r)
      | none => (s.setTrigger t none, okWith (flag (s.trigger t).isSome)))

/-- TRIGGER_CLEAR (R92). -/
def execTriggerClear (p : Port) (key : Bool) (s : State) : Host.Outcome State Fault Refusal :=
  .next (s.takeRequest p 0x31 (serveTriggerClear key))

/-- The reply of TRIGGER_QUERY (R93): positions held in the whole table, records returned, and the records
from `first` on that fit. -/
def State.triggerReply (s : State) (first count : Nat) : List Byte :=
  let held := s.triggerList
  let records := ((held.filter fun x => first ≤ x.1).take count).map fun x => triggerRecord x.1 x.2
  let sent := takeFitting (Config.maxBody - 3) records
  u8 held.length ++ u8 sent.length ++ sent.flatten

/-- TRIGGER_QUERY's rule (R93). -/
def serveTriggerQuery : Service := fun _ body s =>
  match readTriggerQuery body with
  | none => (s, refuse .malformed)
  | some (first, count) => (s, okWith (s.triggerReply first count))

/-- TRIGGER_QUERY (R93). -/
def execTriggerQuery (p : Port) (s : State) : Host.Outcome State Fault Refusal :=
  .next (s.takeRequest p 0x32 serveTriggerQuery)

/-! ### From edge to firing -/

/-- The edge of a record matches the direction of an edge (R88). -/
def EdgeSel.accepts (e : EdgeSel) (rising : Bool) : Bool :=
  match e with
  | .rising => rising
  | .falling => !rising
  | .either => true

/-- The four conditions of R94 for a record whose source is the edge's channel. -/
def State.fires (s : State) (x : Edge) (r : Trigger) : Bool :=
  r.spec.source == x.channel && r.spec.edge.accepts x.rising && decide (r.state = .ready) &&
    (s.session r.owner).isOpen && !s.stopped

/-- The state of a record that fires on an edge of timestamp `t`, at `now` (R95, step 2). -/
def TriggerSpec.stateAfter (g : TriggerSpec) (t now : Nat) : TriggerState :=
  match g.mode with
  | .once => .spent
  | .every => if now < clampTime (t + g.holdoff) then .holdoff (clampTime (t + g.holdoff)) else .ready

/-- One record visited on an edge: it fires as R95 states, or ignores the edge (R94). -/
def State.visitTrigger (x : Edge) (s : State) (t : Nat) : State :=
  match s.trigger t with
  | none => s
  | some r =>
    if s.fires x r then
      let s1 := s.setTrigger t
        (some { r with state := r.spec.stateAfter x.t s.now, lastFire := some x.t })
      { s1 with
        fireRequests :=
          s1.fireRequests ++ [⟨t, r.owner, x.channel, x.rising, r.spec.tag, r.spec.mode, x.t⟩] }
    else s

/-- TRIGGER_EDGE: the Trigger Unit takes the oldest edge handed to it and visits the table in order (R94). No rule
orders two edges that are not yet taken, and the model takes the older first (DESIGN CHOICE, 51). An edge
on its way stays there when its channel is unbound, bound again or requalified, where R20 and R33 name no such edge and
R33 lets triggers see none while UNKNOWN: a record of that channel number may answer it (DESIGN CHOICE, 49). A record
answers every edge taken after it was written, as R91 says, also where it was set after a reset, of which R104 says that
it answers only edges whose qualification is taken after the record is written (DESIGN CHOICE, 50). -/
def execTriggerEdge (s : State) : Host.Outcome State Fault Refusal :=
  match s.edges with
  | [] => .next s
  | x :: xs => .next ((List.range 16).foldl (State.visitTrigger x) { s with edges := xs })

/-- The templates that a fire request selects, in template order (R96). -/
def State.templatesFor (s : State) (f : FireReq) : List Entry :=
  s.queue.filter fun e => e.owner == f.owner && e.act.tag == f.tag && e.phase.isTemplate

/-- The due time that an edge of timestamp `t` gives a template (R96, R97). -/
def Entry.dueFrom (e : Entry) (t : Nat) : Nat := clampTime (t + (e.phase.offset?).getD 0)

/-- A ONCE conversion in place (R96). -/
def State.convertTemplate (t : Nat) (s : State) (e : Entry) : State :=
  s.requeue { e with phase := .waitingTime (e.dueFrom t) }

/-- An EVERY copy, or its failure for want of room (R97). -/
def State.copyTemplate (t : Nat) (s : State) (e : Entry) : State :=
  if s.poolHasRoom && s.quotaHasRoom e.owner then
    s.admitEntry e.owner (.waitingTime (e.dueFrom t)) e.act (.trigger e.handle)
  else
    s.addReport e.owner s.now
      (.actionFailed
        ⟨e.handle, e.act.target, e.act.kind, e.dueFrom t, isLate (e.dueFrom t) s.now, 0⟩ .queueFull)

/-- The Schedule Engine takes a fire request (R96, R97, R99). The copies made are counted by the rise of the
queue. -/
def State.takeFireRequest (s : State) (f : FireReq) : State :=
  let selected := s.templatesFor f
  match f.mode with
  | .once =>
    (selected.foldl (State.convertTemplate f.t) s).addReport f.owner s.now
      (.triggerFired f.trigger f.source f.rising f.t selected.length 0)
  | .every =>
    let s1 := selected.foldl (State.copyTemplate f.t) s
    let made := s1.queue.length - s.queue.length
    s1.addReport f.owner s.now
      (.triggerFired f.trigger f.source f.rising f.t made (selected.length - made))

/-- FIRE_REQUEST: the Schedule Engine takes the oldest fire request (R95 to R99). R95 orders the fire requests of one
edge alone; those of an older edge come before those of a later one (DESIGN CHOICE, 51). -/
def execFireRequest (s : State) : Host.Outcome State Fault Refusal :=
  match s.fireRequests with
  | [] => .next s
  | f :: fs => .next ({ s with fireRequests := fs }.takeFireRequest f)

/-- HOLDOFF_END of trigger `t` (R100): once its holdoff end is reached, it is READY. -/
def execHoldoffEnd (t : Nat) (s : State) : Host.Outcome State Fault Refusal :=
  match s.trigger t with
  | none => .next s
  | some r =>
    match r.state with
    | .holdoff endsAt =>
      if s.reached endsAt then .next (s.setTrigger t (some { r with state := .ready })) else .next s
    | _ => .next s

end Sys2Proof.Machine
end

