-- ==== Sys2Proof/Machine/PlanLoading.lean ====
section
/-!
DEFINITION. Machine/PlanLoading.lean: PLAN_LOAD and READ_COMPLETION: the content check, the validation and
application of a plan, and the startup outcome (R176 to R182).
-/

namespace Sys2Proof.Machine

/-! ### The request -/

/-- PLAN_LOAD's rule, its conditions in the order of R176. -/
def servePlanLoad : Service := fun n body s =>
  asOperator s n
    (match readPlanLoad body with
    | none => (s, refuse .malformed)
    | some (k, start) =>
      if s.storeBusy then (s, refuse .storeBusy)
      else if (s.slot k).state ≠ .valid then (s, refuse .slotInvalid)
      else
        ({ s with store := .reading k (some n) start },
          okWith (u8 k ++ u32 (s.slot k).generation ++ u16 (s.slot k).size)))

/-- PLAN_LOAD (R176). -/
def execPlanLoad (p : Port) (s : State) : Host.Outcome State Fault Refusal :=
  .next (s.takeRequest p 0x4E servePlanLoad)

/-! ### Records -/

/-- The base time of a load that completes at `now` (R179). -/
def LoadStart.base (start : LoadStart) (now : Nat) : Nat :=
  match start with
  | .now => clampTime now
  | .after delay => clampTime (now + delay)
  | .atTime t => clampTime t

/-- A channel is bound identically to a record: direction, pin list in order and every option match (R178). -/
def Channel.identical (r : Channel) (spec : BindSpec) : Bool :=
  match r, spec with
  | .output o, .output g => decide (o.cfg = g)
  | .input i, .input pin interval qualify =>
    i.pin == pin && i.interval == interval && i.qualify == qualify
  | _, _ => false

/-- The first condition of R178 that a record fails against the state that the records before it leave: `none`
passes. Bytes that spell no record fail with MALFORMED (DESIGN CHOICE, 29). -/
def State.judgePlanRecord (s : State) (target : Nat) : PlanRecord → Option Result
  | .bind c spec =>
    if s.chan c = .unbound then
      if spec.pins.any (fun p => s.pin p != .isolated) then some .pinBusy else none
    else if (s.chan c).identical spec = false then some .alreadyBound
    else if (s.chan c).owner ≠ some target then some .notOwner
    else none
  | .interlock r =>
    match s.outputAt r.a, s.outputAt r.b with
    | some a, some b =>
      if bothOwned a b target = false then some .notOwner
      else if s.freeInterlock = none then some .tableFull
      else if pairSafe a b r.dead = false then some .interlockConflict
      else none
    | _, _ => some .notBound
  | .trigger t spec =>
    match s.inputAt spec.source with
    | none => some .notBound
    | some _ => if s.foreignTrigger t target then some .inUse else none
  | .action _ a =>
    match s.outputAt a.target with
    | none => some .notBound
    | some o =>
      if o.owner ≠ some target then some .notOwner
      else if s.guardBound a = false then some .notBound
      else s.roomRefusal target
  | .unreadable => some .malformed

/-- The drive request of a re-bind stands as an output at its safe level; an input gains the target as a
subscriber (R179). -/
def State.rebindChannel (s : State) (c target : Nat) : State :=
  match s.chan c with
  | .unbound => s
  | .output _ => s.driveSafe c
  | .input i => s.setChan c (.input { i with subscribers := addMember i.subscribers target })

/-- The effects of a BIND of a channel that is NONE (R179): those of R17 to R19, with the target as an input's
first subscriber. -/
def State.bindForLoad (s : State) (c target : Nat) (spec : BindSpec) : State :=
  match (s.bindChannel c target spec).chan c with
  | .input i => (s.bindChannel c target spec).setChan c (.input { i with subscribers := [target] })
  | _ => s.bindChannel c target spec

/-- The output channel is held when the target is LAPSED (R179). -/
def State.holdFor (s : State) (c target : Nat) : State :=
  if (s.session target).isLapsed then s.setHeld c true else s

/-- The effect of one record for the target (R179). -/
def State.applyPlanRecord (s : State) (target base : Nat) : PlanRecord → State
  | .bind c spec =>
    (if s.chan c = .unbound then s.bindForLoad c target spec else s.rebindChannel c target).holdFor c target
  | .interlock r =>
    match s.freeInterlock with
    | some i => s.setInterlock i (some r)
    | none => s
  | .trigger t spec => s.writeTrigger t target spec
  | .action form a => s.admitEntry target (form.phase base) a .load
  | .unreadable => s

/-- The records of a plan judged and applied in plan order (R178, R179): the state with all of them applied, or
the index and code of the first that fails, counted from `index`. -/
def State.runPlan (target base : Nat) : Nat → List PlanRecord → State → Except (Nat × Result) State
  | _, [], s => .ok s
  | index, r :: rs, s =>
    match s.judgePlanRecord target r with
    | some code => .error (index, code)
    | none => State.runPlan target base (index + 1) rs (s.applyPlanRecord target base r)

/-- The counts of records and the base time of LOAD_DONE (R180). -/
def loadCounts (plan : List PlanRecord) (base : Nat) : LoadCounts where
  binds := plan.countP fun r => match r with | .bind _ _ => true | _ => false
  interlocks := plan.countP fun r => match r with | .interlock _ => true | _ => false
  triggers := plan.countP fun r => match r with | .trigger _ _ => true | _ => false
  actions := plan.countP fun r => match r with | .action _ _ => true | _ => false
  base := base

/-! ### The completion event -/

/-- The startup outcome set at the end of the startup load, which alone has session 5 as its target (R181,
R182). A failed startup load ends the LOCAL session. -/
def State.settleStartup (s : State) (target : Nat) (outcome : StartupOutcome) (ends : Bool) : State :=
  if target = 5 then
    let s1 := { s with startup := outcome }
    if ends then s1.teardown 5 else s1
  else s

/-- Validation and application for the target, and the report of either (R178 to R180, R182). -/
def State.loadFor (s : State) (k target : Nat) (start : LoadStart) (plan : List PlanRecord) : State :=
  let base := start.base s.now
  match State.runPlan target base 0 plan s with
  | .ok s1 =>
    (s1.addReport target s.now (.loadDone k (loadCounts plan base))).settleStartup target
      (.loaded (loadCounts plan base)) false
  | .error (index, code) =>
    (s.addReport target s.now (.loadRecord k index code)).settleStartup target (.failed index code) true

/-- A failed content check: the slot is INVALID, and the target, if any, learns of it (R177, step 1). -/
def State.loadCorrupt (s : State) (k : Nat) (n : Option Nat) : State :=
  let s1 := (s.setSlot k (s.slot k).invalidated).reportTo n (.loadCorrupt k)
  match n with
  | none => s1
  | some target => s1.settleStartup target .corrupt true

/-- The completion event of a read of slot `k`, in the order of R177: the content check, the target, validation
and application. -/
def State.completeRead (s : State) (k : Nat) (n : Option Nat) (start : LoadStart) (bytes : List Byte) :
    State :=
  let s1 := { s with store := .idle }
  if (s.slot k).check ≠ some (crc32 bytes) then s1.loadCorrupt k n
  else
    match n with
    | none => s1
    | some target => s1.loadFor k target start (readPlan bytes.length bytes)

/-- READ_COMPLETION: the read of a load ends with the bytes read (R177 to R182). -/
def execReadCompletion (bytesRead : Option (List Byte)) (s : State) : Host.Outcome State Fault Refusal :=
  match s.store with
  | .reading k n start => .next (s.completeRead k n start (bytesRead.getD (s.slot k).contents))
  | _ => .next s

end Sys2Proof.Machine
end

