-- ==== Sys2Proof/Machine/Reports.lean ====
section
/-!
DEFINITION. Machine/Reports.lean: REPORT_ACK, REPORT_RESEND and REPORT_ADD (R143 to R151).
-/

namespace Sys2Proof.Machine

/-- The report sequence of the oldest record, or the next sequence of an empty queue (R149). -/
def ReportQueue.oldest (q : ReportQueue) : Nat :=
  match q.records with
  | [] => q.next
  | r :: _ => r.seq

/-- The distance d of an acknowledged sequence from the oldest, modulo 65536 (R149). -/
def ReportQueue.distance (q : ReportQueue) (a : Nat) : Nat := (a + 65536 - q.oldest) % 65536

/-- A queue without its `k` oldest records, all of them sent (R149). -/
def ReportQueue.drop (q : ReportQueue) (k : Nat) : ReportQueue :=
  { q with records := q.records.drop k, sent := q.sent - k }

/-- The fields of the reply to an accepted REPORT_ACK: removed, left, missed (R149). -/
def ackReply (removed : Nat) (q : ReportQueue) : List Byte :=
  u8 removed ++ u8 q.records.length ++ u8 q.missed

/-- REPORT_ACK's rule (R149). A BAD_ACK reply carries the oldest sequence in the queue; of an empty queue it carries the
next sequence, which R149 takes in its place for the judgement alone (DESIGN CHOICE, 52). -/
def serveReportAck : Service := fun n body s =>
  match readReportAck body with
  | none => (s, refuse .malformed)
  | some a =>
    let q := s.reportQueue n
    let d := q.distance a
    if d < q.sent then (s.setReportQueue n (q.drop (d + 1)), okWith (ackReply (d + 1) (q.drop (d + 1))))
    else if d ≤ 32767 then (s, ⟨.badAck, u16 q.oldest ++ u8 q.sent, true, false⟩)
    else (s, okWith (ackReply 0 q))

/-- REPORT_ACK (R149). -/
def execReportAck (p : Port) (s : State) : Host.Outcome State Fault Refusal :=
  .next (s.takeRequest p 0x40 serveReportAck)

/-- REPORT_RESEND's rule (R151). -/
def serveReportResend : Service := fun n body s =>
  if body = [] then
    (s.setReportQueue n { s.reportQueue n with sent := 0 }, okWith (u8 (s.reportQueue n).sent))
  else (s, refuse .malformed)

/-- REPORT_RESEND (R151). -/
def execReportResend (p : Port) (s : State) : Host.Outcome State Fault Refusal :=
  .next (s.takeRequest p 0x41 serveReportResend)

/-- REPORT_ADD: the Report Unit takes the oldest report handed to it in an event of its own (R32, R145). -/
def execReportAdd (s : State) : Host.Outcome State Fault Refusal :=
  match s.handed with
  | [] => .next s
  | r :: rs => .next ({ s with handed := rs }.addReport r.session r.time r.body)

end Sys2Proof.Machine
end

