-- ==== Sys2Proof/Machine/StopControl.lean ====
section
/-!
DEFINITION. Machine/StopControl.lean: HALT, RESUME, STOP_N_SAMPLE with the start-up gate and the beginning of
the startup load (R105 to R116, R181).
-/

namespace Sys2Proof.Machine

/-- The STOP_CHANGE report of an event, with the run state and the cause set as the event leaves them
(R115). -/
def State.stopReport (s : State) (change : StopChange) (byLine : Bool) (session : Nat)
    (firstSample : Option Nat) : ReportBody :=
  .stopChange
    ⟨change, byLine, s.stop.run, s.stop.line, s.stop.request, session, firstSample, s.stop.entryTime⟩

/-- The STOP_CHANGE reports of an event, one for each OPEN or LAPSED session (R115). -/
def State.reportStop (s : State) (change : StopChange) (byLine : Bool) (session : Nat)
    (firstSample : Option Nat) : State :=
  s.reportToAll s.now (s.stopReport change byLine session firstSample)

/-- Every bound output channel is driven to its safe level, in channel order (R109, step 2; 14). -/
def State.driveAllSafe (s : State) : State := channelNumbers.foldl State.driveSafe s

/-- A cause joins the cause set (R107, R108). -/
def StopControl.addCause (c : StopControl) (byLine : Bool) : StopControl :=
  if byLine then { c with line := true } else { c with request := true }

/-- An entry into STOPPED (R109): run state, entry time and cause, the safe-level drives, SAFE_N, the
reports. Every entry is withheld from then on, so the level changes not yet taken pass over them all (R57). -/
def State.enterStopped (s : State) (byLine : Bool) (session : Nat) (firstSample : Option Nat) : State :=
  let s1 := { s with
    stop := { s.stop.addCause byLine with run := .stopped, entryTime := some s.now } }
  let s2 := s1.passOver.driveAllSafe
  let s3 := { s2 with stop := { s2.stop with safeAsserted := true } }
  s3.reportStop .entered byLine session firstSample

/-- A cause joins the set of a part that is already STOPPED (R107, R108): no output is driven. -/
def State.addCause (s : State) (byLine : Bool) (session : Nat) (firstSample : Option Nat) : State :=
  { s with stop := s.stop.addCause byLine }.reportStop .causeAdded byLine session firstSample

/-- The run state and the cause set in a reply (R108). -/
def State.stopFields (s : State) : List Byte := u8 s.stop.run.code ++ causeSet s.stop.line s.stop.request

/-- The effect of an accepted HALT by session `n` (R108). -/
def State.haltBy (s : State) (n : Nat) : State :=
  if s.stop.run = .running then s.enterStopped false n none
  else if s.stop.request then s
  else s.addCause false n none

/-- HALT's rule (R108). -/
def serveHalt : Service := fun n body s =>
  if body = [] then (s.haltBy n, okWith (s.haltBy n).stopFields) else (s, refuse .malformed)

/-- HALT (R108, R109). -/
def execHalt (p : Port) (s : State) : Host.Outcome State Fault Refusal :=
  .next (s.takeRequest p 0x38 serveHalt)

/-- A RESUME accepted on a STOPPED part, its effects in the order of R112. -/
def State.resumeBy (s : State) (n : Nat) : State :=
  let s1 := { s with
    stop := { s.stop with request := false, run := .running, safeAsserted := false } }
  let s2 := s1.reportStop .resumed false n none
  s2.dispose fun m => (s2.session m).isOpen

/-- RESUME's rule, its conditions in the order of R112. -/
def serveResume : Service := fun n body s =>
  asOperator s n
    (if body ≠ [] then (s, refuse .malformed)
    else if s.stop.line then (s, refuse .stopLine)
    else if s.stop.run = .running then (s, okWith (u8 RunState.running.code ++ flag false))
    else (s.resumeBy n, okWith (u8 RunState.running.code ++ flag true)))

/-- RESUME (R112, R113). -/
def execResume (p : Port) (s : State) : Host.Outcome State Fault Refusal :=
  .next (s.takeRequest p 0x39 serveResume)

/-! ### STOP_N -/

/-- The sampled level equals the qualified level. -/
def StopLevel.equals (q : StopLevel) (asserted : Bool) : Bool :=
  match q with
  | .asserted => asserted
  | .released => !asserted
  | .unknown => false

/-- The candidate after a sample, before it is compared with 4 (R106). -/
def StopControl.count (c : StopControl) (asserted : Bool) (now : Nat) : Option StopCandidate :=
  if c.level.equals asserted then none
  else
    match c.candidate with
    | none => some ⟨asserted, 1, now⟩
    | some k => if k.asserted = asserted then some { k with count := k.count + 1 } else some ⟨asserted, 1, now⟩

/-- A line change (R107), taken with the new level already qualified. -/
def State.lineChange (s : State) (asserted : Bool) (first : Nat) : State :=
  if asserted then
    if s.stop.run = .running then s.enterStopped true 0 (some first) else s.addCause true 0 (some first)
  else
    { s with stop := { s.stop with line := false } }.reportStop .causeRemoved true 0 (some first)

/-- The startup load begins when slot 0 is VALID with autostart: the LOCAL session is created and the read of
slot 0 starts (R139, R181). -/
def State.beginStartup (s : State) : State :=
  if (s.slot 0).state = .valid ∧ (s.slot 0).autostart then
    { (s.setSession 5 .localSession).setReportQueue 5 ReportQueue.fresh with
      store := .reading 0 (some 5) .now }
  else s

/-- A qualified STOP_N level (R106, R107, R116, R181): the first one after a reset opens the gate, and is a
line change only when it is ASSERTED. -/
def State.qualifyStop (s : State) (k : StopCandidate) : State :=
  let firstTime := s.stop.level = .unknown
  let s1 := { s with
    stop :=
      { s.stop with
        level := if k.asserted then .asserted else .released
        candidate := none
        gateOpen := true } }
  let s2 := if firstTime ∧ k.asserted = false then s1 else s1.lineChange k.asserted k.first
  if firstTime then s2.beginStartup else s2

/-- One sample of STOP_N (R106). -/
def State.sampleStop (s : State) (asserted : Bool) : State :=
  let s1 := { s with stop := { s.stop with nextSample := s.elapsed + 1 } }
  match s.stop.count asserted s.now with
  | none => { s1 with stop := { s1.stop with candidate := none } }
  | some k =>
    if k.count < Config.stopQualify then { s1 with stop := { s1.stop with candidate := some k } }
    else s1.qualifyStop k

/-- STOP_N_SAMPLE (R106): one sample at each tick of the elapsed count, from the first tick after a reset. -/
def execStopNSample (asserted : Bool) (s : State) : Host.Outcome State Fault Refusal :=
  if s.stop.nextSample ≤ s.elapsed then .next (s.sampleStop asserted) else .next s

end Sys2Proof.Machine
end

