-- ==== Sys2Proof/Machine/Dispatch.lean ====
section
/-!
DEFINITION. Machine/Dispatch.lean: the meaning of every command, one arm for each row of
spec/opcode_table.json in the table's order.
-/

namespace Sys2Proof.Machine

/-- A command's effect on everything but the queue. -/
def exec (i : Instr) (s : State) : Host.Outcome State Fault Refusal :=
  match i with
  | .openSession p key => Sys2Proof.Machine.execOpenSession p key s
  | .identify p => Sys2Proof.Machine.execIdentify p s
  | .status p => Sys2Proof.Machine.execStatus p s
  | .close p => Sys2Proof.Machine.execClose p s
  | .keepalive p => Sys2Proof.Machine.execKeepalive p s
  | .timeGet p => Sys2Proof.Machine.execTimeGet p s
  | .timeSet p => Sys2Proof.Machine.execTimeSet p s
  | .timeTrim p key => Sys2Proof.Machine.execTimeTrim p key s
  | .bind p => Sys2Proof.Machine.execBind p s
  | .unbind p key => Sys2Proof.Machine.execUnbind p key s
  | .clearFault p key => Sys2Proof.Machine.execClearFault p key s
  | .requalify p => Sys2Proof.Machine.execRequalify p s
  | .channelQuery p => Sys2Proof.Machine.execChannelQuery p s
  | .subscribe p => Sys2Proof.Machine.execSubscribe p s
  | .unsubscribe p => Sys2Proof.Machine.execUnsubscribe p s
  | .claim p key => Sys2Proof.Machine.execClaim p key s
  | .release p => Sys2Proof.Machine.execRelease p s
  | .takeover p => Sys2Proof.Machine.execTakeover p s
  | .actionAdd p => Sys2Proof.Machine.execActionAdd p s
  | .actionCancel p key => Sys2Proof.Machine.execActionCancel p key s
  | .groupCancel p => Sys2Proof.Machine.execGroupCancel p s
  | .queueQuery p => Sys2Proof.Machine.execQueueQuery p s
  | .interlockSet p key => Sys2Proof.Machine.execInterlockSet p key s
  | .interlockClear p key => Sys2Proof.Machine.execInterlockClear p key s
  | .interlockQuery p => Sys2Proof.Machine.execInterlockQuery p s
  | .triggerSet p => Sys2Proof.Machine.execTriggerSet p s
  | .triggerClear p key => Sys2Proof.Machine.execTriggerClear p key s
  | .triggerQuery p => Sys2Proof.Machine.execTriggerQuery p s
  | .halt p => Sys2Proof.Machine.execHalt p s
  | .resume p => Sys2Proof.Machine.execResume p s
  | .reportAck p => Sys2Proof.Machine.execReportAck p s
  | .reportResend p => Sys2Proof.Machine.execReportResend p s
  | .planBegin p key => Sys2Proof.Machine.execPlanBegin p key s
  | .planPut p key => Sys2Proof.Machine.execPlanPut p key s
  | .planAbandon p key => Sys2Proof.Machine.execPlanAbandon p key s
  | .planCommit p key prot => Sys2Proof.Machine.execPlanCommit p key prot s
  | .planErase p key prot => Sys2Proof.Machine.execPlanErase p key prot s
  | .planList p => Sys2Proof.Machine.execPlanList p s
  | .planLoad p => Sys2Proof.Machine.execPlanLoad p s
  | .deviceReset p key => Sys2Proof.Machine.execDeviceReset p key s
  | .unknownRequestKind p => Sys2Proof.Machine.execUnknownRequestKind p s
  | .tick => Sys2Proof.Machine.execTick s
  | .trimWindowEnd => Sys2Proof.Machine.execTrimWindowEnd s
  | .entryDue => Sys2Proof.Machine.execEntryDue s
  | .actionDrive => Sys2Proof.Machine.execActionDrive s
  | .guardDeadline => Sys2Proof.Machine.execGuardDeadline s
  | .guardReevaluation => Sys2Proof.Machine.execGuardReevaluation s
  | .pulseRelease c => Sys2Proof.Machine.execPulseRelease c s
  | .settleEnd c wires => Sys2Proof.Machine.execSettleEnd c wires s
  | .inputSample c level => Sys2Proof.Machine.execInputSample c level s
  | .triggerEdge => Sys2Proof.Machine.execTriggerEdge s
  | .fireRequest => Sys2Proof.Machine.execFireRequest s
  | .holdoffEnd t => Sys2Proof.Machine.execHoldoffEnd t s
  | .stopNSample asserted => Sys2Proof.Machine.execStopNSample asserted s
  | .keepaliveExpiry n => Sys2Proof.Machine.execKeepaliveExpiry n s
  | .graceExpiry n => Sys2Proof.Machine.execGraceExpiry n s
  | .reportAdd => Sys2Proof.Machine.execReportAdd s
  | .erasePhaseEnd => Sys2Proof.Machine.execErasePhaseEnd s
  | .programmingPhaseEnd readBack => Sys2Proof.Machine.execProgrammingPhaseEnd readBack s
  | .eraseEnd => Sys2Proof.Machine.execEraseEnd s
  | .readCompletion bytesRead => Sys2Proof.Machine.execReadCompletion bytesRead s
  | .supplyChange level => Sys2Proof.Machine.execSupplyChange level s
  | .hardReset baud1 baud0 supply found => Sys2Proof.Machine.execHardReset baud1 baud0 supply found s
  | .portAFrame bytes => Sys2Proof.Machine.execPortAFrame bytes s
  | .portAGapTimeout => Sys2Proof.Machine.execPortAGapTimeout s
  | .portATransmit => Sys2Proof.Machine.execPortATransmit s
  | .portAFrameSent => Sys2Proof.Machine.execPortAFrameSent s
  | .deviceResetTimeout => Sys2Proof.Machine.execDeviceResetTimeout s
  | .write bytes cut => Sys2Proof.Machine.execWrite bytes cut s
  | .level clocked => Sys2Proof.Machine.execLevel clocked s
  | .read => Sys2Proof.Machine.execRead s
  | .readEnd clocked before => Sys2Proof.Machine.execReadEnd clocked before s
  | .unknownSpiCommand command clocked => Sys2Proof.Machine.execUnknownSpiCommand command clocked s

end Sys2Proof.Machine
end

