-- ==== Sys2Proof/Safety.lean ====
section
/-!
DEFINITION. Safety.lean: what counts as a safe state of the part, one predicate for each law that the manual
says is kept (R14, R39, R42, R84, R110, R118, R145, R165 and their like), and the words in which the statements
speak of a request (received in sequence, answered, of which kind and class), of an occurrence and the overdue
disposition, of the bytes of bodies and plan records, and of a plan's records.
-/

namespace Sys2Proof.Machine

/-! ### Laws of the state -/

/-- Device time and the trims stay in their ranges, and the window position in its window (R2, R9, R10). -/
def Timebase.lawful (t : Timebase) : Prop :=
  t.device ≤ Config.maxTime ∧ t.position ≤ t.windowTicks ∧ 1 ≤ t.trim.window ∧ t.trim.value.natAbs ≤ 127 ∧
    ∀ r, t.pendingTrim = some r → 1 ≤ r.window ∧ r.value.natAbs ≤ 127

/-- The run state, the cause set, the qualified level, the gate and SAFE_N agree (R105 to R107, R114, R116). -/
def StopControl.lawful (c : StopControl) : Prop :=
  c.safeAsserted = decide (c.run = .stopped) ∧
    (c.run = .running → c.line = false ∧ c.request = false) ∧
    (c.line = true ↔ c.level = .asserted) ∧
    (c.gateOpen = true ↔ c.level ≠ .unknown) ∧
    (c.run = .stopped → c.entryTime.isSome = true) ∧
    ∀ k, c.candidate = some k →
      1 ≤ k.count ∧ k.count < Config.stopQualify ∧ c.level.equals k.asserted = false

/-- The pin records and the channel records agree (R14, R22): a pin is DRIVING for exactly the output that lists
it, presenting what its level asks, and SENSING for exactly the input that has it. -/
def State.pinsAgree (s : State) : Prop :=
  (∀ p c x, s.pin p = .driving c x ↔
      ∃ o, s.outputAt c = some o ∧ p ∈ o.cfg.pins ∧ x = o.cfg.presents o.level) ∧
    (∀ p c, s.pin p = .sensing c ↔ ∃ i, s.inputAt c = some i ∧ i.pin = p) ∧
    ∀ c o, s.outputAt c = some o → 1 ≤ o.cfg.pins.length ∧ o.cfg.pins.length ≤ 3 ∧ o.cfg.pins.Nodup

/-- A FAULTED output, and every output while the part is STOPPED, is at its safe level with no release time
(R23, R26, R110). -/
def State.outputsRest (s : State) : Prop :=
  ∀ c o, s.outputAt c = some o → o.isFaulted = true ∨ s.stop.run = .stopped →
    o.level = o.cfg.safe ∧ o.release = none

/-- A pair that an interlock record joins: two bound outputs, not both ACTIVE, not both ACTIVE as their safe
levels, and with dead time 0 when one of the safe levels is ACTIVE (R74, R76, R84). -/
def State.pairKept (s : State) (r : Interlock) : Prop :=
  r.a ≠ r.b ∧
    ∃ a b, s.outputAt r.a = some a ∧ s.outputAt r.b = some b ∧
      ¬(a.level = .active ∧ b.level = .active) ∧
      ¬(a.cfg.safe = .active ∧ b.cfg.safe = .active) ∧
      (a.cfg.safe = .active ∨ b.cfg.safe = .active → r.dead = 0)

/-- Every interlocked pair is kept (R84), with what keeps it. -/
def State.pairsKept (s : State) : Prop := s.outputsRest ∧ ∀ i r, s.interlock i = some r → s.pairKept r

/-- No last-off time lies in the future (R6, R21). -/
def State.lastOffPast (s : State) : Prop := ∀ c o t, s.outputAt c = some o → o.lastOff = some t → t ≤ s.now

/-- The queue stands in queue order, within its limits, with distinct handles from 1 to 65535 and distinct
admission numbers already given (R40 to R42). -/
def State.queueLawful (s : State) : Prop :=
  s.queue.Pairwise (fun a b => a.before b = true) ∧
    (s.queue.map Entry.adm).Nodup ∧ (∀ e ∈ s.queue, e.adm < s.nextAdmission) ∧
    (s.queue.map Entry.handle).Nodup ∧ (∀ e ∈ s.queue, 1 ≤ e.handle ∧ e.handle ≤ 65535) ∧
    1 ≤ s.handleCounter ∧ s.handleCounter ≤ 65535 ∧
    s.queue.length ≤ Config.queueCapacity ∧ ∀ n, s.entriesOwned n ≤ Config.quota

/-- Every entry belongs to a live session, targets a bound output of that session, and is guarded by a bound
input if at all (R39). -/
def State.entryLawful (s : State) (e : Entry) : Prop :=
  (s.session e.owner).live = true ∧ (∃ o, s.outputAt e.act.target = some o ∧ o.owner = some e.owner) ∧
    ∀ g, e.act.grd = some g → (s.inputAt g.channel).isSome = true

/-- Entries, triggers, channels, subscriptions, the build and the store operation belong to live sessions, and
name what is bound; LOCAL has no store operation but the startup load (R34, R39, R88, R133, R162, R165, R181). -/
def State.ownershipLawful (s : State) : Prop :=
  (∀ e ∈ s.queue, s.entryLawful e) ∧
    (∀ t r, s.trigger t = some r →
      (s.session r.owner).live = true ∧ (s.inputAt r.spec.source).isSome = true) ∧
    (∀ c m, (s.chan c).owner = some m → (s.session m).live = true) ∧
    (∀ c i m, s.inputAt c = some i → m ∈ i.subscribers → (s.session m).live = true) ∧
    (∀ b, s.build = some b → (s.session b.owner).live = true ∧ s.classOf b.owner = .service) ∧
    (∀ m, s.store.session? = some m → (s.session m).live = true) ∧
    (s.store.session? = some 5 → ∃ k start, s.store = .reading k (some 5) start)

/-- A report queue within its limits, its records numbered without a gap up to the next sequence, the sent ones
among them (R143 to R146). -/
def ReportQueue.lawful (q : ReportQueue) : Prop :=
  q.records.length ≤ Config.reportCapacity ∧ q.sent ≤ Config.reportWindow ∧ q.sent ≤ q.records.length ∧
    q.missed ≤ 255 ∧ q.next < 65536 ∧
    ∀ i r, q.records[i]? = some r → (r.seq + (q.records.length - i)) % 65536 = q.next ∧ r.missed ≤ 255

/-- Every report queue is lawful, that of a FREE session is empty, and of LOCAL's nothing is sent (R143,
R148). -/
def State.reportsLawful (s : State) : Prop :=
  (∀ n, (s.reportQueue n).lawful) ∧ (∀ n, s.session n = .free → s.reportQueue n = ReportQueue.fresh) ∧
    (s.reportQueue 5).sent = 0

/-- Host sessions take the numbers 1 to 4 and LOCAL the number 5, at most one session has class SERVICE, a client
tag names one session of a port, and the fields are in range (R117 to R120, R139). -/
def State.sessionsLawful (s : State) : Prop :=
  (∀ n h, s.session n = .host h → 1 ≤ n ∧ n ≤ 4 ∧ 1000 ≤ h.interval ∧ h.interval ≤ 600000 ∧
      h.expected < 256) ∧
    (∀ n, s.session n = .localSession → n = 5) ∧
    (∀ n m h g, s.session n = .host h → s.session m = .host g → h.cls = .service → g.cls = .service →
      n = m) ∧
    ∀ n m h g, s.session n = .host h → s.session m = .host g → h.port = g.port → h.tag = g.tag → n = m

/-- The slot that a store operation writes is in the operation's phase, the slot it reads is VALID, and no slot
is ERASING or PROGRAMMING otherwise (R165). -/
def State.storeAgrees (s : State) (k : Nat) : Prop :=
  match s.store with
  | .idle => (s.slot k).state ≠ .erasing ∧ (s.slot k).state ≠ .programming
  | .reading j _ _ =>
    (s.slot k).state ≠ .erasing ∧ (s.slot k).state ≠ .programming ∧ (k = j → (s.slot k).state = .valid)
  | .commitErasing j _ _ => ((s.slot k).state = .erasing ↔ k = j) ∧ (s.slot k).state ≠ .programming
  | .commitProgramming j _ _ => ((s.slot k).state = .programming ↔ k = j) ∧ (s.slot k).state ≠ .erasing
  | .erasing j _ =>
    ((s.slot k).state = .erasing ↔ k = j) ∧ (s.slot k).state ≠ .programming ∧
      (k = j → (s.slot k).name = none ∧ (s.slot k).autostart = false ∧ (s.slot k).size = 0)

/-- A VALID slot holds exactly the bytes its check was computed over, no other slot has a check, and an EMPTY
slot has no name, no size and no autostart (R158, R159). -/
def Slot.lawful (r : Slot) : Prop :=
  (r.state = .valid → r.check = some (crc32 r.contents)) ∧ (r.state ≠ .valid → r.check = none) ∧
    (r.state = .empty → r.name = none ∧ r.autostart = false ∧ r.size = 0) ∧ r.generation < 4294967296

/-- The Plan Store keeps its law (R158, R159, R165). -/
def State.storeLawful (s : State) : Prop := ∀ k, k < 8 → s.storeAgrees k ∧ (s.slot k).lawful

/-- No store operation is in flight and no DEVICE_RESET is accepted while STOP_N has not qualified; none is in flight
once a DEVICE_RESET is accepted; and a frame marked as its reply is on its way only then (R116, R175, R190). -/
def State.resetLawful (s : State) : Prop :=
  (s.stop.level = .unknown → s.store = .idle ∧ s.deviceReset = none) ∧
    (s.deviceReset.isSome = true → s.store = .idle) ∧
    ∀ f : OutFrame, f.resets = true →
      f ∈ s.linkA.replies ∨ f ∈ s.linkB.replies ∨ s.sendingA = some f ∨ s.offered = some f →
      s.deviceReset.isSome = true

/-- The FIFOs and reply queues hold four frames at most, the counts stay in 16 bits, and the last-served session
is one of 1 to 4 (R183, R184, R186, R187, R189). -/
def Link.lawful (l : Link) : Prop :=
  l.fifo.length ≤ Config.fifoCapacity ∧ l.replies.length ≤ Config.replyCapacity ∧ l.errors ≤ 65535 ∧
    l.overflows ≤ 65535 ∧ 1 ≤ l.lastServed ∧ l.lastServed ≤ 4

/-! ### Requests as the statements speak of them -/

/-- The port and the request code of a command that takes a request; none for the other commands (R193). -/
def requestOf : Instr → Option (Port × Byte)
  | .openSession p _ => some (p, 0x01)
  | .identify p => some (p, 0x02)
  | .status p => some (p, 0x03)
  | .close p => some (p, 0x04)
  | .keepalive p => some (p, 0x05)
  | .timeGet p => some (p, 0x08)
  | .timeSet p => some (p, 0x09)
  | .timeTrim p _ => some (p, 0x0A)
  | .bind p => some (p, 0x10)
  | .unbind p _ => some (p, 0x11)
  | .clearFault p _ => some (p, 0x12)
  | .requalify p => some (p, 0x13)
  | .channelQuery p => some (p, 0x14)
  | .subscribe p => some (p, 0x15)
  | .unsubscribe p => some (p, 0x16)
  | .claim p _ => some (p, 0x18)
  | .release p => some (p, 0x19)
  | .takeover p => some (p, 0x1A)
  | .actionAdd p => some (p, 0x20)
  | .actionCancel p _ => some (p, 0x21)
  | .groupCancel p => some (p, 0x22)
  | .queueQuery p => some (p, 0x23)
  | .interlockSet p _ => some (p, 0x28)
  | .interlockClear p _ => some (p, 0x29)
  | .interlockQuery p => some (p, 0x2A)
  | .triggerSet p => some (p, 0x30)
  | .triggerClear p _ => some (p, 0x31)
  | .triggerQuery p => some (p, 0x32)
  | .halt p => some (p, 0x38)
  | .resume p => some (p, 0x39)
  | .reportAck p => some (p, 0x40)
  | .reportResend p => some (p, 0x41)
  | .planBegin p _ => some (p, 0x48)
  | .planPut p _ => some (p, 0x49)
  | .planAbandon p _ => some (p, 0x4A)
  | .planCommit p _ _ => some (p, 0x4B)
  | .planErase p _ _ => some (p, 0x4C)
  | .planList p => some (p, 0x4D)
  | .planLoad p => some (p, 0x4E)
  | .deviceReset p _ => some (p, 0x50)
  | _ => none

/-- The requests of least class OPERATOR (R121). -/
def needsOperator : Instr → Bool
  | .timeSet _ | .bind _ | .unbind _ _ | .clearFault _ _ | .requalify _ | .claim _ _ | .release _
  | .takeover _ | .actionAdd _ | .actionCancel _ _ | .groupCancel _ | .interlockSet _ _ | .triggerSet _
  | .triggerClear _ _ | .resume _ | .planLoad _ => true
  | _ => false

/-- The requests of class SERVICE (R121). -/
def needsService : Instr → Bool
  | .timeTrim _ _ | .interlockClear _ _ | .planBegin _ _ | .planPut _ _ | .planAbandon _ _
  | .planCommit _ _ _ | .planErase _ _ _ | .deviceReset _ _ => true
  | _ => false

/-- The handler of port `p` may take the frame `f` of kind `code`, the oldest of its FIFO with `rest` behind it,
and the frame belongs to the OPEN host session `n` with record `h` (R122, R186). -/
def State.hears (s : State) (p : Port) (n : Nat) (h : HostSession) (f : Frame) (rest : List Frame)
    (code : Byte) : Prop :=
  s.canTake p = true ∧ (s.link p).fifo = f :: rest ∧ f.kind = code ∧ f.ses.toNat = n ∧
    s.session n = .host h ∧ h.port = p ∧ ∃ d, h.life = .opened d

/-- The same, and the frame is in sequence (R123). -/
def State.receives (s : State) (p : Port) (n : Nat) (h : HostSession) (f : Frame) (rest : List Frame)
    (code : Byte) : Prop :=
  s.hears p n h f rest code ∧ f.seq.toNat = h.expected

/-- The state that the rule of a request meets: the frame is taken and the deadline restarted (R125, R186). -/
def State.arrived (s : State) (p : Port) (n : Nat) (h : HostSession) (rest : List Frame) : State :=
  (s.setSession n (.host { h with life := .opened (s.elapsed + h.interval) })).setLink p
    { s.link p with fifo := rest }

/-- The state once a frame for session `n` has been taken and answered with `reply`: the frame has left the FIFO,
the reply stands last in the reply queue, and the keepalive deadline is restarted (R125, R186). -/
def State.heard (s : State) (p : Port) (n : Nat) (h : HostSession) (rest : List Frame) (reply : Frame) :
    State :=
  (s.setSession n (.host { h with life := .opened (s.elapsed + h.interval) })).setLink p
    { s.link p with fifo := rest, replies := (s.link p).replies ++ [⟨reply, false⟩] }

/-- The state once a request in sequence has been answered with `code` and `fields`: as when heard, and the
expected sequence is one further and the reply cached (R123). -/
def State.answered (s : State) (p : Port) (n : Nat) (h : HostSession) (f : Frame) (rest : List Frame)
    (code : Result) (fields : List Byte) : State :=
  (s.setSession n
      (.host
        { h with
          life := .opened (s.elapsed + h.interval)
          expected := (h.expected + 1) % 256
          last := some (f.seq.toNat, replyFrame f code fields) })).setLink p
    { s.link p with
      fifo := rest
      replies := (s.link p).replies ++ [⟨replyFrame f code fields, false⟩] }

/-! ### Drives and endings as the statements speak of them -/

/-- An output that is not FAULTED after a drive request for level `l` without a release time (R21). -/
def Output.drivenTo (o : Output) (l : Level) (now elapsed : Nat) : Output :=
  { o with
    level := l
    lastOff := if o.level = .active ∧ l = .inactive then some now else o.lastOff
    release := none
    condition := .settling (elapsed + o.cfg.settle) }

/-- Channel `c` is the partner of an output that `who` selects, that is not FAULTED and whose safe level is ACTIVE:
driving that one to its safe level breaks `c` (R85). -/
def State.brokenBy (s : State) (who : Output → Prop) (c : Nat) : Prop :=
  ∃ i r x ox, s.interlock i = some r ∧ (r.a = x ∧ r.b = c ∨ r.a = c ∧ r.b = x) ∧ s.outputAt x = some ox ∧
    who ox ∧ ox.isFaulted = false ∧ ox.cfg.safe = .active

/-- The channels of `t` are those of `s` after one drive request for the safe level of every output that `who`
selects, in whatever order: a FAULTED one is left as it stands (R23), any other is driven as R21 states, and of the
rest only ACTIVE partners of outputs with the safe level ACTIVE are driven, to INACTIVE (R85). -/
def State.restsWhere (s : State) (who : Output → Prop) (t : State) : Prop :=
  (∀ c, s.outputAt c = none → t.chan c = s.chan c) ∧
    ∀ c o, s.outputAt c = some o →
      (who o → o.isFaulted = false → t.outputAt c = some (o.drivenTo o.cfg.safe s.now s.elapsed)) ∧
      (who o → o.isFaulted = true → t.outputAt c = some o) ∧
      (¬who o → s.brokenBy who c → o.level = .active →
        t.outputAt c = some (o.drivenTo .inactive s.now s.elapsed)) ∧
      (¬who o → ¬(s.brokenBy who c ∧ o.level = .active) → t.outputAt c = some o)

/-- `t` is `s` after the teardown of session `n` (R131): its entries, triggers and fire requests are gone, its
outputs have been driven to their safe levels, its channels are unowned and not held, it subscribes to nothing, its
build and reports are discarded, its store operation goes on for no session, and its record is FREE. -/
def State.endedWith (s : State) (n : Nat) (t : State) : Prop :=
  t.queue = s.queue.filter (fun e => e.owner != n) ∧
    (∀ i, t.trigger i = (s.trigger i).filter fun r => r.owner != n) ∧
    t.fireRequests = s.fireRequests.filter (fun f => f.owner != n) ∧
    t.inFlight = s.inFlight.map (fun f => if f.owner = some n then { f with owner := none } else f) ∧
    t.build = s.build.filter (fun b => b.owner != n) ∧
    t.store = (if s.store.session? = some n then s.store.withSession none else s.store) ∧
    t.handed = s.handed.filter (fun r => r.session != n) ∧
    t.session n = .free ∧ (∀ m, m ≠ n → t.session m = s.session m) ∧
    t.reportQueue n = ⟨[], 0, 0, 0⟩ ∧ (∀ m, m ≠ n → t.reportQueue m = s.reportQueue m) ∧
    (∃ u, s.restsWhere (fun o => o.owner = some n) u ∧ ∀ c, t.chan c = (match u.chan c with
      | .unbound => .unbound
      | .output o => if o.owner = some n then .output { o with owner := none, held := false } else .output o
      | .input i => .input
          { i with
            owner := if i.owner = some n then none else i.owner
            subscribers := i.subscribers.filter fun m => m != n })) ∧
    t = { s with
      queue := t.queue, triggers := t.triggers, fireRequests := t.fireRequests, inFlight := t.inFlight,
      build := t.build, store := t.store, handed := t.handed, sessions := t.sessions, reports := t.reports,
      channels := t.channels, pins := t.pins }

/-- The Schedule Engine attends to `e` next: the part is RUNNING, no drive request is on its way, the owner is OPEN,
the key time is reached, and no entry before it in the queue is reached with an OPEN owner (R53, R54, R58). -/
def State.attendsTo (s : State) (e : Entry) : Prop :=
  s.inFlight = none ∧ s.stop.run = .running ∧ (s.session e.owner).isOpen = true ∧
    (∃ k, e.phase.key? = some k ∧ k ≤ s.now) ∧
    ∃ before after, s.queue = before ++ e :: after ∧
      ∀ x ∈ before, ∀ k, x.phase.key? = some k → k ≤ s.now → (s.session x.owner).isOpen = false

/-- The record does not block channel `x` from becoming ACTIVE: it does not name `x`, or the partner is INACTIVE and
its dead time has passed (R80, R83). -/
def State.clearOf (s : State) (x : Nat) (r : Interlock) : Prop :=
  ∀ y, r.a = x ∧ r.b = y ∨ r.b = x ∧ r.a = y →
    ∃ o, s.outputAt y = some o ∧ o.level = .inactive ∧ ∀ k, o.lastOff = some k → k + r.dead ≤ s.now

/-- The end of the occurrence with admission number `adm`, by `ends`, on state `t`; an entry that has left the queue
meanwhile has none (R49). -/
def State.endingOf (t : State) (adm : Nat) (ends : State → Entry → State) : State :=
  match t.queue.find? fun e => e.adm == adm with
  | some e => ends t e
  | none => t

/-- An output once the drive request of an occurrence is taken (R21). -/
def Output.takes (o : Output) (f : InFlight) (now elapsed : Nat) : Output :=
  { o with
    level := f.level
    lastOff := if o.level = .active ∧ f.level = .inactive then some now else o.lastOff
    release := f.release
    condition := .settling (elapsed + o.cfg.settle) }

/-! ### Occurrences and the overdue disposition as the statements speak of them -/

/-- The guard's channel is a bound input whose qualified level is the one the guard asks for (R55). -/
def State.meets (s : State) (g : Guard) : Prop :=
  ∃ i, s.inputAt g.channel = some i ∧ i.level = (match g.level with
    | .high => .high
    | .low => .low)

/-- A level change not yet taken has the entries re-evaluated that it names, that are in WAITING_GUARD on its channel
and that are not withheld; `ls'` are the changes of `ls` that have one, each with the numbers of those alone, so that
none is stored for a withheld entry (R54, R57). -/
def State.changesStand (s : State) (ls ls' : List LevelChange) : Prop :=
  ∃ stands : LevelChange → Nat → Bool,
    (∀ l m, stands l m = true ↔ s.stop.run = .running ∧
      ∃ e g, e ∈ s.queue ∧ e.adm = m ∧ e.phase.isWaitingGuard = true ∧ e.act.grd = some g ∧ g.channel = l.channel ∧
        (s.session e.owner).isOpen = true) ∧
      ls' = (ls.map fun l => { l with waiting := l.waiting.filter (stands l) }).filter fun l => l.waiting ≠ []

/-- `t` is `s` after steps 3 to 5 of the firing sequence for `e` at the present device time (R59 to R61, R80, R81);
`hand` is what becomes of the drive, should it come to one, given the target, the level and the release time. -/
def State.goesOnTo (s : State) (e : Entry) (hand : Output → Level → Option Nat → State) (t : State) : Prop :=
  ∀ (o : Output) (l : Level) (rel : Option Nat), s.outputAt e.act.target = some o →
    l = (match e.act.kind with
      | .clear => .inactive
      | .toggle => if o.level = .active then .inactive else .active
      | _ => .active) →
    rel = (match e.act.kind with
      | .pulse w => some (min (s.now + w) (2 ^ 48 - 1))
      | _ => none) →
    (o.isFaulted = true → (l = o.cfg.safe → rel = none → t = hand o l none) ∧
      (l ≠ o.cfg.safe ∨ rel.isSome = true → t = s.failOccurrence e .channelFaulted s.now)) ∧
    (o.isFaulted = false →
      (¬(o.level = .inactive ∧ l = .active) ∨ (∀ i r, s.interlock i = some r → s.clearOf e.act.target r) →
        t = hand o l rel) ∧
      ∀ i r y oy, o.level = .inactive → l = .active → s.interlock i = some r → r.a ≠ r.b →
        (∀ j r', j < i → s.interlock j = some r' → s.clearOf e.act.target r') →
        (r.a = e.act.target ∧ r.b = y ∨ r.b = e.act.target ∧ r.a = y) → s.outputAt y = some oy →
        (oy.level = .active → r.mode = .refuse ∨ oy.owner ≠ some e.owner ∨ oy.isFaulted = true →
          t = s.failOccurrence e .interlocked s.now) ∧
        (oy.level = .active → r.mode = .breakFirst → oy.owner = some e.owner → oy.isFaulted = false →
          t = ((s.setChan y (.output (oy.drivenTo .inactive s.now s.elapsed))).setPins oy.cfg.pins
            (.driving y (oy.cfg.presents .inactive))).rephase e
              (.deferred e.due (min (s.now + r.dead) (2 ^ 48 - 1)))) ∧
        ∀ k, oy.level = .inactive → oy.lastOff = some k → s.now < k + r.dead →
          t = s.rephase e (.deferred e.due (min (k + r.dead) (2 ^ 48 - 1))))

/-- The state once the drive request is on its way to the Channel Matrix (R62). -/
def State.handsOver (s : State) (e : Entry) (l : Level) (rel : Option Nat) : State :=
  { s with inFlight := some ⟨e.adm, some e.owner, e.act.target, l, rel, s.now⟩ }

/-- The state once the drive is taken within the event and the occurrence has succeeded (R21, R23, R62); a target of
another owner, a held one and a STOPPED part return the entry as it stands (R110, R134). -/
def State.drivesNow (s : State) (e : Entry) (o : Output) (l : Level) (rel : Option Nat) : State :=
  if o.owner ≠ some e.owner ∨ o.held = true ∨ s.stop.run = .stopped then s
  else if o.isFaulted = true then s.succeed e s.now
  else
    ((s.setChan e.act.target
      (.output (o.takes ⟨e.adm, some e.owner, e.act.target, l, rel, s.now⟩ s.now s.elapsed))).setPins o.cfg.pins
        (.driving e.act.target (o.cfg.presents l))).succeed e s.now

/-- No occurrence follows the present one (R67). -/
def Entry.isLast (e : Entry) : Prop :=
  e.act.rep = none ∨ (∃ k, e.act.rep = some ⟨k, some 0⟩) ∨
    ∃ k m, e.act.rep = some ⟨k, m⟩ ∧ 2 ^ 48 - 1 < e.due + k

/-- `t` is `s` after `e` has expired (R71): ACTION_EXPIRED goes to the owner; the entry leaves the queue, or stands
there anew, with a new admission number and no skipped count, at the first of the occurrences that is not earlier than
now. -/
def State.expiresTo (s : State) (e : Entry) (t : State) : Prop :=
  ∃ (skipped : Nat) (remains : Bool) (anew : List Entry),
    t = { s with queue := t.queue, nextAdmission := s.nextAdmission + anew.length, reports := t.reports } ∧
    (∀ m, t.reportQueue m = (s.addReport e.owner s.now
      (.actionExpired e.handle e.act.target e.act.kind e.due skipped remains)).reportQueue m) ∧
    t.queue.Perm (anew ++ s.queue.filter fun x => x.adm != e.adm) ∧
    (e.isLast → anew = [] ∧ skipped = e.skipped ∧ remains = false) ∧
    ∀ k m, ¬e.isLast → e.act.rep = some ⟨k, m⟩ →
      (match advance (e.due + k) (m.map fun j => j - 1) k s.now e.skipped with
      | .queued due left n => skipped = n ∧ remains = true ∧ anew = [{ e with
          adm := s.nextAdmission, phase := .waitingTime due, skipped := 0
          act := { e.act with rep := some ⟨k, left⟩ } }]
      | .ended _ n => skipped = n ∧ remains = false ∧ anew = [])

/-- `t` is `s` after `e` is taken through the firing sequence at the present device time with its drive in the same
event (R70). -/
def State.carriesTo (s : State) (e : Entry) (t : State) : Prop :=
  ((∀ g, e.act.grd = some g → s.meets g) → s.goesOnTo e (s.drivesNow e) t) ∧
    ∀ g, e.act.grd = some g → ¬s.meets g →
      (g.mode = .skip → t = s.failOccurrence e .guardFalse s.now) ∧
      ∀ k, g.mode = .wait k → t = s.rephase e (.waitingGuard e.due (min (s.now + k) (2 ^ 48 - 1)))

/-- `t` is `s` after the overdue disposition has settled `e` (R69 to R72). -/
def State.settlesTo (s : State) (e : Entry) (t : State) : Prop :=
  match e.phase with
  | .template _ => t = s
  | .waitingGuard _ deadline =>
    (deadline < s.now → t = s.failOccurrence e .guardTimeout s.now) ∧
      (s.now ≤ deadline → ∀ g, e.act.grd = some g →
        (s.meets g → s.goesOnTo e (s.drivesNow e) t) ∧ (¬s.meets g → t = s))
  | .waitingTime key | .deferred _ key =>
    (s.now ≤ key → t = s) ∧
      (key < s.now → (e.act.carry = false → s.expiresTo e t) ∧ (e.act.carry = true → s.carriesTo e t))

/-- `t` is `s` after the disposition has visited the entries of these admission numbers, one after another, each
settled before the next (R69). An entry whose drive request is on its way is passed over (9). -/
def State.visitsTo : List Nat → State → State → Prop
  | [], s, t => t = s
  | m :: ms, s, t => ∃ u,
    ((∀ e ∈ s.queue, e.adm ≠ m) ∧ u = s ∨
      ∃ e ∈ s.queue, e.adm = m ∧
        ((∃ d, s.inFlight = some d ∧ d.adm = m) ∧ u = s ∨
          (∀ d, s.inFlight = some d → d.adm ≠ m) ∧ s.settlesTo e u)) ∧
    State.visitsTo ms u t

/-! ### The layouts of bodies and plan records as the statements speak of them -/

/-- The three places of a pin list hold these pins in their order; 0xFF is an unused place, wherever it stands
(R192, 23). -/
def placedIn (pins : List Nat) (places : List Byte) : Prop :=
  places.length = 3 ∧ pins = (places.map BitVec.toNat).filter fun q => q != 255

/-- The options of an output are in range (R17), and `settle`, of which 0 stands for 50, gives its settle time. -/
def OutConfig.inRange (g : OutConfig) (settle : Nat) : Prop :=
  1 ≤ g.pins.length ∧ g.pins.length ≤ 3 ∧ g.pins.Nodup ∧ (∀ q ∈ g.pins, q < 24) ∧ settle ≤ 2000 ∧
    g.settle = if settle = 0 then 50 else settle

/-- The options of an input are in range (R17). -/
def inputInRange (pin interval qualify : Nat) : Prop :=
  pin < 24 ∧ 1 ≤ interval ∧ interval ≤ 250 ∧ 2 ≤ qualify ∧ qualify ≤ 16

/-- The bytes of a BIND body, in range: channel, direction, three pin places and the direction's options
(R17, R192). -/
def BindSpec.bodyFor (spec : BindSpec) (c : Nat) (body : List Byte) : Prop :=
  c ≤ 31 ∧ ∃ places, placedIn spec.pins places ∧
    (match spec with
    | .output g => ∃ settle, g.inRange settle ∧
      body = [BitVec.ofNat 8 c, 1] ++ places ++
        [if g.polarity = .activeHigh then 0 else 1, if g.drive = .pushPull then 0 else 1,
          if g.safe = .active then 0 else 1] ++ leBytes 2 settle
    | .input pin interval qualify => inputInRange pin interval qualify ∧
      body = [BitVec.ofNat 8 c, 2] ++ places ++ [BitVec.ofNat 8 interval, BitVec.ofNat 8 qualify])

/-- The repeat part: period of 10 or more, count with 0 for UNBOUNDED, two bytes that are not judged; no bytes
without a repeat (R43, R193). -/
def repeatPart (rep : Option Repetition) (part : List Byte) : Prop :=
  match rep with
  | none => part = []
  | some r => 10 ≤ r.period ∧ r.period < 2 ^ 32 ∧ ∃ count unused, count < 65536 ∧ unused.length = 2 ∧
    r.remaining = (if count = 0 then none else some count) ∧ part = leBytes 4 r.period ++ leBytes 2 count ++ unused

/-- The guard part: channel, required level, mode, a byte that is not judged, wait limit, which is 0 exactly for SKIP,
and another such byte; no bytes without a guard (R44, R193). -/
def guardPart (grd : Option Guard) (part : List Byte) : Prop :=
  match grd with
  | none => part = []
  | some g => g.channel ≤ 31 ∧ ∃ (mode : Byte) (limit : Nat) (u v : Byte), limit < 2 ^ 24 ∧
    (match g.mode with
    | .skip => mode = 0 ∧ limit = 0
    | .wait k => mode = 1 ∧ limit = k ∧ 1 ≤ k) ∧
    part = [BitVec.ofNat 8 g.channel, if g.level = .high then 0 else 1, mode, u] ++ leBytes 3 limit ++ [v]

/-- The bytes of an action in range: an ACTION_ADD body, or an ACTION record, which holds no absolute due time.
The 16 base bytes are kind byte, flags, target, kind, tag, width and the time, and the repeat part and the guard part
follow them. Flag bits that no form uses and the bytes behind the time are not judged (R43, R44, R192, R193). -/
def Action.bytesFor (a : Action) (request : Bool) (form : ActionForm) (bytes : List Byte) : Prop :=
  ∃ (flags : Byte) (code width : Nat) (time unused rep grd : List Byte),
    bytes = [0x40 + (if a.rep.isSome then 1 else 0) + (if a.grd.isSome then 2 else 0), flags,
        BitVec.ofNat 8 a.target, BitVec.ofNat 8 code, BitVec.ofNat 8 a.tag] ++ leBytes 3 width ++ time ++ unused ++
      rep ++ grd ∧
    a.target ≤ 31 ∧ a.tag < 256 ∧ flags.getLsbD 1 = a.report ∧ flags.getLsbD 2 = a.carry ∧
    (match a.kind with
    | .set => code = 0 ∧ width = 0
    | .clear => code = 1 ∧ width = 0
    | .toggle => code = 2 ∧ width = 0
    | .pulse w => code = 3 ∧ width = w ∧ 1 ≤ w ∧ w < 2 ^ 24) ∧
    time.length + unused.length = 8 ∧
    (match form with
    | .absolute due => request = true ∧ flags.getLsbD 0 = false ∧ flags.getLsbD 3 = false ∧ due < 2 ^ 48 ∧
      time = leBytes 6 due
    | .relative ticks => flags.getLsbD 0 = false ∧ (request = true → flags.getLsbD 3 = true) ∧ ticks < 2 ^ 32 ∧
      time = leBytes 4 ticks
    | .armed offset => flags.getLsbD 0 = true ∧ a.tag ≠ 0 ∧ offset < 2 ^ 32 ∧ time = leBytes 4 offset) ∧
    repeatPart a.rep rep ∧ guardPart a.grd grd ∧
    (a.rep.isSome = true → ∀ g k, a.grd = some g → g.mode ≠ .wait k)

/-- The bytes of a PLAN_BEGIN body: slot, name behind its length, autostart flag (R162, R192). -/
def planBeginBody (k : Nat) (name : List Byte) (auto : Bool) (body : List Byte) : Prop :=
  k ≤ 7 ∧ 1 ≤ name.length ∧ name.length ≤ 16 ∧ (∀ b ∈ name, 0x20 ≤ b.toNat ∧ b.toNat ≤ 0x7E) ∧
    body = [BitVec.ofNat 8 k, BitVec.ofNat 8 name.length] ++ name ++ [if auto then 1 else 0]

/-- The bytes of a plan record in range (R161, R193). Bits and bytes that R193 gives no use are not judged. -/
def PlanRecord.recordBytes : PlanRecord → List Byte → Prop
  | .bind c spec, bytes => c ≤ 31 ∧ ∃ (opts : Byte) (places : List Byte), placedIn spec.pins places ∧
    (match spec with
    | .output g => opts.getLsbD 0 = false ∧ (opts.getLsbD 1 = true ↔ g.polarity = .activeLow) ∧
      (opts.getLsbD 2 = true ↔ g.drive = .openDrain) ∧ (opts.getLsbD 3 = true ↔ g.safe = .active) ∧
      ∃ settle, g.inRange settle ∧
        bytes = [0x10, BitVec.ofNat 8 c, opts] ++ places ++ leBytes 2 settle
    | .input pin interval qualify => opts.getLsbD 0 = true ∧ inputInRange pin interval qualify ∧
      bytes = [0x10, BitVec.ofNat 8 c, opts] ++ places ++ [BitVec.ofNat 8 interval, BitVec.ofNat 8 qualify])
  | .interlock r, bytes => r.a ≤ 31 ∧ r.b ≤ 31 ∧ r.a ≠ r.b ∧ r.dead < 65536 ∧ ∃ unused, unused.length = 2 ∧
    bytes = [0x20, BitVec.ofNat 8 r.a, BitVec.ofNat 8 r.b, if r.mode = .refuse then 0 else 1] ++
      leBytes 2 r.dead ++ unused
  | .trigger k g, bytes => k ≤ 15 ∧ g.source ≤ 31 ∧ 1 ≤ g.tag ∧ g.tag < 256 ∧ g.holdoff < 2 ^ 24 ∧
    ∃ unused, unused.length = 3 ∧
      bytes = [0x30, BitVec.ofNat 8 k, BitVec.ofNat 8 g.source,
          (match g.edge with
          | .rising => 0
          | .falling => 1
          | .either => 2), BitVec.ofNat 8 g.tag, if g.mode = .once then 0 else 1] ++
        leBytes 3 g.holdoff ++ unused
  | .action form a, bytes => a.bytesFor false form bytes
  | .unreadable, _ => False

/-! ### Handles, records and plans as the statements speak of them -/

/-- `k` is the first handle, counting from `counter` upward and from 65535 round to 1, that is not in use (R41). -/
def firstFree (used : List Nat) (counter k : Nat) : Prop :=
  ∃ j, k = (counter - 1 + j) % 65535 + 1 ∧ k ∉ used ∧ ∀ i, i < j → (counter - 1 + i) % 65535 + 1 ∈ used

/-- `sent` is the longest run of records from the front that fits in `room` bytes (R192). -/
def fitsFirst (room : Nat) (records sent : List (List Byte)) : Prop :=
  ∃ rest, records = sent ++ rest ∧ (sent.map List.length).sum ≤ room ∧
    ∀ r, rest.head? = some r → room < (sent.map List.length).sum + r.length

/-- The bit of value `v` in a presence field (R192). -/
def presentBit {α : Type} (o : Option α) (v : Nat) : Nat := if o.isSome then v else 0

/-- Channel `c` is bound as the record asks: direction, pin list in order and every option match (R178). -/
def State.boundAs (s : State) (c : Nat) : BindSpec → Prop
  | .output g => ∃ o, s.outputAt c = some o ∧ o.cfg = g
  | .input pin interval qualify =>
    ∃ i, s.inputAt c = some i ∧ i.pin = pin ∧ i.interval = interval ∧ i.qualify = qualify

/-- The table of R178 for one record of a plan for `target`, row by row: `answer` is the result code of the first
condition that fails, and none when all hold. -/
def State.recordJudged (s : State) (target : Nat) (x : PlanRecord) (answer : Option Result) : Prop :=
  match x with
  | .bind c spec =>
    (s.chan c = .unbound →
      ((∀ q ∈ spec.pins, s.pin q = .isolated) → answer = none) ∧
      ((∃ q ∈ spec.pins, s.pin q ≠ .isolated) → answer = some .pinBusy)) ∧
    (s.chan c ≠ .unbound →
      (¬s.boundAs c spec → answer = some .alreadyBound) ∧
      (s.boundAs c spec →
        ((s.chan c).owner ≠ some target → answer = some .notOwner) ∧
        ((s.chan c).owner = some target → answer = none)))
  | .interlock r =>
    (s.outputAt r.a = none ∨ s.outputAt r.b = none → answer = some .notBound) ∧
    ∀ a b, s.outputAt r.a = some a → s.outputAt r.b = some b →
      (a.owner ≠ some target ∨ b.owner ≠ some target → answer = some .notOwner) ∧
      (a.owner = some target → b.owner = some target →
        ((∀ i, i < 12 → s.interlock i ≠ none) → answer = some .tableFull) ∧
        ∀ i, i < 12 → s.interlock i = none →
          (¬(a.level = .active ∧ b.level = .active) ∧ ¬(a.cfg.safe = .active ∧ b.cfg.safe = .active) ∧
              (a.cfg.safe = .active ∨ b.cfg.safe = .active → r.dead = 0) → answer = none) ∧
          (a.level = .active ∧ b.level = .active ∨ a.cfg.safe = .active ∧ b.cfg.safe = .active ∨
              (a.cfg.safe = .active ∨ b.cfg.safe = .active) ∧ r.dead ≠ 0 → answer = some .interlockConflict))
  | .trigger k g =>
    (s.inputAt g.source = none → answer = some .notBound) ∧
    ((s.inputAt g.source).isSome = true →
      ((∃ r, s.trigger k = some r ∧ r.owner ≠ target) → answer = some .inUse) ∧
      ((∀ r, s.trigger k = some r → r.owner = target) → answer = none))
  | .action _ a =>
    (s.outputAt a.target = none → answer = some .notBound) ∧
    ∀ o, s.outputAt a.target = some o →
      (o.owner ≠ some target → answer = some .notOwner) ∧
      (o.owner = some target →
        ((∃ g, a.grd = some g ∧ s.inputAt g.channel = none) → answer = some .notBound) ∧
        ((∀ g, a.grd = some g → (s.inputAt g.channel).isSome = true) →
          (512 ≤ s.queue.length → answer = some .queueFull) ∧
          (s.queue.length < 512 → 384 ≤ s.entriesOwned target → answer = some .quota) ∧
          (s.queue.length < 512 → s.entriesOwned target < 384 → answer = none)))
  | .unreadable => answer = some .malformed

/-- `t` is `s` after the record that has passed is applied for `target` with the base time `base`, kind by kind
(R179). -/
def State.recordApplied (s : State) (target base : Nat) (x : PlanRecord) (t : State) : Prop :=
  match x with
  | .bind c spec =>
    (s.chan c = .unbound → t = (match spec with
      | .output g =>
        (s.setChan c (.output ⟨g, some target, g.safe, .settling (s.elapsed + g.settle),
          (s.session target).isLapsed, none, none⟩)).setPins g.pins (.driving c (g.presents g.safe))
      | .input pin interval qualify =>
        (s.setChan c (.input ⟨pin, interval, qualify, some target, .unknown, none, none, [target],
          s.elapsed + interval⟩)).setPins [pin] (.sensing c))) ∧
    (∀ i, s.inputAt c = some i → ∃ ms, (∀ m, m ∈ ms ↔ m = target ∨ m ∈ i.subscribers) ∧
      t = s.setChan c (.input { i with subscribers := ms })) ∧
    ∀ o, s.outputAt c = some o → t = { s with channels := t.channels, pins := t.pins } ∧
      (o.isFaulted = true →
        t = s.setChan c (.output { o with held := o.held || (s.session target).isLapsed })) ∧
      (o.isFaulted = false →
        t.outputAt c = some { o.drivenTo o.cfg.safe s.now s.elapsed with
          held := o.held || (s.session target).isLapsed } ∧
        (∀ q ∈ o.cfg.pins, q < 24 → t.pin q = .driving c (o.cfg.presents o.cfg.safe)) ∧
        (∀ d, d ≠ c → s.outputAt d = none → t.chan d = s.chan d) ∧
        ∀ d od, d ≠ c → s.outputAt d = some od → ∀ broken : Prop,
          (broken ↔ o.cfg.safe = .active ∧ o.level = .inactive ∧ od.level = .active ∧ od.isFaulted = false ∧
            ∃ i r, s.interlock i = some r ∧ (r.a = c ∧ r.b = d ∨ r.a = d ∧ r.b = c)) →
          (broken → t.outputAt d = some (od.drivenTo .inactive s.now s.elapsed)) ∧
          (¬broken → t.outputAt d = some od))
  | .interlock r =>
    ∃ i, i < 12 ∧ s.interlock i = none ∧ (∀ j, j < i → s.interlock j ≠ none) ∧ t = s.setInterlock i (some r)
  | .trigger k g => t = s.setTrigger k (some ⟨target, g, .ready, none⟩)
  | .action form a =>
    ∃ (k : Nat) (ph : Phase),
      ph = (match form with
        | .absolute due => .waitingTime due
        | .relative ticks => .waitingTime (min (base + ticks) (2 ^ 48 - 1))
        | .armed offset => .template offset) ∧
      t = { s with
        queue := t.queue, handleCounter := t.handleCounter, nextAdmission := s.nextAdmission + 1 } ∧
      t.queue.Perm (⟨k, target, s.nextAdmission, ph, a, .load, 0⟩ :: s.queue) ∧
      (1 ≤ s.handleCounter → s.handleCounter ≤ 65535 →
        firstFree (s.queue.map Entry.handle) s.handleCounter k ∧ t.handleCounter = k % 65535 + 1)
  | .unreadable => t = s

/-- The plan is judged and applied record by record, from index `i` on (R178, R179): `out` is the state with all of
it applied, or the index and the result code of the first record that fails. -/
def State.planRuns (target base : Nat) :
    Nat → List PlanRecord → State → Except (Nat × Result) State → Prop
  | _, [], s, out => out = .ok s
  | i, x :: xs, s, out => ∃ answer, s.recordJudged target x answer ∧
    (match answer with
    | some code => out = .error (i, code)
    | none => ∃ t, s.recordApplied target base x t ∧ State.planRuns target base (i + 1) xs t out)

/-- The records of one kind of a plan. -/
def PlanRecord.kindCode : PlanRecord → Nat
  | .bind _ _ => 0x10
  | .interlock _ => 0x20
  | .trigger _ _ => 0x30
  | .action _ _ => 0x40
  | .unreadable => 0

end Sys2Proof.Machine
end

