-- ==== Sys2Proof/Certificates/Slice0/Obligations.lean ====
section
/-!
DEFINITION. Certificates/Slice0/Obligations.lean: the statements for the provers. `hears`, `receives`, `heard`
and `answered` are Safety.lean's words for a request at the handler: a statement of the form
`exec c s = .next (… (s.answered …))` says everything the request changes, for all else is the state before it.
That a request command takes the frame at the head of its port's FIFO is the model's choice in every such statement
(log entry 5), and so is the clause that a command whose event cannot occur changes nothing (log entry 2).
-/

open Sys2Proof Sys2Proof.Machine

/-! ### The machine -/

/-- A step takes the command at the front of the queue and runs it on the state with the queue's rest, and an empty
queue changes nothing: the model's own rule (log entry 1). -/
def Obligations.StepRunsFrontCommand : Prop :=
  (∀ (c : Instr) (rest : List Instr) (s : State), s.pending = c :: rest →
      step s = exec c { s with pending := rest }) ∧
    ∀ s : State, s.pending = [] → step s = .next s

/-- Whatever the command and the state, the part answers a next state; no command touches the queue of commands; and
only TICK advances the elapsed count, by one, while HARD_RESET alone sets it, to 0 (R1). That no command refuses is
the model's choice (log entry 2). -/
def Obligations.EveryCommandAnswers : Prop :=
  ∀ (c : Instr) (s : State), ∃ t, exec c s = .next t ∧ t.pending = s.pending ∧
    (c = .tick → t.elapsed = s.elapsed + 1) ∧ (∀ a b l x, c = .hardReset a b l x → t.elapsed = 0) ∧
    (c ≠ .tick → (∀ a b l x, c ≠ .hardReset a b l x) → t.elapsed = s.elapsed)

/-- While the start-up gate is closed, a DEVICE_RESET is accepted or four replies wait, no request is taken (R116,
R186). That the command then changes nothing is the model's choice (log entry 2). -/
def Obligations.HandlerWaits : Prop :=
  ∀ (c : Instr) (p : Port) (code : Byte) (s : State), requestOf c = some (p, code) ∨ c = .unknownRequestKind p →
    s.stop.gateOpen = false ∨ s.deviceReset.isSome = true ∨ 4 ≤ (s.link p).replies.length →
    exec c s = .next s

/-- A frame that names no live session of its port is refused with NO_SESSION, whatever its request, and nothing
else happens (R122). -/
def Obligations.UnroutedFrameRefused : Prop :=
  ∀ (c : Instr) (p : Port) (code : Byte) (s : State) (f : Frame) (rest : List Frame),
    requestOf c = some (p, code) → s.canTake p = true → (s.link p).fifo = f :: rest → f.kind = code →
    (f.ses = 0 → code ≠ 0x01 ∧ code ≠ 0x02 ∧ code ≠ 0x03) →
    (∀ h, s.session f.ses.toNat = .host h → h.port ≠ p) →
    exec c s = .next (s.setLink p
      { s.link p with
        fifo := rest
        replies := (s.link p).replies ++ [⟨⟨f.ses, f.seq, f.kind + 0x80, [0x03]⟩, false⟩] })

/-- A frame out of sequence is not executed: the last sequence is answered from the cache, any other with
SEQUENCE and the expected number, and the keepalive deadline is restarted (R123, R125). -/
def Obligations.OutOfSequenceNotExecuted : Prop :=
  ∀ (c : Instr) (p : Port) (code : Byte) (s : State) (n : Nat) (h : HostSession) (f : Frame)
    (rest : List Frame), requestOf c = some (p, code) → s.hears p n h f rest code →
    f.seq.toNat ≠ h.expected →
    (∀ q r, h.last = some (q, r) → q = f.seq.toNat → exec c s = .next (s.heard p n h rest r)) ∧
      ((∀ q r, h.last = some (q, r) → q ≠ f.seq.toNat) →
        exec c s = .next (s.heard p n h rest
          ⟨f.ses, f.seq, f.kind + 0x80, [0x04, BitVec.ofNat 8 h.expected]⟩))

/-- A request below its least class is refused with NOT_PERMITTED and has no effect; a SERVICE request is so
without the key too, when its own rule judges the key first (R121). -/
def Obligations.ClassJudgedFirst : Prop :=
  ∀ (c : Instr) (p : Port) (code : Byte) (s : State) (n : Nat) (h : HostSession) (f : Frame)
    (rest : List Frame), requestOf c = some (p, code) → s.receives p n h f rest code →
    (needsOperator c = true ∧ h.cls = .observer ∨ needsService c = true ∧ h.cls ≠ .service ∨
      c ∈ [.timeTrim p false, .interlockClear p false, .planBegin p false, .deviceReset p false,
        .planErase p false true, .planErase p false false]) →
    exec c s = .next (s.answered p n h f rest .notPermitted [])

/-! ### Requests that change nothing but the bookkeeping of their own session -/

/-- Queries in sequence reply OK with the fields of their rules as they stand and change nothing else: KEEPALIVE,
TIME_GET, INTERLOCK_QUERY, PLAN_LIST, IDENTIFY and STATUS with an empty body; CHANNEL_QUERY, TRIGGER_QUERY and
QUEUE_QUERY for every first number and count in range; and IDENTIFY and STATUS with session 0, without a sequence
check and with no session touched. A reply holds its counts and then the records it asks for, in order, as many from
the front as fit: the interlock and trigger positions held, the channels from the first number on, the entries of the
filter's session from the first position on, the eight slots before the store operation, the supply and the build.
STATUS holds what R193 lists, and IDENTIFY the vendor code, the part code, the revision and the capacities of R188
in their order (R4, R35, R52, R79, R93, R125, R173, R188, R192, R193). Model's choices: the bytes of
records and counts (log entries 16 to 20, 22, 39, 43, 44). -/
def Obligations.QueriesReply : Prop :=
  (∀ (s : State) (p : Port) (n : Nat) (h : HostSession) (f : Frame) (rest : List Frame), f.body = [] →
    (s.receives p n h f rest 0x05 → exec (.keepalive p) s = .next (s.answered p n h f rest .ok [])) ∧
    (s.receives p n h f rest 0x08 → exec (.timeGet p) s = .next (s.answered p n h f rest .ok
      (leBytes 6 s.time.device ++ [if s.time.valid then 1 else 0] ++
        [BitVec.ofInt 8 s.time.trim.value] ++ leBytes 2 s.time.trim.window ++
        match s.time.pendingTrim with
        | some r => [1] ++ [BitVec.ofInt 8 r.value] ++ leBytes 2 r.window
        | none => [0, 0, 0, 0]))) ∧
    (s.receives p n h f rest 0x2A →
      exec (.interlockQuery p) s = .next (s.answered p n h f rest .ok s.interlockReply)) ∧
    (s.receives p n h f rest 0x4D →
      exec (.planList p) s = .next (s.answered p n h f rest .ok s.planListReply)) ∧
    (s.receives p n h f rest 0x02 →
      exec (.identify p) s = .next (s.answered p n h f rest .ok identifyBytes)) ∧
    (s.receives p n h f rest 0x03 →
      exec (.status p) s = .next (s.answered p n h f rest .ok s.statusBytes))) ∧
  (∀ (s : State) (p : Port) (n : Nat) (h : HostSession) (f : Frame) (rest : List Frame)
    (first count filter : Nat),
    (s.receives p n h f rest 0x14 → first ≤ 31 → 1 ≤ count → count ≤ 32 →
      f.body = [BitVec.ofNat 8 first, BitVec.ofNat 8 count] →
      exec (.channelQuery p) s = .next (s.answered p n h f rest .ok (s.channelReply first count))) ∧
    (s.receives p n h f rest 0x32 → first ≤ 15 → 1 ≤ count → count ≤ 16 →
      f.body = [BitVec.ofNat 8 first, BitVec.ofNat 8 count] →
      exec (.triggerQuery p) s = .next (s.answered p n h f rest .ok (s.triggerReply first count))) ∧
    (s.receives p n h f rest 0x23 → first ≤ 511 → 1 ≤ count → count ≤ 512 → filter ≤ 5 →
      f.body = leBytes 2 first ++ leBytes 2 count ++ [BitVec.ofNat 8 filter] →
      exec (.queueQuery p) s = .next (s.answered p n h f rest .ok (s.queueReply first count filter)))) ∧
  (∀ (s : State) (p : Port) (f : Frame) (rest : List Frame), s.canTake p = true →
    (s.link p).fifo = f :: rest → f.ses = 0 → f.body = [] →
    (f.kind = 0x02 → exec (.identify p) s = .next (s.setLink p
      { s.link p with
        fifo := rest
        replies := (s.link p).replies ++ [⟨⟨0, f.seq, 0x82, 0x00 :: identifyBytes⟩, false⟩] })) ∧
    (f.kind = 0x03 → exec (.status p) s = .next (s.setLink p
      { s.link p with
        fifo := rest
        replies := (s.link p).replies ++ [⟨⟨0, f.seq, 0x83, 0x00 :: s.statusBytes⟩, false⟩] }))) ∧
  (∀ s : State,
    (∀ rs, rs = ((List.range 12).filterMap fun i => (s.interlock i).map (interlockRecord i)) →
      s.interlockReply = BitVec.ofNat 8 rs.length :: rs.flatten) ∧
    (∀ first count : Nat, ∃ sent,
      fitsFirst 246 ((((List.range 32).drop first).take count).map fun c => channelRecord c (s.chan c)) sent ∧
      s.channelReply first count = BitVec.ofNat 8 sent.length :: sent.flatten) ∧
    (∀ (first count : Nat) (held : List Nat), held = ((List.range 16).filter fun i => (s.trigger i).isSome) →
      ∃ sent, fitsFirst 245 (((held.filter fun i => decide (first ≤ i)).take count).filterMap fun i =>
          (s.trigger i).map (triggerRecord i)) sent ∧
        s.triggerReply first count =
          BitVec.ofNat 8 held.length :: BitVec.ofNat 8 sent.length :: sent.flatten) ∧
    (∀ (first count filter : Nat) (passing : List Entry),
      passing = (s.queue.filter fun e => decide (filter = 0 ∨ e.owner = filter)) →
      ∃ sent, fitsFirst 231 (((passing.drop first).take count).map entryRecord) sent ∧
        s.queueReply first count filter = leBytes 2 s.queue.length ++ leBytes 2 (s.entriesOwned 1) ++
          leBytes 2 (s.entriesOwned 2) ++ leBytes 2 (s.entriesOwned 3) ++ leBytes 2 (s.entriesOwned 4) ++
          leBytes 2 (s.entriesOwned 5) ++ leBytes 2 passing.length ++ leBytes 2 sent.length ++ sent.flatten) ∧
    (∀ last, last = storeRecord s.store ++ [if s.supply = .low then 1 else 0] ++ buildRecord s.build →
      ∃ sent, fitsFirst (247 - last.length) ((List.range 8).map fun k => slotRecord k (s.slot k)) sent ∧
        s.planListReply = sent.flatten ++ last) ∧
    s.statusBytes =
      [if s.stop.run = .stopped then 1 else 0,
        BitVec.ofNat 8 ((if s.stop.line then 1 else 0) + if s.stop.request then 2 else 0)] ++
      (match s.stop.entryTime with
        | some t => 1 :: leBytes 6 t
        | none => [0]) ++
      leBytes 6 s.time.device ++ [if s.time.valid then 1 else 0] ++
      (match s.store with
        | .idle => [0, 0xFF, 0xFF, 0xFF]
        | .reading k m _ => [1, BitVec.ofNat 8 k, 2, BitVec.ofNat 8 (m.getD 0xFF)]
        | .commitErasing k m _ => [2, BitVec.ofNat 8 k, 0, BitVec.ofNat 8 (m.getD 0xFF)]
        | .commitProgramming k m _ => [3, BitVec.ofNat 8 k, 0, BitVec.ofNat 8 (m.getD 0xFF)]
        | .erasing k m => [2, BitVec.ofNat 8 k, 1, BitVec.ofNat 8 (m.getD 0xFF)]) ++
      [if s.supply = .low then 1 else 0] ++
      (match s.startup with
        | .nothing => [0]
        | .loaded n => 1 :: (leBytes 2 n.binds ++ leBytes 2 n.interlocks ++ leBytes 2 n.triggers ++
            leBytes 2 n.actions ++ leBytes 6 n.base)
        | .failed i code => 2 :: (leBytes 2 i ++ [code.code])
        | .corrupt => [3]) ++
      ([1, 2, 3, 4, 5].map fun n => match s.session n with
        | .free => [0, 0xFF, 0xFF]
        | .host h =>
          [match h.life with
            | .opened _ => 1
            | .lapsed _ => 2, if h.port = .b then 1 else 0, BitVec.ofNat 8 h.cls.code]
        | .localSession => [1, 0xFF, 1]).flatten ++
      leBytes 2 s.queue.length ++ leBytes 2 s.linkA.errors ++ leBytes 2 s.linkA.overflows ++
      leBytes 2 s.linkB.errors ++ leBytes 2 s.linkB.overflows) ∧
  identifyBytes = leBytes 2 0x3C71 ++ leBytes 2 0x0A18 ++ [1, 24, 32] ++ leBytes 2 512 ++ leBytes 2 384 ++
    [4, 12, 16, 32, 8, 4, 4, 248, 8]

/-- The records that replies hold, byte by byte: length, then the presence field, then the fields in the order of
their rule, an optional one present exactly as its bit says, for channels (unbound, output, input), queue entries,
triggers, slots, the store operation and the build; an interlock record has neither. Numbers go low byte first, pin
lists take three places, a set of sessions one bit each, and an enumerated value its place in its rule's list. No reply
that returns records exceeds a body of 248 bytes, the result code included (R15, R37, R74, R79, R88, R93, R117, R158,
R165, R173, R192). Model's choices: which bytes those are (log entries 16 to 19, 22, 39, 43, 44). -/
def Obligations.RecordRepliesFit : Prop :=
  (∀ (s : State) (first count filter : Nat),
    (s.channelReply first count).length + 1 ≤ 248 ∧ (s.triggerReply first count).length + 1 ≤ 248 ∧
      (s.queueReply first count filter).length + 1 ≤ 248 ∧ s.planListReply.length + 1 ≤ 248 ∧
      s.interlockReply.length + 1 ≤ 248) ∧
  (∀ w n : Nat, leBytes 0 n = [] ∧ leBytes (w + 1) n = BitVec.ofNat 8 n :: leBytes w (n / 256) ∧
    u8 n = [BitVec.ofNat 8 n]) ∧
  (∀ x y z : Nat, pinPlaces [x] = [BitVec.ofNat 8 x, 0xFF, 0xFF] ∧
    pinPlaces [x, y] = [BitVec.ofNat 8 x, BitVec.ofNat 8 y, 0xFF] ∧
    pinPlaces [x, y, z] = [BitVec.ofNat 8 x, BitVec.ofNat 8 y, BitVec.ofNat 8 z]) ∧
  (∀ ms : List Nat, ∃ b : Byte, sessionSet ms = [b] ∧ b.toNat < 32 ∧
    ∀ n, 1 ≤ n → n ≤ 5 → b.getLsbD (n - 1) = ms.contains n) ∧
  (∀ (k : Nat) (ps : List Nat),
    [Polarity.activeHigh, .activeLow].map Polarity.code = [0, 1] ∧
    [Drive.pushPull, .openDrain].map Drive.code = [0, 1] ∧ [Level.active, .inactive].map Level.code = [0, 1] ∧
    [Condition.ready, .settling k, .faulted ps].map Condition.code = [0, 1, 2] ∧
    [PinLevel.high, .low].map pinLevelCode = [0, 1] ∧
    [QLevel.high, .low, .unknown].map QLevel.code = [0, 1, 2] ∧
    [EntryState.waitingTime, .waitingGuard, .deferred, .template].map EntryState.code = [0, 1, 2, 3] ∧
    [ActionKind.set, .clear, .toggle, .pulse k].map ActionKind.code = [0, 1, 2, 3] ∧
    [InterlockMode.refuse, .breakFirst].map InterlockMode.code = [0, 1] ∧
    [EdgeSel.rising, .falling, .either].map EdgeSel.code = [0, 1, 2] ∧
    [TriggerMode.once, .every].map TriggerMode.code = [0, 1] ∧
    [TriggerState.ready, .holdoff k, .spent].map TriggerState.code = [0, 1, 2] ∧
    [SessionClass.observer, .operator, .service].map SessionClass.code = [0, 1, 2] ∧
    [SlotState.empty, .valid, .invalid, .erasing, .programming].map SlotState.code = [0, 1, 2, 3, 4]) ∧
  ∀ (tell : List Byte → List Byte), (∀ b, tell b = BitVec.ofNat 8 b.length :: b) →
    (∀ c : Nat, channelRecord c .unbound = [5, 0, 0, 0, BitVec.ofNat 8 c, 0]) ∧
    (∀ (c : Nat) (o : Output) (pins : Option (List Nat)), (∀ ps, o.condition = .faulted ps ↔ pins = some ps) →
      channelRecord c (.output o) = tell (
        leBytes 3 (0xFE + presentBit o.owner 1 + presentBit o.release 256 + presentBit o.lastOff 512 +
          presentBit pins 1024) ++ [BitVec.ofNat 8 c, 1] ++ pinPlaces o.cfg.pins ++
        (o.owner.map u8).getD [] ++
        [BitVec.ofNat 8 o.cfg.polarity.code, BitVec.ofNat 8 o.cfg.drive.code, BitVec.ofNat 8 o.cfg.safe.code] ++
        leBytes 2 o.cfg.settle ++
        [BitVec.ofNat 8 o.level.code, BitVec.ofNat 8 o.condition.code, if o.held then 1 else 0] ++
        (o.release.map (leBytes 6)).getD [] ++ (o.lastOff.map (leBytes 6)).getD [] ++
        (pins.map pinPlaces).getD [])) ∧
    (∀ (c : Nat) (i : Input), channelRecord c (.input i) = tell (
      leBytes 3 (276480 + presentBit i.owner 1 + presentBit i.candidate 114688 + presentBit i.lastEdge 131072) ++
      [BitVec.ofNat 8 c, 2, BitVec.ofNat 8 i.pin, 0xFF, 0xFF] ++ (i.owner.map u8).getD [] ++
      [BitVec.ofNat 8 i.interval, BitVec.ofNat 8 i.qualify, BitVec.ofNat 8 i.level.code] ++
      (i.candidate.map fun k => u8 (pinLevelCode k.level) ++ u8 k.count ++ leBytes 6 k.first).getD [] ++
      (i.lastEdge.map (leBytes 6)).getD [] ++ sessionSet i.subscribers)) ∧
    (∀ (e : Entry) (width due effective offset : Option Nat),
      width = (match e.act.kind with
        | .pulse w => some w
        | _ => none) →
      (due, effective, offset) = (match e.phase with
        | .waitingTime d => (some d, none, none)
        | .waitingGuard d t => (some d, some t, none)
        | .deferred d t => (some d, some t, none)
        | .template k => (none, none, some k)) →
      entryRecord e = tell (
        [BitVec.ofNat 8 (presentBit width 1 + presentBit due 2 + presentBit effective 4 + presentBit offset 8 +
          presentBit e.act.rep 16 + presentBit e.act.grd 32)] ++ leBytes 2 e.handle ++
        [BitVec.ofNat 8 e.owner, if e.phase.isTemplate then 1 else 0, BitVec.ofNat 8 e.phase.state.code,
          BitVec.ofNat 8 e.act.target, BitVec.ofNat 8 e.act.kind.code] ++
        (width.map (leBytes 3)).getD [] ++ (due.map (leBytes 6)).getD [] ++
        (effective.map (leBytes 6)).getD [] ++ (offset.map (leBytes 4)).getD [] ++ [BitVec.ofNat 8 e.act.tag] ++
        (e.act.rep.map fun r => leBytes 4 r.period ++ leBytes 3 (r.remaining.getD 0xFFFFFF)).getD [] ++
        (e.act.grd.map fun g => [BitVec.ofNat 8 g.channel, BitVec.ofNat 8 (pinLevelCode g.level)] ++
          match g.mode with
          | .skip => [0, 0, 0, 0]
          | .wait k => 1 :: leBytes 3 k).getD [] ++
        [if e.act.report then 1 else 0, if e.act.carry then 1 else 0] ++
        (match e.origin with
          | .request => [0, 0, 0]
          | .load => [1, 0, 0]
          | .trigger k => 2 :: leBytes 2 k) ++ leBytes 2 e.skipped)) ∧
    (∀ (i : Nat) (r : Interlock), interlockRecord i r = [BitVec.ofNat 8 i, BitVec.ofNat 8 r.a, BitVec.ofNat 8 r.b] ++
      leBytes 2 r.dead ++ [BitVec.ofNat 8 r.mode.code]) ∧
    (∀ (i : Nat) (r : Trigger) (ends : Option Nat), (∀ k, r.state = .holdoff k ↔ ends = some k) →
      triggerRecord i r = tell ([BitVec.ofNat 8 (presentBit ends 1 + presentBit r.lastFire 2), BitVec.ofNat 8 i,
          BitVec.ofNat 8 r.owner, BitVec.ofNat 8 r.spec.source, BitVec.ofNat 8 r.spec.edge.code,
          BitVec.ofNat 8 r.spec.tag, BitVec.ofNat 8 r.spec.mode.code] ++ leBytes 3 r.spec.holdoff ++
        [BitVec.ofNat 8 r.state.code] ++ (ends.map (leBytes 6)).getD [] ++ (r.lastFire.map (leBytes 6)).getD [])) ∧
    (∀ (k : Nat) (r : Slot), slotRecord k r = tell (
      [BitVec.ofNat 8 (presentBit r.name 1 + presentBit r.check 2), BitVec.ofNat 8 k] ++
      leBytes 2 (if k < 3 then 4096 else 12288) ++ [BitVec.ofNat 8 r.state.code] ++
      (r.name.map fun x => BitVec.ofNat 8 x.length :: x).getD [] ++ [if r.autostart then 1 else 0] ++
      leBytes 4 r.generation ++ leBytes 2 r.size ++ (r.check.map fun x => leBytes 4 x.toNat).getD [])) ∧
    (∀ (k : Nat) (m : Option Nat), storeRecord .idle = [2, 0, 0] ∧
      (∀ start, storeRecord (.reading k m start) =
        [5, 7, 1, BitVec.ofNat 8 k, 2, BitVec.ofNat 8 (m.getD 0xFF)]) ∧
      (∀ x, storeRecord (.commitErasing k m x) =
        [5, 7, 2, BitVec.ofNat 8 k, 0, BitVec.ofNat 8 (m.getD 0xFF)]) ∧
      (∀ x, storeRecord (.commitProgramming k m x) =
        [5, 7, 3, BitVec.ofNat 8 k, 0, BitVec.ofNat 8 (m.getD 0xFF)]) ∧
      storeRecord (.erasing k m) = [5, 7, 2, BitVec.ofNat 8 k, 1, BitVec.ofNat 8 (m.getD 0xFF)]) ∧
    buildRecord none = [1, 0] ∧
    ∀ b : Build, buildRecord (some b) = [7, 15, BitVec.ofNat 8 b.owner, BitVec.ofNat 8 b.slot] ++
      leBytes 2 b.records.length ++ leBytes 2 b.records.flatten.length

/-- A kind that is no request code of R193 is answered with UNKNOWN_KIND: without a session under session 0, and as a
frame of the session, cached, under its number. Every reply echoes SES and SEQ, has the kind plus 0x80, and begins its
body with the result code of R193 (R186, R192, R193). Model's choice: the kind of the reply, which is the unknown kind
plus 0x80 in one byte, also where that kind is 0x80 or above (log entry 25). -/
def Obligations.UnknownKindAnswered : Prop :=
  (∀ k : Byte, unknownKind k = true ↔ k ∉ [0x01, 0x02, 0x03, 0x04, 0x05, 0x08, 0x09, 0x0A, 0x10, 0x11, 0x12, 0x13,
    0x14, 0x15, 0x16, 0x18, 0x19, 0x1A, 0x20, 0x21, 0x22, 0x23, 0x28, 0x29, 0x2A, 0x30, 0x31, 0x32, 0x38, 0x39, 0x40,
    0x41, 0x48, 0x49, 0x4A, 0x4B, 0x4C, 0x4D, 0x4E, 0x50]) ∧
  (∀ (f : Frame) (code : Result) (fields : List Byte),
    replyFrame f code fields = ⟨f.ses, f.seq, f.kind + 0x80, code.code :: fields⟩) ∧
  [Result.ok, .unknownKind, .malformed, .noSession, .sequence, .notPermitted, .classTaken, .sessionLimit, .notBound,
    .alreadyBound, .pinBusy, .inUse, .notOwner, .owned, .channelFaulted, .notFaulted, .queueFull, .quota,
    .noSuchAction, .interlockConflict, .tableFull, .stopLine, .noLocal, .storeBusy, .storeProtected, .lowSupply,
    .slotInvalid, .planTooLarge, .buildActive, .noBuild, .badAck].map (fun r => r.code.toNat) = List.range 31 ∧
  ∀ (s : State) (p : Port) (f : Frame) (rest : List Frame), unknownKind f.kind = true →
    (s.canTake p = true → (s.link p).fifo = f :: rest → f.ses = 0 →
      exec (.unknownRequestKind p) s = .next (s.setLink p
        { s.link p with
          fifo := rest
          replies := (s.link p).replies ++ [⟨⟨f.ses, f.seq, f.kind + 0x80, [0x01]⟩, false⟩] })) ∧
    ∀ n h, s.receives p n h f rest f.kind →
      exec (.unknownRequestKind p) s = .next (s.answered p n h f rest .unknownKind [])

/-! ### Sessions -/

/-- OPEN with session 0 makes a new session at the lowest FREE number of 1 to 4, OPEN with expected sequence 0 and an
empty report queue, where no session of the port holds the tag and, for class SERVICE, the key is on and no live
session has the class. With a tag that a live session of the port holds it answers with that session and changes no
session, even a LAPSED one (R119, R120). -/
def Obligations.OpenMakesOrFinds : Prop :=
  (∀ (s : State) (p : Port) (key : Bool) (f : Frame) (rest : List Frame) (cls : SessionClass)
    (interval tag n : Nat), s.canTake p = true → (s.link p).fifo = f :: rest → f.ses = 0 → f.kind = 0x01 →
    1000 ≤ interval → interval ≤ 600000 → tag < 65536 →
    f.body = u8 cls.code ++ leBytes 4 interval ++ leBytes 2 tag →
    (∀ m h, 1 ≤ m → m ≤ 4 → s.session m = .host h → h.port = p → h.tag ≠ tag) →
    (cls = .service → key = true ∧ ∀ m, (s.session m).live = true → s.classOf m ≠ .service) →
    1 ≤ n → n ≤ 4 → s.session n = .free → (∀ m, 1 ≤ m → m < n → (s.session m).live = true) →
    exec (.openSession p key) s = .next
      (((s.setSession n (.host ⟨p, cls, tag, interval, .opened (s.elapsed + interval), 0, none⟩)).setReportQueue
          n ⟨[], 0, 0, 0⟩).setLink p
        { s.link p with
          fifo := rest
          replies := (s.link p).replies ++
            [⟨⟨0, f.seq, 0x81, [0x00] ++ u8 n ++ [0] ++ u8 cls.code ++ leBytes 4 interval ++ [1, 0]⟩,
              false⟩] })) ∧
  (∀ (s : State) (p : Port) (key : Bool) (f : Frame) (rest : List Frame) (n : Nat) (h : HostSession)
    (cls : SessionClass) (interval : Nat), s.sessionsLawful → s.canTake p = true →
    (s.link p).fifo = f :: rest → f.ses = 0 → f.kind = 0x01 → s.session n = .host h → h.port = p →
    1000 ≤ interval → interval ≤ 600000 → h.tag < 65536 →
    f.body = u8 cls.code ++ leBytes 4 interval ++ leBytes 2 h.tag →
    exec (.openSession p key) s = .next (s.setLink p
      { s.link p with
        fifo := rest
        replies := (s.link p).replies ++
          [⟨⟨0, f.seq, 0x81, [0x00] ++ u8 n ++ [1] ++ u8 h.cls.code ++ leBytes 4 h.interval ++
            u8 (Session.host h).stateCode ++ u8 h.expected⟩, false⟩] }))

/-! ### The Timebase -/

/-- TIME_TRIM of a SERVICE session with the key sets the pending trim, replacing one that is pending, and nothing
else. TRIM_WINDOW_END at the end of a window: the next window begins at position 0 with the pending trim, if any, in
force and no longer pending, else with the values already in force; TICK at that point does so first (R9, R10, R11).
Model's choice: the end of a window comes first in the next TICK (log entry 4). -/
def Obligations.TrimPendsThenRules : Prop :=
  (∀ (s : State) (p : Port) (n : Nat) (h : HostSession) (f : Frame) (rest : List Frame) (v : Int) (w : Nat),
    s.receives p n h f rest 0x0A → h.cls = .service → -127 ≤ v → v ≤ 127 → 1 ≤ w → w ≤ 65535 →
    f.body = BitVec.ofInt 8 v :: leBytes 2 w →
    exec (.timeTrim p true) s = .next
      { s.answered p n h f rest .ok [] with time := { s.time with pendingTrim := some ⟨v, w⟩ } }) ∧
  (∀ s : State, s.time.trim.window * 10000 ≤ s.time.position →
    ∃ t, exec .trimWindowEnd s = .next t ∧
      t = { s with time := { s.time with
        position := 0
        trim := match s.time.pendingTrim with
          | some r => r
          | none => s.time.trim
        pendingTrim := none } } ∧
      (1 ≤ t.time.trim.window → exec .tick s = exec .tick t))

/-- TIME_SET sets device time and TIME_VALID, and moves every time derived from a duration by the jump, held between 0
and 2^48 - 1: release, last-off and candidate times, effective times, holdoff ends, the STOP_N candidate, and the
release time of a drive request on its way. Due times, last edge and fire times, report times and the elapsed count
stay (R5, R6, R7). Model's choices: the release time of a drive request on its way, and the times of edges, fire
requests and reports on their way, which stay (log entries 10, 45). -/
def Obligations.TimeSetMovesHeldTimes : Prop :=
  ∀ (s : State) (p : Port) (n : Nat) (h : HostSession) (f : Frame) (rest : List Frame),
    s.receives p n h f rest 0x09 → h.cls ≠ .observer → f.body.length = 6 →
    ∃ (mv : Nat → Nat) (t : State), exec (.timeSet p) s = .next t ∧
      (∀ x : Nat, x ≤ Config.maxTime → ∀ y : Int, y = (x : Int) + (leNat f.body : Int) - (s.now : Int) →
        (0 ≤ y → y ≤ (Config.maxTime : Int) → (mv x : Int) = y) ∧ (y < 0 → mv x = 0) ∧
          ((Config.maxTime : Int) < y → mv x = Config.maxTime)) ∧
      (∀ c o, s.outputAt c = some o →
        t.outputAt c = some { o with release := o.release.map mv, lastOff := o.lastOff.map mv }) ∧
      (∀ c i, s.inputAt c = some i →
        t.inputAt c =
          some { i with candidate := i.candidate.map fun k => { k with first := mv k.first } }) ∧
      (∀ e, e ∈ t.queue ↔ ∃ e₀ ∈ s.queue, e = { e₀ with phase := match e₀.phase with
        | .waitingGuard d k => .waitingGuard d (mv k)
        | .deferred d k => .deferred d (mv k)
        | ph => ph }) ∧
      (∀ i, t.trigger i = (s.trigger i).map fun r => { r with state := match r.state with
        | .holdoff k => .holdoff (mv k)
        | st => st }) ∧
      t.inFlight = s.inFlight.map (fun d => { d with release := d.release.map mv }) ∧
      t.stop =
        { s.stop with candidate := s.stop.candidate.map fun k => { k with first := mv k.first } } ∧
      t.time = { s.time with device := leNat f.body, valid := true } ∧
      t = { s.answered p n h f rest .ok (leBytes 6 s.now) with
        time := t.time, channels := t.channels, queue := t.queue, triggers := t.triggers,
        inFlight := t.inFlight, stop := t.stop }

/-- TICK inside a window: the elapsed count and the window position advance by one, device time by 1, by 2 at a
tick that carries a correction of a positive trim, by 0 at one of a negative trim, and no further than 2^48 - 1.
The tick to position m carries one exactly when m is the integer part of k x L / |c| for some k from 1 to |c|
(R1, R2, R9). Model's choice: the tick that brings the position to L leaves it at L, with the trim of the window that
ends, until TRIM_WINDOW_END or the next TICK returns it to 0 (log entry 4). -/
def Obligations.TickAdvances : Prop :=
  ∀ s : State, s.time.position < s.time.trim.window * 10000 →
    ∃ t, exec .tick s = .next t ∧ t = { s with time := t.time } ∧ t.time.elapsed = s.time.elapsed + 1 ∧
      t.time.position = s.time.position + 1 ∧
      t.time = { s.time with elapsed := t.time.elapsed, position := t.time.position, device := t.time.device } ∧
      ∀ correction : Prop,
        (correction ↔ ∃ k, 1 ≤ k ∧ k ≤ s.time.trim.value.natAbs ∧
          t.time.position = k * (s.time.trim.window * 10000) / s.time.trim.value.natAbs) →
        (¬correction → t.time.device = min (s.time.device + 1) (2 ^ 48 - 1)) ∧
        (correction → 0 < s.time.trim.value → t.time.device = min (s.time.device + 2) (2 ^ 48 - 1)) ∧
        (correction → s.time.trim.value < 0 → t.time.device = min s.time.device (2 ^ 48 - 1))

/-! ### Channels and their owners -/

/-- A BIND body is read exactly from its bytes: channel, direction, three pin places and the direction's options, in
range; any other is MALFORMED. A BIND is accepted from an OPERATOR or SERVICE session for a channel that is NONE and
pins that are ISOLATED. An output is then the requester's, at its safe level with its pins presenting it as the eight
cases of R22 say, its settle window running, without a release or last-off time; an input is UNKNOWN, without
candidate, edge or subscriber, its first sample one interval away. A bound channel is refused with ALREADY_BOUND, a pin
in use with PIN_BUSY (R17 to R19, R22, R192). Model's choice: three places for a pin list in a request (log entry
23). -/
def Obligations.BindsOrRefuses : Prop :=
  (∀ (body : List Byte) (c : Nat) (spec : BindSpec), readBind body = some (c, spec) ↔ spec.bodyFor c body) ∧
  (∀ (s : State) (p : Port) (n : Nat) (h : HostSession) (f : Frame) (rest : List Frame), h.cls ≠ .observer →
    s.receives p n h f rest 0x10 → (∀ (c : Nat) (spec : BindSpec), ¬spec.bodyFor c f.body) →
    exec (.bind p) s = .next (s.answered p n h f rest .malformed [])) ∧
  (∀ g : OutConfig,
    g.presents .active = (match g.polarity, g.drive with
      | .activeHigh, .pushPull => .high
      | .activeHigh, .openDrain => .released
      | .activeLow, _ => .low) ∧
    g.presents .inactive = (match g.polarity, g.drive with
      | .activeHigh, _ => .low
      | .activeLow, .pushPull => .high
      | .activeLow, .openDrain => .released)) ∧
  (∀ (s : State) (p : Port) (n : Nat) (h : HostSession) (f : Frame) (rest : List Frame) (c : Nat)
    (g : OutConfig), s.receives p n h f rest 0x10 → h.cls ≠ .observer →
    BindSpec.bodyFor (.output g) c f.body → s.chan c = .unbound → (∀ q ∈ g.pins, s.pin q = .isolated) →
    exec (.bind p) s = .next
      (((s.answered p n h f rest .ok []).setChan c
        (.output ⟨g, some n, g.safe, .settling (s.elapsed + g.settle), false, none, none⟩)).setPins g.pins
        (.driving c (g.presents g.safe)))) ∧
  (∀ (s : State) (p : Port) (n : Nat) (h : HostSession) (f : Frame) (rest : List Frame)
    (c pin interval qualify : Nat), s.receives p n h f rest 0x10 → h.cls ≠ .observer →
    BindSpec.bodyFor (.input pin interval qualify) c f.body → s.chan c = .unbound →
    s.pin pin = .isolated →
    exec (.bind p) s = .next
      (((s.answered p n h f rest .ok []).setChan c
        (.input ⟨pin, interval, qualify, some n, .unknown, none, none, [], s.elapsed + interval⟩)).setPins
        [pin] (.sensing c))) ∧
  (∀ (s : State) (p : Port) (n : Nat) (h : HostSession) (f : Frame) (rest : List Frame) (c : Nat)
    (spec : BindSpec), s.receives p n h f rest 0x10 → h.cls ≠ .observer → spec.bodyFor c f.body →
    (s.chan c ≠ .unbound → exec (.bind p) s = .next (s.answered p n h f rest .alreadyBound [])) ∧
    (s.chan c = .unbound → (∃ q ∈ spec.pins, s.pin q ≠ .isolated) →
      exec (.bind p) s = .next (s.answered p n h f rest .pinBusy [])))

/-- UNBIND of a bound channel, unowned, the requester's, or another's under the SERVICE rights, returns it to NONE
and isolates its pins when nothing names it, and is refused with IN_USE when an entry, a trigger or an interlock
does (R16, R20). -/
def Obligations.UnbindIsolates : Prop :=
  ∀ (s : State) (p : Port) (key : Bool) (n : Nat) (h : HostSession) (f : Frame) (rest : List Frame)
    (c : Nat), s.receives p n h f rest 0x11 → h.cls ≠ .observer → c ≤ 31 → f.body = [BitVec.ofNat 8 c] →
    s.chan c ≠ .unbound →
    (∀ m, (s.chan c).owner = some m → m = n ∨ h.cls = .service ∧ key = true) →
    ((∀ e ∈ s.queue, e.act.target ≠ c ∧ ∀ g, e.act.grd = some g → g.channel ≠ c) →
      (∀ t r, s.trigger t = some r → r.spec.source ≠ c) →
      (∀ i r, s.interlock i = some r → r.a ≠ c ∧ r.b ≠ c) →
      exec (.unbind p key) s = .next
        (((s.answered p n h f rest .ok []).setPins (s.chan c).pins .isolated).setChan c .unbound)) ∧
    ((∃ e ∈ s.queue, e.act.target = c ∨ ∃ g, e.act.grd = some g ∧ g.channel = c) ∨
      (∃ t r, s.trigger t = some r ∧ r.spec.source = c) ∨
      (∃ i r, s.interlock i = some r ∧ (r.a = c ∨ r.b = c)) →
      exec (.unbind p key) s = .next (s.answered p n h f rest .inUse []))

/-- CLEAR_FAULT of a FAULTED output at its safe level, where every FAULTED output rests, sets its pins again and starts
a settle window, without a last-off time; an output that is not FAULTED, at whatever level, is refused with NOT_FAULTED
(R27). -/
def Obligations.ClearFaultStartsWindow : Prop :=
  ∀ (s : State) (p : Port) (key : Bool) (n : Nat) (h : HostSession) (f : Frame) (rest : List Frame)
    (c : Nat) (o : Output), s.receives p n h f rest 0x12 → h.cls ≠ .observer → c ≤ 31 →
    f.body = [BitVec.ofNat 8 c] → s.outputAt c = some o →
    (∀ m, o.owner = some m → m = n ∨ h.cls = .service ∧ key = true) →
    (o.isFaulted = true → o.level = o.cfg.safe → exec (.clearFault p key) s = .next
      (((s.answered p n h f rest .ok []).setChan c
        (.output { o with release := none, condition := .settling (s.elapsed + o.cfg.settle) })).setPins
        o.cfg.pins (.driving c (o.cfg.presents o.cfg.safe)))) ∧
    (o.isFaulted = false →
      exec (.clearFault p key) s = .next (s.answered p n h f rest .notFaulted []))

/-- REQUALIFY by the owner sets interval and count and makes the input UNKNOWN, its candidate discarded and its next
sample one interval away; its last edge time and subscribers stay; any other session is refused. SUBSCRIBE puts the
session into the subscribers set and UNSUBSCRIBE takes it out, from any class, and nothing else changes (R33, R34). -/
def Obligations.InputRequestsWrite : Prop :=
  (∀ (s : State) (p : Port) (n : Nat) (h : HostSession) (f : Frame) (rest : List Frame)
    (c interval qualify : Nat) (i : Input), s.receives p n h f rest 0x13 → h.cls ≠ .observer → c ≤ 31 →
    1 ≤ interval → interval ≤ 250 → 2 ≤ qualify → qualify ≤ 16 →
    f.body = [BitVec.ofNat 8 c, BitVec.ofNat 8 interval, BitVec.ofNat 8 qualify] → s.inputAt c = some i →
    (i.owner = some n → exec (.requalify p) s = .next
      ((s.answered p n h f rest .ok []).setChan c
        (.input { i with
          interval := interval, qualify := qualify, level := .unknown, candidate := none,
          nextSample := s.elapsed + interval }))) ∧
    (i.owner ≠ some n → exec (.requalify p) s = .next (s.answered p n h f rest .notOwner []))) ∧
  (∀ (s : State) (p : Port) (n : Nat) (h : HostSession) (f : Frame) (rest : List Frame) (c : Nat)
    (i : Input), c ≤ 31 → f.body = [BitVec.ofNat 8 c] → s.inputAt c = some i →
    (s.receives p n h f rest 0x15 → ∃ ms, (∀ m, m ∈ ms ↔ m = n ∨ m ∈ i.subscribers) ∧
      exec (.subscribe p) s = .next
        ((s.answered p n h f rest .ok []).setChan c (.input { i with subscribers := ms }))) ∧
    (s.receives p n h f rest 0x16 → ∃ ms, (∀ m, m ∈ ms ↔ m ≠ n ∧ m ∈ i.subscribers) ∧
      exec (.unsubscribe p) s = .next
        ((s.answered p n h f rest .ok []).setChan c (.input { i with subscribers := ms }))))

/-- CLAIM of a bound channel: an unowned one becomes the requester's and nothing else of it changes, the requester's own
is answered OK, another's without force is refused with OWNED, and with force but without the SERVICE rights with
NOT_PERMITTED. RELEASE by the owner makes it unowned and keeps everything else of it, a pulse in progress included; it
is refused with IN_USE while an entry of the requester targets the channel, and with NOT_OWNER to any other session
(R135, R138). -/
def Obligations.ClaimAndRelease : Prop :=
  (∀ (s : State) (p : Port) (key : Bool) (n : Nat) (h : HostSession) (f : Frame) (rest : List Frame)
    (c : Nat) (force : Bool), s.receives p n h f rest 0x18 → h.cls ≠ .observer → c ≤ 31 →
    f.body = [BitVec.ofNat 8 c, if force then 1 else 0] → s.chan c ≠ .unbound →
    ((s.chan c).owner = none → exec (.claim p key) s = .next
      ((s.answered p n h f rest .ok []).setChan c (match s.chan c with
        | .output o => .output { o with owner := some n }
        | .input i => .input { i with owner := some n }
        | .unbound => .unbound))) ∧
    ((s.chan c).owner = some n → exec (.claim p key) s = .next (s.answered p n h f rest .ok [])) ∧
    (∀ m, (s.chan c).owner = some m → m ≠ n → force = false →
      exec (.claim p key) s = .next (s.answered p n h f rest .owned [])) ∧
    ∀ m, (s.chan c).owner = some m → m ≠ n → force = true → (h.cls = .service → key = false) →
      exec (.claim p key) s = .next (s.answered p n h f rest .notPermitted [])) ∧
  (∀ (s : State) (p : Port) (n : Nat) (h : HostSession) (f : Frame) (rest : List Frame) (c : Nat),
    s.receives p n h f rest 0x19 → h.cls ≠ .observer → c ≤ 31 → f.body = [BitVec.ofNat 8 c] →
    s.chan c ≠ .unbound →
    ((s.chan c).owner = some n → (∀ e ∈ s.queue, e.owner = n → e.act.target ≠ c) →
      exec (.release p) s = .next
        ((s.answered p n h f rest .ok []).setChan c (match s.chan c with
          | .output o => .output { o with owner := none }
          | .input i => .input { i with owner := none }
          | .unbound => .unbound))) ∧
    ((s.chan c).owner = some n → (∃ e ∈ s.queue, e.owner = n ∧ e.act.target = c) →
      exec (.release p) s = .next (s.answered p n h f rest .inUse [])) ∧
    ((s.chan c).owner ≠ some n → exec (.release p) s = .next (s.answered p n h f rest .notOwner [])))

/-- A forced CLAIM with the SERVICE rights: the old owner's entries on the channel are gone and no other entry; an
output is the requester's, not held, with its release time cleared and its level kept, an input is the requester's and
nothing else of it changes; and the old owner has one ACTION_CANCELLED for each entry in queue order and then
OWNERSHIP_LOST, each report handed to its queue with the next sequence, the time and the missed count, or counted as
missed by a full queue (R136, R145). Model's choice: the width of the count in the reply (log entry 22). -/
def Obligations.ForcedClaimMovesOutput : Prop :=
  ∀ (s : State) (p : Port) (n m : Nat) (h : HostSession) (f : Frame) (rest : List Frame) (c : Nat)
    (new : Channel), s.queueLawful → s.receives p n h f rest 0x18 → h.cls = .service → c ≤ 31 →
    f.body = [BitVec.ofNat 8 c, 1] →
    (∃ o, s.outputAt c = some o ∧ o.owner = some m ∧
        new = .output { o with owner := some n, held := false, release := none }) ∨
      (∃ i, s.inputAt c = some i ∧ i.owner = some m ∧ new = .input { i with owner := some n }) →
    m ≠ n →
    ∃ t, exec (.claim p true) s = .next t ∧
      t = { (s.answered p n h f rest .ok
            (leBytes 2 (s.queue.countP fun e => e.owner == m && e.act.target == c))).setChan c new with
          queue := s.queue.filter fun e => !(e.owner == m && e.act.target == c)
          reports := t.reports } ∧
      (∀ k, k ≠ m → t.reportQueue k = s.reportQueue k) ∧
      (∀ sel, sel = (s.queue.filter fun e => e.owner == m && e.act.target == c) →
        t.reportQueue m = ((sel.foldl (fun u e => u.addReport m s.now
          (.actionCancelled e.handle e.act.target e.act.kind e.phase.state)) s).addReport m s.now
            (.ownershipLost c n sel.length)).reportQueue m) ∧
      ((s.session m).live = true →
        (s.reportQueue m).records.length + (s.queue.countP fun e => e.owner == m && e.act.target == c) < 32 →
        (t.reportQueue m).records.map Report.body =
          (s.reportQueue m).records.map Report.body ++
            ((s.queue.filter fun e => e.owner == m && e.act.target == c).map fun e =>
              .actionCancelled e.handle e.act.target e.act.kind e.phase.state) ++
            [.ownershipLost c n (s.queue.countP fun e => e.owner == m && e.act.target == c)])

/-! ### The action queue -/

/-- An ACTION_ADD body is read exactly from its bytes: kind byte, flags, target, kind, tag, width and time, and behind
them the repeat part and the guard part that the kind byte announces, in range; any other is MALFORMED. An ACTION_ADD
that meets its conditions admits one entry and changes nothing else: its handle is the first from the handle counter
upward, wrapping from 65535 to 1, that no entry holds; its due time is the time given, or now plus the delay, held at
2^48 - 1; an armed one is a TEMPLATE; the queue stays in queue order (R40 to R46, R192, R193). Model's choice: flag
bits without a use are not judged (log entry 24). -/
def Obligations.ActionAddAdmits : Prop :=
  (∀ (body : List Byte) (form : ActionForm) (a : Action),
    readAction true body = some (form, a) ↔ a.bytesFor true form body) ∧
  (∀ (s : State) (p : Port) (n : Nat) (h : HostSession) (f : Frame) (rest : List Frame), h.cls ≠ .observer →
    s.receives p n h f rest 0x20 → (∀ (form : ActionForm) (a : Action), ¬a.bytesFor true form f.body) →
    exec (.actionAdd p) s = .next (s.answered p n h f rest .malformed [])) ∧
  ∀ (s : State) (p : Port) (n : Nat) (h : HostSession) (f : Frame) (rest : List Frame) (form : ActionForm)
    (a : Action) (o : Output), s.queueLawful → s.receives p n h f rest 0x20 → h.cls ≠ .observer →
    a.bytesFor true form f.body → s.outputAt a.target = some o → o.owner = some n →
    o.isFaulted = false → (∀ g, a.grd = some g → (s.inputAt g.channel).isSome = true) →
    s.queue.length < 512 → s.entriesOwned n < 384 →
    ∃ (k j : Nat) (ph : Phase) (t : State), exec (.actionAdd p) s = .next t ∧
      ph = (match form with
        | .absolute due => .waitingTime due
        | .relative ticks => .waitingTime (min (s.now + ticks) (2 ^ 48 - 1))
        | .armed offset => .template offset) ∧
      k = (s.handleCounter - 1 + j) % 65535 + 1 ∧ (∀ e ∈ s.queue, e.handle ≠ k) ∧
      (∀ i, i < j → ∃ e ∈ s.queue, e.handle = (s.handleCounter - 1 + i) % 65535 + 1) ∧
      t.handleCounter = k % 65535 + 1 ∧
      (∀ e, e ∈ t.queue ↔ e = ⟨k, n, s.nextAdmission, ph, a, .request, 0⟩ ∨ e ∈ s.queue) ∧
      t.queue.length = s.queue.length + 1 ∧ t.queue.Pairwise (fun x y => x.before y = true) ∧
      t = { s.answered p n h f rest .ok
              (leBytes 2 k ++ match ph with
                | .waitingTime due => leBytes 6 due
                | _ => []) with
            queue := t.queue, handleCounter := t.handleCounter, nextAdmission := s.nextAdmission + 1 }

/-- ACTION_CANCEL by the owner, or by a SERVICE session with the key, removes exactly the entry of that handle and
replies its state; GROUP_CANCEL removes exactly the requester's entries with the tag and replies their number; a
handle that no entry holds is refused with NO_SUCH_ACTION (R48, R50). Model's choice: the width of the count in the
reply (log entry 22). -/
def Obligations.CancelsRemoveExactly : Prop :=
  ∀ (s : State) (p : Port) (key : Bool) (n : Nat) (h : HostSession) (f : Frame) (rest : List Frame),
    s.queueLawful → h.cls ≠ .observer →
    (∀ e ∈ s.queue, s.receives p n h f rest 0x21 → f.body = leBytes 2 e.handle →
      (e.owner = n ∨ h.cls = .service ∧ key = true) →
      exec (.actionCancel p key) s = .next { s.answered p n h f rest .ok (u8 e.phase.state.code) with
        queue := s.queue.filter fun x => x.handle != e.handle }) ∧
    (∀ k, s.receives p n h f rest 0x21 → f.body = leBytes 2 k → 1 ≤ k → k ≤ 65535 →
      (∀ e ∈ s.queue, e.handle ≠ k) →
      exec (.actionCancel p key) s = .next (s.answered p n h f rest .noSuchAction [])) ∧
    ∀ g, s.receives p n h f rest 0x22 → f.body = u8 g → 1 ≤ g → g ≤ 255 →
      exec (.groupCancel p) s = .next
        { s.answered p n h f rest .ok
            (leBytes 2 (s.queue.countP fun e => e.owner == n && e.act.tag == g)) with
          queue := s.queue.filter fun e => !(e.owner == n && e.act.tag == g) }

/-! ### Interlocks and triggers -/

/-- INTERLOCK_SET of two bound outputs, both the requester's or under the SERVICE rights, writes the record at the number
given, or for ANY at the lowest free position, when the three safety conditions hold, and is refused whole with
INTERLOCK_CONFLICT when one does not. INTERLOCK_CLEAR of a SERVICE session with the key frees the position and says
whether it held a record (R75 to R78). -/
def Obligations.InterlockTableWritten : Prop :=
  (∀ (s : State) (p : Port) (key : Bool) (n : Nat) (h : HostSession) (f : Frame) (rest : List Frame)
    (number : Option Nat) (i : Nat) (r : Interlock) (a b : Output), s.receives p n h f rest 0x28 →
    h.cls ≠ .observer → r.a ≤ 31 → r.b ≤ 31 → r.a ≠ r.b → r.dead ≤ 65535 →
    f.body = u8 (number.getD 255) ++ u8 r.a ++ u8 r.b ++ leBytes 2 r.dead ++ u8 r.mode.code →
    s.outputAt r.a = some a → s.outputAt r.b = some b →
    (a.owner = some n ∧ b.owner = some n ∨ h.cls = .service ∧ key = true) → i ≤ 11 →
    (number = some i ∧ (s.interlock i = none ∨ h.cls = .service ∧ key = true) ∨
      number = none ∧ s.interlock i = none ∧ ∀ j, j < i → s.interlock j ≠ none) →
    (¬(a.level = .active ∧ b.level = .active) ∧ ¬(a.cfg.safe = .active ∧ b.cfg.safe = .active) ∧
        (a.cfg.safe = .active ∨ b.cfg.safe = .active → r.dead = 0) →
      exec (.interlockSet p key) s = .next ((s.answered p n h f rest .ok (u8 i)).setInterlock i (some r))) ∧
    (a.level = .active ∧ b.level = .active ∨ a.cfg.safe = .active ∧ b.cfg.safe = .active ∨
        (a.cfg.safe = .active ∨ b.cfg.safe = .active) ∧ r.dead ≠ 0 →
      exec (.interlockSet p key) s = .next (s.answered p n h f rest .interlockConflict []))) ∧
  (∀ (s : State) (p : Port) (key : Bool) (n : Nat) (h : HostSession) (f : Frame) (rest : List Frame) (i : Nat),
    s.receives p n h f rest 0x29 → f.body = u8 i → i ≤ 255 →
    (h.cls = .service ∧ key = true → i ≤ 11 →
      exec (.interlockClear p key) s = .next
        ((s.answered p n h f rest .ok [if (s.interlock i).isSome then 1 else 0]).setInterlock i none)) ∧
    (h.cls = .service ∧ key = true → 11 < i →
      exec (.interlockClear p key) s = .next (s.answered p n h f rest .malformed [])) ∧
    (h.cls ≠ .service ∨ key = false →
      exec (.interlockClear p key) s = .next (s.answered p n h f rest .notPermitted [])))

/-- TRIGGER_SET writes a READY record without a last fire time at a position that is free or the requester's, and is
refused with IN_USE at another session's; TRIGGER_CLEAR frees the position, another session's only under the SERVICE
rights; neither touches the queue (R90, R91, R92). -/
def Obligations.TriggerTableWritten : Prop :=
  ∀ (s : State) (p : Port) (key : Bool) (n : Nat) (h : HostSession) (f : Frame) (rest : List Frame) (i : Nat),
    h.cls ≠ .observer → i ≤ 15 →
    (∀ g : TriggerSpec, s.receives p n h f rest 0x30 → g.source ≤ 31 → 1 ≤ g.tag → g.tag ≤ 255 →
      g.holdoff < 2 ^ 24 → (s.inputAt g.source).isSome = true →
      f.body = u8 i ++ u8 g.source ++ u8 g.edge.code ++ u8 g.tag ++ u8 g.mode.code ++ leBytes 3 g.holdoff →
      ((∀ r, s.trigger i = some r → r.owner = n) → exec (.triggerSet p) s = .next
        ((s.answered p n h f rest .ok []).setTrigger i (some ⟨n, g, .ready, none⟩))) ∧
      ((∃ r, s.trigger i = some r ∧ r.owner ≠ n) →
        exec (.triggerSet p) s = .next (s.answered p n h f rest .inUse []))) ∧
    (s.receives p n h f rest 0x31 → f.body = u8 i →
      ((∀ r, s.trigger i = some r → r.owner = n ∨ h.cls = .service ∧ key = true) →
        exec (.triggerClear p key) s = .next
          ((s.answered p n h f rest .ok [if (s.trigger i).isSome then 1 else 0]).setTrigger i none)) ∧
      ∀ r, s.trigger i = some r → r.owner ≠ n →
        (h.cls = .operator → exec (.triggerClear p key) s = .next (s.answered p n h f rest .notOwner [])) ∧
        (h.cls = .service → key = false →
          exec (.triggerClear p key) s = .next (s.answered p n h f rest .notPermitted [])))

/-- Times held in device time that are reached: a trigger in HOLDOFF becomes READY, and an output with a release time
is driven INACTIVE and the release time cleared, whatever the owners, the queue and the run state, with no report;
before that nothing happens (R3, R65, R100). Model's choices: when the event may be taken (log entries 2, 3). -/
def Obligations.HeldTimesReached : Prop :=
  (∀ (s : State) (i : Nat) (r : Trigger) (k : Nat), s.trigger i = some r → r.state = .holdoff k →
    (k ≤ s.now → exec (.holdoffEnd i) s = .next (s.setTrigger i (some { r with state := .ready }))) ∧
      (s.now < k → exec (.holdoffEnd i) s = .next s)) ∧
  (∀ (s : State) (c k : Nat) (o : Output), s.outputAt c = some o → o.release = some k → o.isFaulted = false →
    (k ≤ s.now → exec (.pulseRelease c) s = .next
      ((s.setChan c (.output (o.drivenTo .inactive s.now s.elapsed))).setPins o.cfg.pins
        (.driving c (o.cfg.presents .inactive)))) ∧
    (s.now < k → exec (.pulseRelease c) s = .next s))

/-- One visit by the Trigger Unit on an edge, record by record: a READY record of the edge's channel whose edge
selection accepts the direction, with an OPEN owner and the part RUNNING, fires: its last fire time becomes the
edge's timestamp and its state SPENT for ONCE, and for EVERY HOLDOFF until timestamp plus holdoff if that lies ahead,
else READY. Every other record is unchanged. One fire request for each record that fires is handed over, in table
order (R94, R95). Model's choices: an edge on its way is kept when its channel is unbound, bound again or requalified,
a record set after a reset answers every edge taken later, and of two edges the older is taken first (log entries 49,
50, 51). -/
def Obligations.TriggerEdgeFires : Prop :=
  ∀ (s : State) (x : Edge) (xs : List Edge), s.edges = x :: xs →
    ∃ (t : State) (fired : List (Nat × Trigger)), exec .triggerEdge s = .next t ∧
      t = { s with edges := xs, triggers := t.triggers, fireRequests := t.fireRequests } ∧
      (∀ i r, (i, r) ∈ fired ↔ s.trigger i = some r ∧ r.spec.source = x.channel ∧ r.state = .ready ∧
        (r.spec.edge = .either ∨ r.spec.edge = if x.rising then .rising else .falling) ∧
        (s.session r.owner).isOpen = true ∧ s.stop.run = .running) ∧
      fired.Pairwise (fun a b => a.1 < b.1) ∧
      t.fireRequests = s.fireRequests ++
        fired.map (fun y => ⟨y.1, y.2.owner, x.channel, x.rising, y.2.spec.tag, y.2.spec.mode, x.t⟩) ∧
      (∀ i r, (i, r) ∈ fired → ∃ st, t.trigger i = some { r with state := st, lastFire := some x.t } ∧
        (r.spec.mode = .once → st = .spent) ∧
        (r.spec.mode = .every → s.now < min (x.t + r.spec.holdoff) (2 ^ 48 - 1) →
          st = .holdoff (min (x.t + r.spec.holdoff) (2 ^ 48 - 1))) ∧
        (r.spec.mode = .every → min (x.t + r.spec.holdoff) (2 ^ 48 - 1) ≤ s.now → st = .ready)) ∧
      ∀ i, (∀ r, (i, r) ∉ fired) → t.trigger i = s.trigger i

/-- A fire request selects the owner's templates with its tag. Mode ONCE converts each in place: the entry keeps all
but its state and takes the timestamp plus its offset, held at 2^48 - 1, as due time, and a new admission number. Mode
EVERY keeps the templates and adds one copy of each, in template order, until the pool or the quota is full: with the
next unused handle, origin TRIGGER and skipped 0. Every further template makes ACTION_FAILED(QUEUE_FULL) with the due
time its copy would have had. Last, TRIGGER_FIRED with both counts goes to the owner. Nothing else changes, and the
queue stays in queue order (R40 to R42, R96, R97, R99). Model's choice: of the fire requests of different edges the
oldest is taken first (log entry 51). -/
def Obligations.FireRequestSchedules : Prop :=
  ∀ (s : State) (f : FireReq) (fs : List FireReq) (selects : Entry → Bool) (sel : List Entry) (due : Entry → Nat),
    s.queueLawful → s.fireRequests = f :: fs →
    (∀ e, selects e = true ↔ e.owner = f.owner ∧ e.act.tag = f.tag ∧ e.phase.isTemplate = true) →
    sel = s.queue.filter selects →
    (∀ e k, e.phase = .template k → due e = min (f.t + k) (2 ^ 48 - 1)) →
    ∃ t, exec .fireRequest s = .next t ∧
      t = { s with
        fireRequests := fs, queue := t.queue, handleCounter := t.handleCounter,
        nextAdmission := t.nextAdmission, reports := t.reports } ∧
      t.queue.Pairwise (fun x y => x.before y = true) ∧
      (f.mode = .once →
        (∃ converted : List Entry, converted.length = sel.length ∧
          (∀ (i : Nat) (e : Entry), sel[i]? = some e →
            converted[i]? = some { e with phase := .waitingTime (due e), adm := s.nextAdmission + i }) ∧
          t.queue.Perm ((s.queue.filter fun e => !selects e) ++ converted)) ∧
        t.handleCounter = s.handleCounter ∧ t.nextAdmission = s.nextAdmission + sel.length ∧
        ∀ m, t.reportQueue m = (s.addReport f.owner s.now
          (.triggerFired f.trigger f.source f.rising f.t sel.length 0)).reportQueue m) ∧
      (f.mode = .every → ∃ (made : Nat) (copies : List Entry) (counter : Nat → Nat),
        made = min sel.length (min (512 - s.queue.length) (384 - s.entriesOwned f.owner)) ∧
        copies.length = made ∧ t.queue.Perm (s.queue ++ copies) ∧
        counter 0 = s.handleCounter ∧
        (∀ (i : Nat) (e x : Entry), sel[i]? = some e → copies[i]? = some x →
          x = ⟨x.handle, f.owner, s.nextAdmission + i, .waitingTime (due e), e.act, .trigger e.handle, 0⟩ ∧
          firstFree (s.queue.map Entry.handle ++ (copies.take i).map Entry.handle) (counter i) x.handle ∧
          counter (i + 1) = x.handle % 65535 + 1) ∧
        t.handleCounter = counter made ∧ t.nextAdmission = s.nextAdmission + made ∧
        ∀ m, t.reportQueue m = (((sel.drop made).foldl (fun u e => u.addReport f.owner s.now
            (.actionFailed ⟨e.handle, e.act.target, e.act.kind, due e, decide (due e + 10 < s.now), 0⟩
              .queueFull)) s).addReport f.owner s.now
          (.triggerFired f.trigger f.source f.rising f.t made (sel.length - made))).reportQueue m)

/-! ### Stop Control -/

/-- HALT on a RUNNING part is an entry into STOPPED: run state, entry time and cause are set, every output is driven
to its safe level, SAFE_N is asserted, no level change is stored for the entries, which are now withheld, and each OPEN or
LAPSED session is given the report ENTERED; on a STOPPED part it adds the cause REQUEST with the report CAUSE_ADDED, or
changes nothing when REQUEST is in the set. Any class is accepted, and the reply is the run state and the cause set
(R54, R57, R108, R109). Model's choice: a level change not yet taken when the hold begins is passed over (log entry 11). -/
def Obligations.HaltStops : Prop :=
  ∀ (s : State) (p : Port) (n : Nat) (h : HostSession) (f : Frame) (rest : List Frame), s.pairsKept →
    s.receives p n h f rest 0x38 → f.body = [] →
    (s.stop.run = .running → ∃ t, exec (.halt p) s = .next t ∧ s.restsWhere (fun _ => True) t ∧
      (∀ m, t.reportQueue m = (s.addReport m s.now (.stopChange
        ⟨.entered, false, .stopped, s.stop.line, true, n, none, some s.now⟩)).reportQueue m) ∧
      t = { s.answered p n h f rest .ok [1, if s.stop.line then 3 else 2] with
        stop := { s.stop with run := .stopped, request := true, entryTime := some s.now, safeAsserted := true }
        levelChanges := [], channels := t.channels, pins := t.pins, reports := t.reports }) ∧
    (s.stop.run = .stopped → s.stop.request = false → ∃ t, exec (.halt p) s = .next t ∧
      (∀ m, t.reportQueue m = (s.addReport m s.now (.stopChange
        ⟨.causeAdded, false, .stopped, s.stop.line, true, n, none, s.stop.entryTime⟩)).reportQueue m) ∧
      t = { s.answered p n h f rest .ok [1, if s.stop.line then 3 else 2] with
        stop := { s.stop with request := true }, reports := t.reports }) ∧
    (s.stop.run = .stopped → s.stop.request = true →
      exec (.halt p) s = .next (s.answered p n h f rest .ok [1, if s.stop.line then 3 else 2]))

/-- RESUME is refused with STOP_LINE while LINE is in the set, changes nothing on a RUNNING part, and on a STOPPED one
empties the set, makes the part RUNNING, releases SAFE_N, keeps the entry time, reports RESUMED and disposes of the
overdue entries of OPEN sessions, one after another in queue order: one with CARRY is taken through the firing sequence
with its drive in the same event, one without expires with ACTION_EXPIRED and stands anew at its next occurrence, and
one that waits for its guard fails past its deadline and else goes on when its guard matches. A template, an entry of
any other session, and one whose time is not past and that waits for no guard stay (R69 to R72, R112, R115). Model's
choices: an entry whose drive request is on its way is passed over, and an entry whose next occurrence would lie beyond
2^48 - 1 has none (log entries 9, 15). -/
def Obligations.ResumeReturns : Prop :=
  ∀ (s : State) (p : Port) (n : Nat) (h : HostSession) (f : Frame) (rest : List Frame), s.queueLawful →
    s.receives p n h f rest 0x39 → h.cls ≠ .observer → f.body = [] →
    (s.stop.line = true → exec (.resume p) s = .next (s.answered p n h f rest .stopLine [])) ∧
    (s.stop.line = false → s.stop.run = .running →
      exec (.resume p) s = .next (s.answered p n h f rest .ok [0, 0])) ∧
    (s.stop.line = false → s.stop.run = .stopped → ∃ (c : StopControl) (s1 u : State),
      c = { s.stop with run := .running, request := false, safeAsserted := false } ∧
      s1 = { s.arrived p n h rest with stop := c, reports := s1.reports } ∧
      (∀ m, s1.reportQueue m = (s.addReport m s.now (.stopChange
        ⟨.resumed, false, .running, false, false, n, none, s.stop.entryTime⟩)).reportQueue m) ∧
      State.visitsTo ((s.queue.filter fun e => (s.session e.owner).isOpen).map Entry.adm) s1 u ∧
      exec (.resume p) s = .next { s.answered p n h f rest .ok [0, 1] with
        stop := c, queue := u.queue, nextAdmission := u.nextAdmission, channels := u.channels, pins := u.pins,
        reports := u.reports }) ∧
    (s.stop.line = false → s.stop.run = .stopped → ∃ t, exec (.resume p) s = .next t ∧
      t = { s.answered p n h f rest .ok [0, 1] with
        stop := { s.stop with run := .running, request := false, safeAsserted := false }
        queue := t.queue, nextAdmission := t.nextAdmission, channels := t.channels, pins := t.pins,
        reports := t.reports } ∧
      (∀ e ∈ s.queue, (s.session e.owner).isOpen = false ∨ e.phase.isTemplate = true ∨
        (e.phase.isWaitingGuard = false ∧ ∀ k, e.phase.key? = some k → s.now ≤ k) → e ∈ t.queue) ∧
      (∀ e ∈ s.queue, (s.session e.owner).isOpen = true → e.phase.isWaitingGuard = false →
        (∃ k, e.phase.key? = some k ∧ k < s.now) → e.act.carry = false → e.act.rep = none →
        (∀ d, s.inFlight = some d → d.adm ≠ e.adm) → ∀ x ∈ t.queue, x.adm ≠ e.adm) ∧
      ((∀ e ∈ s.queue, (s.session e.owner).isOpen = false ∨ e.phase.isTemplate = true ∨
          (e.phase.isWaitingGuard = false ∧ ∀ k, e.phase.key? = some k → s.now ≤ k)) →
        t.queue = s.queue ∧ t.channels = s.channels ∧ t.pins = s.pins ∧
        ∀ m, t.reportQueue m = (s.addReport m s.now (.stopChange
          ⟨.resumed, false, .running, false, false, n, none, s.stop.entryTime⟩)).reportQueue m))

/-- A sample of STOP_N: the qualified level discards the candidate; another level is counted from its first sample;
the fourth in a row qualifies it. ASSERTED then is an entry into STOPPED from RUNNING, or a cause added; RELEASED
takes LINE out of the set, without making the part RUN, unless it is the first level since the reset. That first
level, of either kind, opens the start-up gate and begins the startup load of a VALID slot 0 with autostart (R106,
R107, R109, R116, R181). Model's choices: when a sample may be taken, and that an entry into STOPPED passes over the
level changes not yet taken (log entries 2, 11, 31). -/
def Obligations.StopSampleQualifies : Prop :=
  ∀ (s : State) (asserted : Bool), s.stop.lawful → s.pairsKept →
    (s.elapsed < s.stop.nextSample → exec (.stopNSample asserted) s = .next s) ∧
    (s.stop.nextSample ≤ s.elapsed →
      (s.stop.level = (if asserted then .asserted else .released) →
        exec (.stopNSample asserted) s = .next
          { s with stop := { s.stop with candidate := none, nextSample := s.elapsed + 1 } }) ∧
      (s.stop.level ≠ (if asserted then .asserted else .released) →
        (∀ k first, s.stop.candidate = some ⟨asserted, k, first⟩ → k < 3 →
          exec (.stopNSample asserted) s = .next { s with
            stop := { s.stop with candidate := some ⟨asserted, k + 1, first⟩, nextSample := s.elapsed + 1 } }) ∧
        ((∀ k first, s.stop.candidate ≠ some ⟨asserted, k, first⟩) →
          exec (.stopNSample asserted) s = .next { s with
            stop := { s.stop with candidate := some ⟨asserted, 1, s.now⟩, nextSample := s.elapsed + 1 } }) ∧
        ∀ first, s.stop.candidate = some ⟨asserted, 3, first⟩ → ∃ t, exec (.stopNSample asserted) s = .next t ∧
          t = { s with
            stop := { s.stop with
              run := t.stop.run, line := asserted, level := if asserted then .asserted else .released
              candidate := none, entryTime := t.stop.entryTime, gateOpen := true
              safeAsserted := t.stop.safeAsserted, nextSample := s.elapsed + 1 }
            levelChanges := t.levelChanges, channels := t.channels, pins := t.pins, reports := t.reports
            sessions := t.sessions, store := t.store } ∧
          (asserted = true → s.stop.run = .running → t.levelChanges = [] ∧
            t.stop.run = .stopped ∧ t.stop.entryTime = some s.now ∧ t.stop.safeAsserted = true ∧
            s.restsWhere (fun _ => True) t) ∧
          (asserted = false ∨ s.stop.run = .stopped →
            t.stop.run = s.stop.run ∧ t.stop.entryTime = s.stop.entryTime ∧
            t.stop.safeAsserted = s.stop.safeAsserted ∧ t.channels = s.channels ∧ t.pins = s.pins ∧
            t.levelChanges = s.levelChanges) ∧
          (asserted = true ∨ s.stop.level = .asserted → ∀ m, m ≠ 5 → t.reportQueue m =
            (s.addReport m s.now (.stopChange
              ⟨if asserted then (if s.stop.run = .running then .entered else .causeAdded) else .causeRemoved,
                true, t.stop.run, asserted, s.stop.request, 0, some first, t.stop.entryTime⟩)).reportQueue m) ∧
          (asserted = false → s.stop.level = .unknown → ∀ m, m ≠ 5 → t.reportQueue m = s.reportQueue m) ∧
          (s.stop.level = .unknown → (s.slot 0).state = .valid → (s.slot 0).autostart = true →
            t.session 5 = .localSession ∧ (∀ m, m ≠ 5 → t.session m = s.session m) ∧
            t.store = .reading 0 (some 5) .now) ∧
          (s.stop.level ≠ .unknown ∨ (s.slot 0).state ≠ .valid ∨ (s.slot 0).autostart = false →
            t.sessions = s.sessions ∧ t.store = s.store)))

/-! ### The ends of sessions -/

/-- KEEPALIVE_EXPIRY at the deadline makes the session LAPSED with its grace deadline, drives its outputs to their
safe levels and marks them held; before the deadline nothing happens. No entry, trigger or report changes, and no level
change is stored for its entries, which are now withheld. A KEEPALIVE
in sequence for the LAPSED session returns it: it is OPEN, no output of it is held, and it is given SESSION_NOTICE with
the number of marks removed. While the part is STOPPED or the session has no entry, no drive is made and no entry
changes; while it is RUNNING, the overdue disposition then settles the session's entries one after another in queue
order (R69 to R72, R125, R126, R128). Model's choices: when the event may be taken, a level change not yet taken, an
entry whose drive request is on its way, and an entry whose next occurrence would lie beyond 2^48 - 1, which has none
(log entries 2, 3, 9, 11, 15). -/
def Obligations.ExpiryLapses : Prop :=
  (∀ (s : State) (n d : Nat) (h : HostSession), s.pairsKept → s.session n = .host h → h.life = .opened d →
    (d ≤ s.elapsed → ∃ t, exec (.keepaliveExpiry n) s = .next t ∧
      t = { s with
        sessions := t.sessions, levelChanges := t.levelChanges, channels := t.channels, pins := t.pins } ∧
      t.changesStand s.levelChanges t.levelChanges ∧ t.session n = .host { h with life := .lapsed (s.elapsed + h.interval) } ∧
      (∀ m, m ≠ n → t.session m = s.session m) ∧
      ∃ u, s.restsWhere (fun o => o.owner = some n) u ∧ ∀ c, t.chan c = (match u.chan c with
        | .output o => if o.owner = some n then .output { o with held := true } else .output o
        | r => r)) ∧
    (s.elapsed < d → exec (.keepaliveExpiry n) s = .next s)) ∧
  (∀ (s : State) (p : Port) (n g : Nat) (h : HostSession) (f : Frame) (rest : List Frame),
    s.canTake p = true → (s.link p).fifo = f :: rest → f.kind = 0x05 → f.ses.toNat = n → f.body = [] →
    s.session n = .host h → h.port = p → h.life = .lapsed g → f.seq.toNat = h.expected →
    s.stop.run = .stopped ∨ (∀ e ∈ s.queue, e.owner ≠ n) →
    ∃ t, exec (.keepalive p) s = .next t ∧
      t = { s.answered p n h f rest .ok [] with channels := t.channels, reports := t.reports } ∧
      (∀ c, t.chan c = (match s.chan c with
        | .output o => if o.owner = some n then .output { o with held := false } else .output o
        | r => r)) ∧
      ∀ m, t.reportQueue m = (s.addReport n s.now (.sessionNotice ((List.range 32).countP fun c =>
        (s.outputAt c).any fun o => o.owner == some n && o.held))).reportQueue m) ∧
  (∀ (s : State) (p : Port) (n g : Nat) (h : HostSession) (f : Frame) (rest : List Frame),
    s.canTake p = true → (s.link p).fifo = f :: rest → f.kind = 0x05 → f.ses.toNat = n → f.body = [] →
    s.session n = .host h → h.port = p → h.life = .lapsed g → f.seq.toNat = h.expected →
    s.stop.run = .running →
    ∃ s1 u, s1 = { s.arrived p n h rest with channels := s1.channels, reports := s1.reports } ∧
      (∀ c, s1.chan c = (match s.chan c with
        | .output o => if o.owner = some n then .output { o with held := false } else .output o
        | r => r)) ∧
      (∀ m, s1.reportQueue m = (s.addReport n s.now (.sessionNotice ((List.range 32).countP fun c =>
        (s.outputAt c).any fun o => o.owner == some n && o.held))).reportQueue m) ∧
      State.visitsTo ((s.queue.filter fun e => e.owner == n).map Entry.adm) s1 u ∧
      exec (.keepalive p) s = .next { s.answered p n h f rest .ok [] with
        queue := u.queue, nextAdmission := u.nextAdmission, channels := u.channels, pins := u.pins
        reports := u.reports })

/-- CLOSE of any class, and GRACE_EXPIRY at the grace deadline, end the session by its teardown; the reply to CLOSE is
placed but not cached (R129, R130, R131). Model's choices: when the event may be taken, and what becomes of work on
its way (log entries 2, 3, 12, 13). -/
def Obligations.SessionEnds : Prop :=
  ∀ (s : State) (n : Nat) (h : HostSession), s.pairsKept →
    (∀ p f rest, s.receives p n h f rest 0x04 → f.body = [] →
      ∃ t, s.endedWith n t ∧ exec (.close p) s = .next (t.setLink p
        { s.link p with
          fifo := rest
          replies := (s.link p).replies ++ [⟨⟨f.ses, f.seq, 0x84, [0x00]⟩, false⟩] })) ∧
    ∀ d, s.session n = .host h → h.life = .lapsed d →
      (d ≤ s.elapsed → ∃ t, exec (.graceExpiry n) s = .next t ∧ s.endedWith n t) ∧
      (s.elapsed < d → exec (.graceExpiry n) s = .next s)

/-- TAKEOVER's conditions in their order, against the state when the request is taken: OBSERVER, a body, no LOCAL
session, the startup load that targets it in flight, the requester's and LOCAL's entries together above 384. The
first that fails gives the refusal, a refused one changes nothing, and otherwise it is accepted (R140). -/
def Obligations.TakeoverConditions : Prop :=
  ∀ (s : State) (p : Port) (n : Nat) (h : HostSession) (f : Frame) (rest : List Frame),
    s.receives p n h f rest 0x1A →
    (h.cls = .observer → exec (.takeover p) s = .next (s.answered p n h f rest .notPermitted [])) ∧
    (h.cls ≠ .observer →
      (f.body ≠ [] → exec (.takeover p) s = .next (s.answered p n h f rest .malformed [])) ∧
      (f.body = [] →
        (s.session 5 = .free → exec (.takeover p) s = .next (s.answered p n h f rest .noLocal [])) ∧
        (s.session 5 = .localSession →
          ((∃ k start, s.store = .reading k (some 5) start) →
            exec (.takeover p) s = .next (s.answered p n h f rest .storeBusy [])) ∧
          ((∀ k start, s.store ≠ .reading k (some 5) start) →
            (384 < s.entriesOwned n + s.entriesOwned 5 →
              exec (.takeover p) s = .next (s.answered p n h f rest .quota [])) ∧
            (s.entriesOwned n + s.entriesOwned 5 ≤ 384 →
              ∃ t fields, exec (.takeover p) s = .next t ∧
                (t.link p).replies = (s.link p).replies ++ [⟨replyFrame f .ok fields, false⟩] ∧
                t.session 5 = .free)))))

/-- An accepted TAKEOVER moves every channel, entry, trigger and subscription of LOCAL to the requester, replies their
numbers, and frees LOCAL's record and reports. Handles, admission numbers, order, levels, held fields and all else
stay (R141). Model's choices: work on its way, and the widths of the counts (log entries 12, 13, 22). -/
def Obligations.TakeoverMovesLocal : Prop :=
  ∀ (s : State) (p : Port) (n : Nat) (h : HostSession) (f : Frame) (rest : List Frame),
    s.receives p n h f rest 0x1A → h.cls ≠ .observer → f.body = [] → s.session 5 = .localSession →
    (∀ k start, s.store ≠ .reading k (some 5) start) → s.entriesOwned n + s.entriesOwned 5 ≤ 384 →
    ∃ t, exec (.takeover p) s = .next t ∧
      t.queue = s.queue.map (fun e => { e with owner := if e.owner = 5 then n else e.owner }) ∧
      (∀ i, t.trigger i =
        (s.trigger i).map fun r => { r with owner := if r.owner = 5 then n else r.owner }) ∧
      (∀ c o, s.outputAt c = some o →
        t.outputAt c = some { o with owner := if o.owner = some 5 then some n else o.owner }) ∧
      (∀ c i, s.inputAt c = some i → ∃ ms,
        t.inputAt c =
          some { i with owner := if i.owner = some 5 then some n else i.owner, subscribers := ms } ∧
        ∀ m, m ∈ ms ↔ m ≠ 5 ∧ m ∈ i.subscribers ∨ m = n ∧ 5 ∈ i.subscribers) ∧
      (∀ c, s.chan c = .unbound → t.chan c = .unbound) ∧
      t.fireRequests = s.fireRequests.map (fun x => { x with owner := if x.owner = 5 then n else x.owner }) ∧
      t.inFlight = s.inFlight.map
        (fun x => { x with owner := if x.owner = some 5 then some n else x.owner }) ∧
      t = { ((s.answered p n h f rest .ok
              (u8 ((List.range 32).countP fun c => (s.chan c).owner == some 5) ++ leBytes 2 (s.entriesOwned 5) ++
                u8 ((List.range 16).countP fun i => (s.trigger i).any fun r => r.owner == 5) ++
                u8 ((List.range 32).countP fun c =>
                  (s.inputAt c).any fun i => i.subscribers.contains 5))).setReportQueue
              5 ⟨[], 0, 0, 0⟩).setSession 5 .free with
        channels := t.channels, queue := t.queue, triggers := t.triggers, fireRequests := t.fireRequests
        inFlight := t.inFlight, handed := s.handed.filter (fun r => r.session != 5) }

/-! ### Reports -/

/-- REPORT_ACK of a sequence at distance d from the oldest record, or from the next sequence of an empty queue: below
the sent count the d + 1 oldest records go and the sent count falls by as many; from there to 32767 it is refused with
BAD_ACK, the oldest sequence and the sent count; above, it is accepted with 0 removed. Missed count and next sequence
do not change, and the queue is ready again when unsent records remain. Another length is MALFORMED (R149). Model's
choices: the numbers removed, left, missed and sent take one byte each in the reply, and the next sequence stands for
the oldest in the BAD_ACK reply of an empty queue (log entries 22, 52). -/
def Obligations.ReportAckRemoves : Prop :=
  ∀ (s : State) (p : Port) (n : Nat) (h : HostSession) (f : Frame) (rest : List Frame),
    s.receives p n h f rest 0x40 → (s.reportQueue n).lawful →
    (f.body.length ≠ 2 → exec (.reportAck p) s = .next (s.answered p n h f rest .malformed [])) ∧
    ∀ (q : ReportQueue) (a oldest d : Nat), q = s.reportQueue n → a < 65536 → f.body = leBytes 2 a →
      oldest = (match q.records with
        | [] => q.next
        | r :: _ => r.seq) → oldest < 65536 → d < 65536 → (oldest + d) % 65536 = a →
      (d < q.sent → exec (.reportAck p) s = .next
        ((s.answered p n h f rest .ok (u8 (d + 1) ++ u8 (q.records.length - (d + 1)) ++ u8 q.missed)).setReportQueue
          n { q with records := q.records.drop (d + 1), sent := q.sent - (d + 1) }) ∧
        (q.sent < q.records.length →
          ({ q with records := q.records.drop (d + 1), sent := q.sent - (d + 1) } : ReportQueue).ready = true)) ∧
      (q.sent ≤ d → d ≤ 32767 → exec (.reportAck p) s = .next
        (s.answered p n h f rest .badAck (leBytes 2 oldest ++ u8 q.sent))) ∧
      (32768 ≤ d → exec (.reportAck p) s = .next
        (s.answered p n h f rest .ok ([0] ++ u8 q.records.length ++ u8 q.missed)))

/-- REPORT_RESEND makes every sent record unsent and replies their number. REPORT_ADD takes the oldest report handed
over: it is dropped for a FREE session, only counted as missed, up to 255, by a queue of 32 records, and else appended
with the next sequence and the missed count, which returns to 0 (R145, R151). Model's choices: which reports REPORT_ADD
takes, and the one byte of the number in the reply (log entries 7, 22). -/
def Obligations.ReportsAddedAndResent : Prop :=
  (∀ (s : State) (p : Port) (n : Nat) (h : HostSession) (f : Frame) (rest : List Frame),
      s.receives p n h f rest 0x41 → f.body = [] →
      exec (.reportResend p) s = .next
        ((s.answered p n h f rest .ok (u8 (s.reportQueue n).sent)).setReportQueue n
          { s.reportQueue n with sent := 0 })) ∧
    ∀ (s : State) (r : Handed) (rs : List Handed) (q : ReportQueue), s.handed = r :: rs →
      q = s.reportQueue r.session →
      ((s.session r.session).live = false → exec .reportAdd s = .next { s with handed := rs }) ∧
      ((s.session r.session).live = true → 32 ≤ q.records.length →
        exec .reportAdd s = .next
          ({ s with handed := rs }.setReportQueue r.session { q with missed := min (q.missed + 1) 255 })) ∧
      ((s.session r.session).live = true → q.records.length < 32 →
        exec .reportAdd s = .next
          ({ s with handed := rs }.setReportQueue r.session
            { q with
              records := q.records ++ [({ seq := q.next, missed := q.missed, time := r.time, body := r.body } : Report)]
              next := (q.next + 1) % 65536, missed := 0 }))

/-! ### The Schedule Engine and the Channel Matrix -/

/-- ENTRY_DUE of the entry the engine attends to, its guard matched: on a target that is not FAULTED, its level and
its release time are handed to the Channel Matrix as a drive request when it does not become ACTIVE or every record
that names it is clear. Else the first record that is not clear decides: an ACTIVE partner fails the occurrence under
REFUSE, and is driven INACTIVE under BREAK_FIRST, if it is the owner's and not FAULTED, with the entry DEFERRED by the
dead time; dead time still to run defers to its end. On a FAULTED target only a drive to the safe level without a
release time is handed over, and any other fails (R55, R59 to R61, R80, R81). Model's choice: one drive request on its
way at most (log entry 8). -/
def Obligations.EntryDueFires : Prop :=
  ∀ (s : State) (e : Entry) (o : Output) (l : Level) (rel : Option Nat), s.attendsTo e →
    e.phase.isWaitingGuard = false → s.outputAt e.act.target = some o →
    (∀ g, e.act.grd = some g → ∃ i, s.inputAt g.channel = some i ∧
      i.level = (match g.level with
        | .high => .high
        | .low => .low)) →
    l = (match e.act.kind with
      | .clear => .inactive
      | .toggle => if o.level = .active then .inactive else .active
      | _ => .active) →
    rel = (match e.act.kind with
      | .pulse w => some (min (s.now + w) (2 ^ 48 - 1))
      | _ => none) →
    (o.isFaulted = false →
      (¬(o.level = .inactive ∧ l = .active) ∨ (∀ i r, s.interlock i = some r → s.clearOf e.act.target r) →
        exec .entryDue s = .next { s with
          inFlight := some ⟨e.adm, some e.owner, e.act.target, l, rel, s.now⟩ }) ∧
      ∀ i r y oy, o.level = .inactive → l = .active → s.interlock i = some r → r.a ≠ r.b →
        (∀ j r', j < i → s.interlock j = some r' → s.clearOf e.act.target r') →
        (r.a = e.act.target ∧ r.b = y ∨ r.b = e.act.target ∧ r.a = y) → s.outputAt y = some oy →
        (oy.level = .active → r.mode = .refuse ∨ oy.owner ≠ some e.owner ∨ oy.isFaulted = true →
          exec .entryDue s = .next (s.failOccurrence e .interlocked s.now)) ∧
        (oy.level = .active → r.mode = .breakFirst → oy.owner = some e.owner → oy.isFaulted = false →
          exec .entryDue s = .next
            (((s.setChan y (.output (oy.drivenTo .inactive s.now s.elapsed))).setPins oy.cfg.pins
              (.driving y (oy.cfg.presents .inactive))).rephase e
                (.deferred e.due (min (s.now + r.dead) (2 ^ 48 - 1))))) ∧
        (∀ k, oy.level = .inactive → oy.lastOff = some k → s.now < k + r.dead →
          exec .entryDue s = .next (s.rephase e (.deferred e.due (min (k + r.dead) (2 ^ 48 - 1)))))) ∧
    (o.isFaulted = true →
      (l = o.cfg.safe → rel = none → exec .entryDue s = .next { s with
        inFlight := some ⟨e.adm, some e.owner, e.act.target, l, none, s.now⟩ }) ∧
      (l ≠ o.cfg.safe ∨ rel.isSome = true →
        exec .entryDue s = .next (s.failOccurrence e .channelFaulted s.now)))

/-- A guard that does not match, or whose channel is UNKNOWN, fails the occurrence under SKIP, and under WAIT puts the
entry into WAITING_GUARD until now plus its limit. At that deadline GUARD_DEADLINE, not ENTRY_DUE, fails it with
GUARD_TIMEOUT. A level change handed to the engine has its first waiting entry judged again by GUARD_REEVALUATION: it
keeps waiting on a mismatch, and on a match goes on, whatever its kind, through the fault test, the interlock check and
the drive at the present device time. The other entries that the change names stay named, each to be judged in turn,
and with the last the change is gone. Withheld entries are passed over and no change is stored for them, and a change
that names no entry still waiting gives way to the next (R55 to R61, R80, R81). Model's choices: one drive request on
its way at most, the entries of a level change, and the older of two changes first (log entries 8, 11, 51). -/
def Obligations.GuardsHoldEntries : Prop :=
  (∀ (s : State) (l : LevelChange) (ls : List LevelChange), s.inFlight = none → s.levelChanges = l :: ls →
    (∀ x ∈ s.queue, x.adm ∉ l.waiting ∨ x.phase.isWaitingGuard = false ∨ s.stop.run = .stopped ∨
      (s.session x.owner).isOpen = false) →
    exec .guardReevaluation s = exec .guardReevaluation { s with levelChanges := ls }) ∧
  (∀ s : State, s.inFlight = none → s.levelChanges = [] → exec .guardReevaluation s = .next s) ∧
  ∀ (s : State) (e : Entry) (g : Guard), e.act.grd = some g →
    (s.attendsTo e → e.phase.isWaitingGuard = false →
      (∀ i, s.inputAt g.channel = some i → i.level ≠ (match g.level with
        | .high => .high
        | .low => .low)) →
      (g.mode = .skip → exec .entryDue s = .next (s.failOccurrence e .guardFalse s.now)) ∧
      ∀ k, g.mode = .wait k →
        exec .entryDue s = .next (s.rephase e (.waitingGuard e.due (min (s.now + k) (2 ^ 48 - 1))))) ∧
    (s.attendsTo e → e.phase.isWaitingGuard = true →
      exec .guardDeadline s = .next (s.failOccurrence e .guardTimeout s.now) ∧
      exec .entryDue s = .next s) ∧
    ∀ (l : LevelChange) (ls : List LevelChange) (before after : List Entry), s.inFlight = none →
      s.stop.run = .running → s.levelChanges = l :: ls → s.queue = before ++ e :: after →
      (∀ x ∈ before, x.adm ∉ l.waiting ∨ x.phase.isWaitingGuard = false ∨ (s.session x.owner).isOpen = false) →
      e.adm ∈ l.waiting → e.phase.isWaitingGuard = true →
      g.channel = l.channel → (s.session e.owner).isOpen = true →
      ∃ ls', s.changesStand ({ l with waiting := l.waiting.filter fun m => m != e.adm } :: ls) ls' ∧
        ((∀ i, s.inputAt g.channel = some i → i.level ≠ (match g.level with
            | .high => .high
            | .low => .low)) →
          exec .guardReevaluation s = .next { s with levelChanges := ls' }) ∧
        (s.meets g → ∃ s1 t, s1 = { s with levelChanges := ls' } ∧ exec .guardReevaluation s = .next t ∧
          s1.goesOnTo e (fun _ level release => s1.handsOver e level release) t)

/-- The end of an occurrence of a queued entry: its report goes to the owner alone, ACTION_FAILED always and
ACTION_DONE with REPORT set, with the late indication of more than 10 ticks; without a later occurrence the entry
leaves the queue, and else its successor stands there, due one period later, with a new admission number. Occurrences
earlier than now are passed over one by one: each counts as skipped, up to 65535, and the next is one period later
with one fewer remaining, unless none remains or it would lie beyond 2^48 - 1. Then the entry leaves the queue and its
owner is given ACTION_EXPIRED with the last due time passed over and the skipped count (R63, R64, R67, R68). Model's
choice: skipping past 2^48 - 1 (log entry 15). -/
def Obligations.OccurrenceEnds : Prop :=
  (∀ (s : State) (e : Entry) (reason : FailReason) (time : Nat) (done : Bool), s.queueLawful → e ∈ s.queue →
    ∃ (t : State) (body : ReportBody) (skipped : Nat),
      t = (if done then s.succeed e time else s.failOccurrence e reason time) ∧
      body = (if done then
          .actionDone ⟨e.handle, e.act.target, e.act.kind, e.due, decide (e.due + 10 < time), e.skipped⟩
        else .actionFailed
          ⟨e.handle, e.act.target, e.act.kind, e.due, decide (e.due + 10 < time), e.skipped⟩ reason) ∧
      skipped = (if done = true ∧ e.act.report = false then e.skipped else 0) ∧
      t = { s with queue := t.queue, nextAdmission := t.nextAdmission, reports := t.reports } ∧
      (∀ m, m ≠ e.owner → t.reportQueue m = s.reportQueue m) ∧
      (∀ x, x ∈ s.queue → x ≠ e → x ∈ t.queue) ∧
      (e.act.rep = none ∨ (∃ k, e.act.rep = some ⟨k, some 0⟩) ∨
          (∃ k m, e.act.rep = some ⟨k, m⟩ ∧ 2 ^ 48 - 1 < e.due + k) →
        (∀ x, x ∈ t.queue ↔ x ∈ s.queue ∧ x ≠ e) ∧
        t.reportQueue e.owner = (if done = true ∧ e.act.report = false then s.reportQueue e.owner
          else (s.addReport e.owner time body).reportQueue e.owner)) ∧
      (∀ k m, e.act.rep = some ⟨k, m⟩ → m ≠ some 0 → e.due + k ≤ 2 ^ 48 - 1 → s.now ≤ e.due + k →
        (∀ x, x ∈ t.queue ↔ x ∈ s.queue ∧ x ≠ e ∨ x = { e with
          adm := s.nextAdmission, phase := .waitingTime (e.due + k), skipped := skipped
          act := { e.act with rep := some ⟨k, m.map fun j => j - 1⟩ } }) ∧
        t.reportQueue e.owner = (if done = true ∧ e.act.report = false then s.reportQueue e.owner
          else (s.addReport e.owner time body).reportQueue e.owner)) ∧
      ∀ k m, e.act.rep = some ⟨k, m⟩ → m ≠ some 0 → e.due + k ≤ 2 ^ 48 - 1 → e.due + k < s.now →
        ∃ s1, s1 = (if done = true ∧ e.act.report = false then s else s.addReport e.owner time body) ∧
          (match advance (e.due + k) (m.map fun j => j - 1) k s.now skipped with
          | .queued next left count =>
            (∀ x, x ∈ t.queue ↔ x ∈ s.queue ∧ x ≠ e ∨ x = { e with
              adm := s.nextAdmission, phase := .waitingTime next, skipped := count
              act := { e.act with rep := some ⟨k, left⟩ } }) ∧
            t.reportQueue e.owner = s1.reportQueue e.owner
          | .ended last count =>
            (∀ x, x ∈ t.queue ↔ x ∈ s.queue ∧ x ≠ e) ∧
            t.reportQueue e.owner = (s1.addReport e.owner s.now
              (.actionExpired e.handle e.act.target e.act.kind last count false)).reportQueue e.owner)) ∧
  (∀ (due : Nat) (remaining : Option Nat) (period now skipped : Nat), 1 ≤ period → due ≤ 2 ^ 48 - 1 →
    skipped ≤ 65535 →
    (now ≤ due → advance due remaining period now skipped = .queued due remaining skipped) ∧
    (due < now → remaining = some 0 ∨ 2 ^ 48 - 1 < due + period →
      advance due remaining period now skipped = .ended due (min (skipped + 1) 65535)) ∧
    (due < now → remaining ≠ some 0 → due + period ≤ 2 ^ 48 - 1 →
      advance due remaining period now skipped =
        advance (due + period) (remaining.map fun k => k - 1) period now (min (skipped + 1) 65535)))

/-- ACTION_DRIVE: the drive request on its way is returned, the entry staying as it stands, when its session has ended
or does not own the target, or the target is held or the part STOPPED; on a FAULTED target it fails unless it asks for
the safe level without a release time, and it fails when it makes the target ACTIVE while a record is not clear; else
it is taken: level, release time, last-off time, pins and settle window, and the occurrence succeeds. An entry removed
meanwhile makes no report (R21, R23, R49, R62, R83, R110, R134). Model's choices: one drive request on its way at
most, and whose it is (log entries 8, 12). -/
def Obligations.ActionDriveTaken : Prop :=
  ∀ (s s0 : State) (f : InFlight) (o : Output), s.inFlight = some f → s0 = { s with inFlight := none } →
    s.outputAt f.target = some o →
    (f.owner = none ∨ o.owner ≠ f.owner ∨ o.held = true ∨ s.stop.run = .stopped →
      exec .actionDrive s = .next s0) ∧
    (f.owner ≠ none → o.owner = f.owner → o.held = false → s.stop.run = .running →
      (o.isFaulted = true → f.level = o.cfg.safe → f.release = none →
        exec .actionDrive s = .next (s0.endingOf f.adm fun t e => t.succeed e f.fireTime)) ∧
      (o.isFaulted = true → f.level ≠ o.cfg.safe ∨ f.release ≠ none →
        exec .actionDrive s =
          .next (s0.endingOf f.adm fun t e => t.failOccurrence e .channelFaulted s.now)) ∧
      (o.isFaulted = false → o.level = .inactive → f.level = .active →
        (∃ i r, s.interlock i = some r ∧ r.a ≠ r.b ∧ (s.outputAt r.a).isSome = true ∧
          (s.outputAt r.b).isSome = true ∧ ¬s.clearOf f.target r) →
        exec .actionDrive s =
          .next (s0.endingOf f.adm fun t e => t.failOccurrence e .interlocked s.now)) ∧
      (o.isFaulted = false → o.level = .active ∨ f.level = .inactive ∨
          (∀ i r, s.interlock i = some r → s.clearOf f.target r) →
        exec .actionDrive s = .next
          (((s0.setChan f.target (.output (o.takes f s.now s.elapsed))).setPins o.cfg.pins
            (.driving f.target (o.cfg.presents f.level))).endingOf f.adm
              fun t e => t.succeed e f.fireTime)))

/-- SETTLE_END at the end of the settle window reads every pin: under PUSH_PULL each is judged against its intended
level, under OPEN_DRAIN only when that is LOW. If all judged pins match, the condition becomes READY; if not, the
channel enters FAULTED with the pins that do not match, in the order of its pin list, as its fault pins. The level,
polarity and drive judged are those of the channel when the window ends (R25). -/
def Obligations.SettleEndJudgesPins : Prop :=
  ∀ (s : State) (c k : Nat) (o : Output) (wires : BitVec 24) (want : Bool) (bad : List Nat),
    s.outputAt c = some o → o.condition = .settling k → k ≤ s.elapsed →
    want = decide (o.level = .active ↔ o.cfg.polarity = .activeHigh) →
    bad = (if o.cfg.drive = .openDrain ∧ want = true then []
      else o.cfg.pins.filter fun q => wires.getLsbD q != want) →
    (bad = [] → exec (.settleEnd c wires) s = .next (s.setChan c (.output { o with condition := .ready }))) ∧
    (bad ≠ [] → ∃ t o', exec (.settleEnd c wires) s = .next t ∧ t.outputAt c = some o' ∧
      o'.condition = .faulted bad)

/-- Fault entry: the output is at its safe level with no release time, its last-off time set if it leaves ACTIVE, its
pins presenting that level, and without a settle window; its owner, if any, is given CHANNEL_FAULT with the fault pins
and the level that was verified. A channel whose safe level is ACTIVE and that is INACTIVE first breaks its partners:
each one that is ACTIVE and not FAULTED is driven INACTIVE, its pins with it. Nothing else changes. Before the
window's end SETTLE_END does nothing (R24, R26, R85). Model's choice: SETTLE_END before the end of the window (log
entry 2). -/
def Obligations.FaultEntered : Prop :=
  ∀ (s : State) (c k : Nat) (o : Output) (wires : BitVec 24), s.outputAt c = some o →
    o.condition = .settling k →
    (s.elapsed < k → exec (.settleEnd c wires) s = .next s) ∧
    (k ≤ s.elapsed → o.mismatches wires ≠ [] → ∃ u, exec (.settleEnd c wires) s = .next
        (match o.owner with
        | some n => u.addReport n s.now (.channelFault c (o.mismatches wires) o.level)
        | none => u) ∧
      u.outputAt c = some { o with
        level := o.cfg.safe
        lastOff := if o.level = .active ∧ o.cfg.safe = .inactive then some s.now else o.lastOff
        release := none, condition := .faulted (o.mismatches wires) } ∧
      (∀ q ∈ o.cfg.pins, q < 24 → u.pin q = .driving c (o.cfg.presents o.cfg.safe)) ∧
      u = { s with channels := u.channels, pins := u.pins } ∧
      ∀ broken : Nat → Output → Prop,
        (∀ d od, broken d od ↔ d ≠ c ∧ s.outputAt d = some od ∧ o.cfg.safe = .active ∧ o.level = .inactive ∧
          od.level = .active ∧ od.isFaulted = false ∧
            ∃ i r, s.interlock i = some r ∧ (r.a = c ∧ r.b = d ∨ r.a = d ∧ r.b = c)) →
        (∀ d od, broken d od → u.outputAt d = some (od.drivenTo .inactive s.now s.elapsed) ∧
          (s.pinsAgree → ∀ q ∈ od.cfg.pins, u.pin q = .driving d (od.cfg.presents .inactive))) ∧
        (∀ d, d ≠ c → (∀ od, ¬broken d od) → u.chan d = s.chan d) ∧
        ∀ q, q ∉ o.cfg.pins → (∀ d od, broken d od → q ∉ od.cfg.pins) → u.pin q = s.pin q)

/-- INPUT_SAMPLE at the sample time: the qualified level discards the candidate; another level is counted from the
device time of its first sample; the sample that completes the qualify count makes it the qualified level, and from a
known level it is an edge, timestamped with that first sample and handed to the subscribers, the Trigger Unit and,
with the entries then waiting on the channel, the Schedule Engine. Before the sample time nothing happens (R29 to
R32). Model's choices: the hand-over of reports and of waiting entries, and when a sample may be taken (log entries 3,
7, 11). -/
def Obligations.InputSampleQualifies : Prop :=
  ∀ (s : State) (c : Nat) (i : Input) (l : PinLevel) (q : QLevel) (k first : Nat) (waiting : List Nat),
    s.inputAt c = some i → q = (match l with
      | .high => .high
      | .low => .low) →
    (i.candidate = some ⟨l, k, first⟩ ∨
      (∀ k' first', i.candidate ≠ some ⟨l, k', first'⟩) ∧ k = 0 ∧ first = s.now) →
    waiting = ((s.queue.filter fun e => e.phase.isWaitingGuard && (e.act.grd.any fun g => g.channel == c) &&
      (s.session e.owner).isOpen && decide (s.stop.run = .running)).map Entry.adm) →
    (s.elapsed < i.nextSample → exec (.inputSample c l) s = .next s) ∧
    (i.nextSample ≤ s.elapsed →
      (i.level = q → exec (.inputSample c l) s = .next (s.setChan c (.input
        { i with candidate := none, nextSample := i.nextSample + i.interval }))) ∧
      (i.level ≠ q → k + 1 < i.qualify → exec (.inputSample c l) s = .next (s.setChan c (.input
        { i with candidate := some ⟨l, k + 1, first⟩, nextSample := i.nextSample + i.interval }))) ∧
      (i.level ≠ q → i.qualify ≤ k + 1 →
        (i.level = .unknown → exec (.inputSample c l) s = .next
          { s.setChan c (.input
              { i with level := q, candidate := none, nextSample := i.nextSample + i.interval }) with
            levelChanges := s.levelChanges ++ (if waiting = [] then [] else [⟨c, waiting⟩]) }) ∧
        (i.level ≠ .unknown → exec (.inputSample c l) s = .next
          { s.setChan c (.input
              { i with
                level := q, candidate := none, lastEdge := some first
                nextSample := i.nextSample + i.interval }) with
            edges := s.edges ++ [⟨c, decide (l = .high), first⟩]
            handed := s.handed ++ (([1, 2, 3, 4, 5].filter fun m => i.subscribers.contains m).map fun m =>
              ⟨m, s.now, .inputEdge c (decide (l = .high)) first⟩)
            levelChanges := s.levelChanges ++ (if waiting = [] then [] else [⟨c, waiting⟩]) })))

/-! ### The Plan Store and the Plan Loader -/

/-- PLAN_BEGIN of a SERVICE session with the key creates an empty build and replies the slot's capacity, or is refused
with BUILD_ACTIVE; its body is read exactly from its bytes. PLAN_PUT appends its records, each of its kind's size and
read exactly from its bytes, in range and in plan order, and is refused whole, with PLAN_TOO_LARGE and the room left,
when they do not fit, and with MALFORMED and the position of the first record that fails; PLAN_ABANDON discards the
build. Both are refused with NO_BUILD, whatever the key and the body, when there is no build or another session owns
it, and else without the key with NOT_PERMITTED (R160 to R164, R192, R193). Model's choices: the widths of the counts
in the replies, where the unused places of a pin list stand, and flag bits without a use (log entries 22 to 24). -/
def Obligations.BuildGrows : Prop :=
  (∀ (body : List Byte) (k : Nat) (name : List Byte) (auto : Bool),
    readPlanBegin body = some (k, name, auto) ↔ planBeginBody k name auto body) ∧
  (∀ (r : List Byte) (x : PlanRecord), r.length = recordSize (field r 0 1) →
    (readRecord r = some x ↔ x.recordBytes r)) ∧
  (∀ (r rest : List Byte) (k : Byte), r = k :: rest →
    recordSize (field r 0 1) = (if k = 0x10 ∨ k = 0x20 then 8 else if k = 0x30 then 12 else if k = 0x40 then 16
      else if k = 0x41 ∨ k = 0x42 then 24 else if k = 0x43 then 32 else 0) ∧
    recordGroup r = (if k = 0x10 then 0 else if k = 0x20 then 1 else if k = 0x30 then 2 else 3)) ∧
  (∀ b : Build, (b.records = [] → b.group = 0) ∧
    ∀ (rs : List (List Byte)) (r : List Byte), b.records = rs ++ [r] → b.group = recordGroup r) ∧
  ∀ (s : State) (p : Port) (n : Nat) (h : HostSession) (f : Frame) (rest : List Frame), h.cls = .service →
    (s.receives p n h f rest 0x48 → (∀ k name auto, ¬planBeginBody k name auto f.body) →
      exec (.planBegin p true) s = .next (s.answered p n h f rest .malformed [])) ∧
    ((∀ b, s.build = some b → b.owner ≠ n) → ∀ key : Bool,
      (s.receives p n h f rest 0x49 →
        exec (.planPut p key) s = .next (s.answered p n h f rest .noBuild [])) ∧
      (s.receives p n h f rest 0x4A →
        exec (.planAbandon p key) s = .next (s.answered p n h f rest .noBuild []))) ∧
    (∀ b, s.build = some b → b.owner = n →
      (s.receives p n h f rest 0x49 →
        exec (.planPut p false) s = .next (s.answered p n h f rest .notPermitted [])) ∧
      (s.receives p n h f rest 0x4A →
        exec (.planAbandon p false) s = .next (s.answered p n h f rest .notPermitted []) ∧
        (f.body ≠ [] → exec (.planAbandon p true) s = .next (s.answered p n h f rest .malformed [])))) ∧
    (∀ k name auto, s.receives p n h f rest 0x48 → planBeginBody k name auto f.body →
      (s.build = none → exec (.planBegin p true) s = .next
        { s.answered p n h f rest .ok (leBytes 2 (if k < 3 then 4096 else 12288)) with
          build := some ⟨n, k, name, auto, []⟩ }) ∧
      (s.build.isSome = true →
        exec (.planBegin p true) s = .next (s.answered p n h f rest .buildActive []))) ∧
    ∀ b, s.build = some b → b.owner = n →
      (∀ (rs : List (List Byte)) (bad more : List Byte), s.receives p n h f rest 0x49 →
        (∀ r ∈ bad :: rs, r ≠ [] ∧ recordSize (field r 0 1) = r.length) →
        (∀ r ∈ rs, (readRecord r).isSome = true) → (b.group :: rs.map recordGroup).Pairwise (· ≤ ·) →
        (f.body = rs.flatten →
          (b.size + rs.flatten.length ≤ Config.slotCapacity b.slot → exec (.planPut p true) s = .next
            { s.answered p n h f rest .ok (u8 rs.length ++ leBytes 2 (b.records ++ rs).length ++
                leBytes 2 (b.size + rs.flatten.length)) with
              build := some { b with records := b.records ++ rs } }) ∧
          (Config.slotCapacity b.slot < b.size + rs.flatten.length → exec (.planPut p true) s = .next
            (s.answered p n h f rest .planTooLarge (leBytes 2 (Config.slotCapacity b.slot - b.size))))) ∧
        (f.body = rs.flatten ++ bad ++ more →
          readRecord bad = none ∨ (∃ g ∈ b.group :: rs.map recordGroup, recordGroup bad < g) →
          exec (.planPut p true) s = .next (s.answered p n h f rest .malformed (u8 rs.length)))) ∧
      (s.receives p n h f rest 0x4A → f.body = [] → exec (.planAbandon p true) s = .next
        { s.answered p n h f rest .ok (leBytes 2 b.records.length ++ leBytes 2 b.size) with build := none })

/-- PLAN_COMMIT and PLAN_ERASE of a SERVICE session with the key and PLAN_LOAD begin their operation in an idle store
and are refused in their order: STORE_BUSY, then LOW_SUPPLY and for slot 0 STORE_PROTECTED, or for PLAN_LOAD
SLOT_INVALID. Before those, a PLAN_COMMIT is refused with NO_BUILD, whatever the key, the body and the store, when there
is no build or another session owns it, then without the key with NOT_PERMITTED, and with MALFORMED for a body that is
not empty. A commit takes name, autostart and size from the build and ends it; an erase clears them; both make the slot
ERASING without a check and keep its generation (R166, R168, R176). Model's choices: the contents of a slot that is not
VALID, and the numbers of a load's start (log entries 34, 43). -/
def Obligations.StoreOperationsBegin : Prop :=
  ∀ (s : State) (p : Port) (prot : Bool) (n : Nat) (h : HostSession) (f : Frame) (rest : List Frame),
    (s.receives p n h f rest 0x4B → h.cls = .service →
      ((∀ b, s.build = some b → b.owner ≠ n) → ∀ key : Bool,
        exec (.planCommit p key prot) s = .next (s.answered p n h f rest .noBuild [])) ∧
      ∀ b, s.build = some b → b.owner = n →
        exec (.planCommit p false prot) s = .next (s.answered p n h f rest .notPermitted []) ∧
        (f.body ≠ [] → exec (.planCommit p true prot) s = .next (s.answered p n h f rest .malformed []))) ∧
    (∀ b, s.receives p n h f rest 0x4B → h.cls = .service → f.body = [] → s.build = some b → b.owner = n →
      (s.store ≠ .idle →
        exec (.planCommit p true prot) s = .next (s.answered p n h f rest .storeBusy [])) ∧
      (s.store = .idle → s.supply = .low →
        exec (.planCommit p true prot) s = .next (s.answered p n h f rest .lowSupply [])) ∧
      (s.store = .idle → s.supply = .normal → b.slot = 0 → prot = true →
        exec (.planCommit p true prot) s = .next (s.answered p n h f rest .storeProtected [])) ∧
      (s.store = .idle → s.supply = .normal → b.slot ≠ 0 ∨ prot = false →
        exec (.planCommit p true prot) s = .next
          { (s.answered p n h f rest .ok (u8 b.slot ++ leBytes 2 b.size)).setSlot b.slot
              ⟨.erasing, some b.name, b.autostart, (s.slot b.slot).generation, b.size, none, []⟩ with
            store := .commitErasing b.slot (some n) b.records.flatten, build := none })) ∧
    (∀ k, s.receives p n h f rest 0x4C → h.cls = .service → f.body = u8 k → k ≤ 7 →
      (s.store ≠ .idle →
        exec (.planErase p true prot) s = .next (s.answered p n h f rest .storeBusy [])) ∧
      (s.store = .idle → s.supply = .low →
        exec (.planErase p true prot) s = .next (s.answered p n h f rest .lowSupply [])) ∧
      (s.store = .idle → s.supply = .normal → k = 0 → prot = true →
        exec (.planErase p true prot) s = .next (s.answered p n h f rest .storeProtected [])) ∧
      (s.store = .idle → s.supply = .normal → k ≠ 0 ∨ prot = false →
        exec (.planErase p true prot) s = .next
          { (s.answered p n h f rest .ok (u8 k)).setSlot k
              ⟨.erasing, none, false, (s.slot k).generation, 0, none, []⟩ with
            store := .erasing k (some n) })) ∧
    ∀ k (start : LoadStart), s.receives p n h f rest 0x4E → h.cls ≠ .observer → k ≤ 7 →
      (start = .now ∧ f.body = u8 k ++ [0] ∨
        (∃ d, d < 2 ^ 32 ∧ start = .after d ∧ f.body = u8 k ++ [1] ++ leBytes 4 d) ∨
        ∃ d, d < 2 ^ 48 ∧ start = .atTime d ∧ f.body = u8 k ++ [2] ++ leBytes 6 d) →
      (s.store ≠ .idle → exec (.planLoad p) s = .next (s.answered p n h f rest .storeBusy [])) ∧
      (s.store = .idle → (s.slot k).state ≠ .valid →
        exec (.planLoad p) s = .next (s.answered p n h f rest .slotInvalid [])) ∧
      (s.store = .idle → (s.slot k).state = .valid → exec (.planLoad p) s = .next
        { s.answered p n h f rest .ok
            (u8 k ++ leBytes 4 (s.slot k).generation ++ leBytes 2 (s.slot k).size) with
          store := .reading k (some n) start })

/-- ERASE_PHASE_END takes a commit on to PROGRAMMING. PROGRAMMING_PHASE_END makes the slot VALID, with its check, its
contents and its generation raised by one, when the bytes read back are those held, and else INVALID. ERASE_END makes
the slot EMPTY. A supply going LOW aborts a commit or an erase, its slot INVALID, and touches no read; going NORMAL it
changes the level alone. The requesting session, if any, is given STORE_DONE or STORE_FAILED (R159, R167, R168, R171,
R172). Model's choices: what is read back, how it is compared, a slot that is not VALID, and the programming phase of a
plan of size 0 (log entries 29, 33, 34, 47). -/
def Obligations.StoreOperationsEnd : Prop :=
  ∀ (s : State) (k : Nat) (m : Option Nat) (image : List Byte) (r : Slot) (told : State → ReportBody → State),
    r = s.slot k → (∀ t b, told t b = (match m with
      | some x => t.addReport x t.now b
      | none => t)) →
    (s.store = .commitErasing k m image → exec .erasePhaseEnd s = .next
      { s.setSlot k { r with state := .programming } with store := .commitProgramming k m image }) ∧
    (s.store = .commitProgramming k m image → ∀ back : Option (List Byte),
      (back = none ∨ back = some image ∨ image = [] → exec (.programmingPhaseEnd back) s = .next
        (told
          { s.setSlot k { r with
              state := .valid, check := some (crc32 image), contents := image
              generation := (r.generation + 1) % 2 ^ 32 } with store := .idle }
          (.storeDone false k .valid ((r.generation + 1) % 2 ^ 32) r.size))) ∧
      ∀ bytes, back = some bytes → bytes ≠ image → image ≠ [] → exec (.programmingPhaseEnd back) s = .next
        (told
          { s.setSlot k { r with state := .invalid, check := none, contents := [] } with store := .idle }
          (.storeFailed true false k))) ∧
    (s.store = .erasing k m → exec .eraseEnd s = .next
      (told { s.setSlot k { r with state := .empty } with store := .idle }
        (.storeDone true k .empty r.generation 0))) ∧
    (s.supply = .normal →
      (s.store = .idle ∨ (∃ start, s.store = .reading k m start) →
        exec (.supplyChange .low) s = .next { s with supply := .low }) ∧
      ∀ erase, erase = false ∧ (s.store = .commitErasing k m image ∨ s.store = .commitProgramming k m image) ∨
          erase = true ∧ s.store = .erasing k m →
        exec (.supplyChange .low) s = .next
          (told
            { s.setSlot k { r with state := .invalid, check := none, contents := [] } with
              store := .idle, supply := .low }
            (.storeFailed false erase k))) ∧
    (s.supply = .low → exec (.supplyChange .normal) s = .next { s with supply := .normal })

/-- READ_COMPLETION ends the read: bytes that do not match the slot's check make it INVALID, with LOAD_FAILED to the
target; then a load whose target has ended has no effect; and else the plan that the bytes hold is judged and applied
for the target record by record, each kind by its row of R178 and its row of R179. The first record that fails leaves
the state as it was but for LOAD_FAILED with its index and code; a plan that passes gives LOAD_DONE with the count of
each kind and the base time. The startup load sets the startup outcome, and its failure frees the LOCAL session (R159,
R160, R177 to R182). Model's choices: what is read, bytes that hold no plan, and a slot that is not VALID (log entries
29, 34). -/
def Obligations.ReadCompletes : Prop :=
  (∀ (rs : List (List Byte)) (xs : List PlanRecord) (bad : List Byte), rs.map readRecord = xs.map some →
    (∀ r ∈ rs, r ≠ [] ∧ recordSize (field r 0 1) = r.length) →
    readPlan rs.flatten.length rs.flatten = xs ∧
      (bad ≠ [] → recordSize (field bad 0 1) = 0 ∨ bad.length < recordSize (field bad 0 1) ∨
          readRecord (bad.take (recordSize (field bad 0 1))) = none →
        readPlan (rs.flatten ++ bad).length (rs.flatten ++ bad) = xs ++ [.unreadable])) ∧
  ∀ (s : State) (k : Nat) (m : Option Nat) (start : LoadStart) (bytes : List Byte), s.store = .reading k m start →
    ((s.slot k).contents = bytes → exec (.readCompletion none) s = exec (.readCompletion (some bytes)) s) ∧
    ((s.slot k).check ≠ some (crc32 bytes) →
      ∃ t, exec (.readCompletion (some bytes)) s = .next t ∧ t.store = .idle ∧
        (k < 8 → t.slot k = { s.slot k with state := .invalid, check := none, contents := [] }) ∧
        (∀ j, j ≠ k → t.slot j = s.slot j) ∧ (m = some 5 → t.startup = .corrupt ∧ t.session 5 = .free) ∧
        (m = some 5 → s.pairsKept → State.endedWith
          { s.setSlot k (t.slot k) with store := .idle, startup := .corrupt } 5 t) ∧
        (m = none → t = { s.setSlot k (t.slot k) with store := .idle }) ∧
        ∀ x, m = some x → x ≠ 5 →
          t = { s.setSlot k (t.slot k) with store := .idle }.addReport x s.now (.loadCorrupt k)) ∧
    ((s.slot k).check = some (crc32 bytes) →
      (m = none → exec (.readCompletion (some bytes)) s = .next { s with store := .idle }) ∧
      ∀ (x base : Nat) (plan : List PlanRecord) (counts : LoadCounts), m = some x →
        base = min (2 ^ 48 - 1) (match start with
          | .now => s.now
          | .after d => s.now + d
          | .atTime d => d) →
        plan = readPlan bytes.length bytes →
        counts = ⟨plan.countP (fun y => y.kindCode == 0x10), plan.countP (fun y => y.kindCode == 0x20),
          plan.countP (fun y => y.kindCode == 0x30), plan.countP (fun y => y.kindCode == 0x40), base⟩ →
        (∃ i code, State.planRuns x base 0 plan { s with store := .idle } (.error (i, code)) ∧
          (x ≠ 5 → exec (.readCompletion (some bytes)) s = .next
            ({ s with store := .idle }.addReport x s.now (.loadRecord k i code))) ∧
          (x = 5 → ∃ t, exec (.readCompletion (some bytes)) s = .next t ∧ t.startup = .failed i code ∧
            t.session 5 = .free ∧
            (s.pairsKept → State.endedWith { s with store := .idle, startup := .failed i code } 5 t))) ∨
        ∃ u, State.planRuns x base 0 plan { s with store := .idle } (.ok u) ∧
          exec (.readCompletion (some bytes)) s = .next
            (if x = 5 then { u.addReport x s.now (.loadDone k counts) with startup := .loaded counts }
            else u.addReport x s.now (.loadDone k counts)))

/-! ### The ports and the resets -/

/-- DEVICE_RESET of a SERVICE session with the key is refused with STORE_BUSY while a store operation is in flight,
and else accepted: its reply is placed but not cached, and from then on neither handler takes a frame. The reset
itself comes with the reply, or on Port B 10,000 ticks after acceptance (R186, R190). Model's choices: the expected
sequence, and a timeout that is not due (log entries 2, 32). -/
def Obligations.DeviceResetAccepted : Prop :=
  ∀ (s : State) (p : Port) (n : Nat) (h : HostSession) (f : Frame) (rest : List Frame),
    (s.receives p n h f rest 0x50 → h.cls = .service → f.body = [] →
      (s.store ≠ .idle → exec (.deviceReset p true) s = .next (s.answered p n h f rest .storeBusy [])) ∧
      (s.store = .idle → ∃ t, exec (.deviceReset p true) s = .next t ∧
        t = { (s.setSession n (.host { h with
                life := .opened (s.elapsed + h.interval), expected := (h.expected + 1) % 256 })).setLink p
              { s.link p with
                fifo := rest, replies := (s.link p).replies ++ [⟨⟨f.ses, f.seq, 0xD0, [0x00]⟩, true⟩] } with
          deviceReset := some ⟨p, s.elapsed + 10000⟩ } ∧
        t.canTake .a = false ∧ t.canTake .b = false)) ∧
    ∀ r, s.deviceReset = some r →
      (r.port = .b → r.deadline ≤ s.elapsed → exec .deviceResetTimeout s = .next s.softReset) ∧
      (r.port = .a ∨ s.elapsed < r.deadline → exec .deviceResetTimeout s = .next s)

/-- A soft reset, and with further effects HARD_RESET, leaves every pin ISOLATED, every channel unbound, the queue and
all work handed on empty, the handle counter at 1, both tables free, the part RUNNING with its gate closed and SAFE_N
released, every session FREE with no report, no build, and the ports empty. A Port A frame whose sending has begun is
still sent, and brings no reset with it; a READ in progress is cut; the lines' past bytes stay. A soft reset keeps the
Timebase, the slots, the store operation, the supply level, the straps and the counts; a hard one sets the Timebase to
its reset values, samples the straps, sets the counts to 0, ends the store operation, and scans the slots: a slot found
ERASING, PROGRAMMING, or VALID with another check becomes INVALID (R12, R13, R36, R73, R87, R104, R116, R142, R174,
R189 to R191). Model's choices: the admission number and the last byte's time after a reset, the frame being sent at a
hard reset, the scan in the one step, the first sample of STOP_N, a slot that is not VALID, and a store request waiting
in a FIFO (log entries 26 to 29, 31, 34, 48). -/
def Obligations.ResetsClear : Prop :=
  ∀ (s : State) (b1 b0 : Bool) (level : SupplyLevel) (found : List (Nat × List Byte)), ∃ t,
    exec (.hardReset b1 b0 level found) s = .next t ∧
    (∀ u, u = t ∨ u = s.softReset →
      (∀ q, u.pin q = .isolated) ∧ (∀ c, u.chan c = .unbound) ∧ u.queue = [] ∧ u.handleCounter = 1 ∧
      u.inFlight = none ∧ u.levelChanges = [] ∧ u.fireRequests = [] ∧ u.edges = [] ∧ u.handed = [] ∧
      (∀ i, u.interlock i = none) ∧ (∀ i, u.trigger i = none) ∧ u.stop.run = .running ∧
      u.stop.line = false ∧ u.stop.request = false ∧ u.stop.level = .unknown ∧ u.stop.candidate = none ∧
      u.stop.entryTime = none ∧ u.stop.gateOpen = false ∧ u.stop.safeAsserted = false ∧
      (∀ n, u.session n = .free ∧ u.reportQueue n = ⟨[], 0, 0, 0⟩) ∧ u.build = none ∧
      u.startup = .nothing ∧ u.offered = none ∧ u.deviceReset = none ∧ u.rxA.phase = .hunt ∧
      u.nextAdmission = 0 ∧ u.txd = s.txd ∧ u.miso = s.miso ∧ u.pending = s.pending ∧
      (s.sendingA = none → u.sendingA = none) ∧ (∀ f, s.sendingA = some f → u.sendingA = some ⟨f.frame, false⟩) ∧
      (s.reading = none → u.reading = none) ∧
      (∀ r, s.reading = some r → u.reading = some ⟨r.stream, r.frame, true⟩) ∧
      ∀ p, (u.link p).fifo = [] ∧ (u.link p).replies = [] ∧ (u.link p).lastServed = 4) ∧
    s.softReset.time = s.time ∧ s.softReset.slots = s.slots ∧ s.softReset.store = s.store ∧
    s.softReset.supply = s.supply ∧ s.softReset.baud = s.baud ∧ s.softReset.rxA.lastByte = s.rxA.lastByte ∧
    s.softReset.stop.nextSample = s.elapsed + 1 ∧ t.stop.nextSample = 0 ∧ t.rxA.lastByte = 0 ∧
    (∀ p, (s.softReset.link p).errors = (s.link p).errors ∧ (s.softReset.link p).overflows = (s.link p).overflows) ∧
    t.baud = (b1, b0) ∧ (∀ p, (t.link p).errors = 0 ∧ (t.link p).overflows = 0) ∧
    t.time = ⟨0, false, ⟨0, 3600⟩, 0, none, 0⟩ ∧ t.store = .idle ∧ t.supply = level ∧
    ∀ k r bytes, k < 8 → r = s.slot k → bytes = (found.lookup k).getD r.contents →
      t.slot k = (match r.state with
        | .empty => r
        | .invalid => r
        | .valid =>
          if r.check = some (crc32 bytes) then { r with contents := bytes }
          else { r with state := .invalid, check := none, contents := [] }
        | _ => { r with state := .invalid, check := none, contents := [] })

/-- A frame sent whole on Port A to a receiver in HUNT joins the receive FIFO, or counts as an overflow when four
wait, and the receiver hunts again; a LEN out of 5 to 253 and a CRC that does not match count as an error. In HUNT a
byte other than 0xA7, and any byte with a bad stop bit, is ignored and not counted. In HEADER and BODY a byte with a bad
stop bit is an error and the receiver hunts again; a good LEN begins the body, and a byte before the last is kept. A gap
of more than 20 ticks there, taken by PORT_A_GAP_TIMEOUT, is an error, and nothing before it is kept. Bytes are taken
one after another (R183, R189, R192). Model's choices: a gap timeout that is not due, and a byte that comes after the
gap limit (log entries 2, 37). -/
def Obligations.PortAReceives : Prop :=
  ∀ (s : State) (line : List Byte → List RxByte), (∀ bs, line bs = bs.map fun b => ⟨b, true⟩) →
    (s.rxA.phase = .hunt →
      (∀ f : Frame, f.body.length ≤ 248 →
        (s.linkA.fifo.length < 4 → exec (.portAFrame (line (0xA7 :: f.bytes))) s = .next
          { s with linkA := { s.linkA with fifo := s.linkA.fifo ++ [f] }, rxA := ⟨.hunt, s.elapsed⟩ }) ∧
        (4 ≤ s.linkA.fifo.length → exec (.portAFrame (line (0xA7 :: f.bytes))) s = .next
          { s with
            linkA := { s.linkA with overflows := min (s.linkA.overflows + 1) 65535 }
            rxA := ⟨.hunt, s.elapsed⟩ })) ∧
      (∀ len : Byte, len.toNat < 5 ∨ 253 < len.toNat → exec (.portAFrame (line [0xA7, len])) s = .next
        { s with
          linkA := { s.linkA with errors := min (s.linkA.errors + 1) 65535 }
          rxA := ⟨.hunt, s.elapsed⟩ }) ∧
      ∀ (len : Byte) (kept : List Byte), 5 ≤ len.toNat → len.toNat ≤ 253 → kept.length = len.toNat →
        kept.drop (len.toNat - 2) ≠ leBytes 2 (crc16 (len :: kept.take (len.toNat - 2))).toNat →
        exec (.portAFrame (line (0xA7 :: len :: kept))) s = .next
          { s with
            linkA := { s.linkA with errors := min (s.linkA.errors + 1) 65535 }
            rxA := ⟨.hunt, s.elapsed⟩ }) ∧
    (∀ b : RxByte, s.rxA.phase = .hunt → b.value ≠ 0xA7 ∨ b.stopOk = false →
      exec (.portAFrame [b]) s = .next { s with rxA := ⟨.hunt, s.elapsed⟩ }) ∧
    (s.rxA.phase = .hunt → exec (.portAFrame [⟨0xA7, true⟩]) s = .next { s with rxA := ⟨.header, s.elapsed⟩ }) ∧
    (s.rxA.phase ≠ .hunt → s.elapsed ≤ s.rxA.lastByte + 20 →
      (∀ v : Byte, exec (.portAFrame [⟨v, false⟩]) s = .next
        { s with
          linkA := { s.linkA with errors := min (s.linkA.errors + 1) 65535 }
          rxA := ⟨.hunt, s.elapsed⟩ }) ∧
      (∀ v : Byte, s.rxA.phase = .header → 5 ≤ v.toNat → v.toNat ≤ 253 →
        exec (.portAFrame [⟨v, true⟩]) s = .next { s with rxA := ⟨.body v.toNat [], s.elapsed⟩ }) ∧
      ∀ (v : Byte) (len : Nat) (kept : List Byte), s.rxA.phase = .body len kept → kept.length + 1 < len →
        exec (.portAFrame [⟨v, true⟩]) s = .next { s with rxA := ⟨.body len (kept ++ [v]), s.elapsed⟩ }) ∧
    (∀ b : RxByte, s.rxA.phase ≠ .hunt → s.rxA.lastByte + 20 < s.elapsed →
      ∃ t, exec .portAGapTimeout s = .next t ∧ exec (.portAFrame [b]) s = exec (.portAFrame [b]) t) ∧
    (∀ (bs more : List RxByte) (t : State), exec (.portAFrame bs) s = .next t →
      exec (.portAFrame (bs ++ more)) s = exec (.portAFrame more) t) ∧
    (s.rxA.phase ≠ .hunt → s.rxA.lastByte + 20 < s.elapsed → exec .portAGapTimeout s = .next
      { s with
        linkA := { s.linkA with errors := min (s.linkA.errors + 1) 65535 }
        rxA := { s.rxA with phase := .hunt } }) ∧
    (s.rxA.phase = .hunt ∨ s.elapsed ≤ s.rxA.lastByte + 20 → exec .portAGapTimeout s = .next s)

/-- The idle Port A transmitter sends the oldest reply; without one, and with no DEVICE_RESET accepted, the oldest
unsent report of the first ready session after the last-served one, round from 4 to 1, which becomes sent. A frame
sent leaves TXA behind its sync byte, and with the reply to DEVICE_RESET comes the soft reset. A report frame has kind
0xF0, the session's number and sequence 0; its body is the report sequence, the missed count, the code of the report's
kind and the time, and then the fields of that kind, byte by byte (R144, R146, R152 to R157, R187, R190, R193).
Model's choices: a transmitter that is busy, a LOAD_FAILED(CORRUPT) without index and code, the widths of counts, TXA
as a list of bytes, and enumerations without a table (log entries 2, 21, 22, 26, 43). -/
def Obligations.PortATransmits : Prop :=
  ∀ s : State,
    (s.sendingA = none →
      (∀ x xs, s.linkA.replies = x :: xs → exec .portATransmit s = .next
        { s with linkA := { s.linkA with replies := xs }, sendingA := some x }) ∧
      (s.linkA.replies = [] →
        (s.deviceReset.isSome = true → exec .portATransmit s = .next s) ∧
        (s.deviceReset = none → ∀ j, j < 4 →
          (∀ i, i < j → s.readyOn .a ((s.linkA.lastServed + i) % 4 + 1) = false) →
          ∀ n q r, n = (s.linkA.lastServed + j) % 4 + 1 → q = s.reportQueue n → (s.routed .a n).isSome = true →
            q.sent < 8 → q.records[q.sent]? = some r → exec .portATransmit s = .next
              { s.setReportQueue n { q with sent := q.sent + 1 } with
                linkA := { s.linkA with lastServed := n }, sendingA := some ⟨reportFrame n r, false⟩ }))) ∧
    (s.sendingA.isSome = true → exec .portATransmit s = .next s) ∧
    (∀ n, s.readyOn .a n = true ↔ (∃ h, s.session n = .host h ∧ h.port = .a) ∧
      (s.reportQueue n).sent < (s.reportQueue n).records.length ∧ (s.reportQueue n).sent < 8) ∧
    (∀ (n : Nat) (r : Report) (occurrence : Occurrence → List Byte) (code : Byte) (fields : List Byte),
      (∀ o, occurrence o = leBytes 2 o.handle ++ u8 o.channel ++ u8 o.kind.code ++ leBytes 6 o.due ++
        [if o.late then 1 else 0] ++ leBytes 2 o.skipped) →
      (code, fields) = (match r.body with
        | .actionDone o => (0x01, occurrence o)
        | .actionFailed o reason => (0x02, occurrence o ++ [match reason with
          | .guardFalse => 0
          | .guardTimeout => 1
          | .interlocked => 2
          | .channelFaulted => 3
          | .queueFull => 4])
        | .actionExpired handle c kind due skipped remains => (0x03, leBytes 2 handle ++ u8 c ++ u8 kind.code ++
          leBytes 6 due ++ leBytes 2 skipped ++ [if remains then 1 else 0])
        | .actionCancelled handle c kind state =>
          (0x04, [0] ++ leBytes 2 handle ++ u8 c ++ u8 kind.code ++ u8 state.code)
        | .inputEdge c rising t => (0x05, u8 c ++ [if rising then 0 else 1] ++ leBytes 6 t)
        | .channelFault c pins level => (0x06, u8 c ++ pinPlaces pins ++ u8 level.code)
        | .ownershipLost c claimer removed => (0x07, u8 c ++ u8 claimer ++ leBytes 2 removed)
        | .triggerFired trigger source rising t scheduled failed => (0x08, u8 trigger ++ u8 source ++
          [if rising then 0 else 1] ++ leBytes 6 t ++ leBytes 2 scheduled ++ leBytes 2 failed)
        | .stopChange c => (0x09, u8 (presentBit c.firstSample 1 + presentBit c.entryTime 2) ++
          [match c.change with
            | .entered => 0
            | .causeAdded => 1
            | .causeRemoved => 2
            | .resumed => 3, if c.byLine then 0 else 1, if c.run = .running then 0 else 1] ++
          u8 ((if c.line then 1 else 0) + if c.request then 2 else 0) ++ u8 c.session ++
          (c.firstSample.map (leBytes 6)).getD [] ++ (c.entryTime.map (leBytes 6)).getD [])
        | .sessionNotice released => (0x0A, [0] ++ u8 released)
        | .storeDone erase slot state generation size => (0x0B, [if erase then 1 else 0] ++ u8 slot ++ u8 state.code ++
          leBytes 4 generation ++ leBytes 2 size)
        | .storeFailed verify erase slot =>
          (0x0C, [if verify then 1 else 0, if erase then 1 else 0] ++ u8 slot)
        | .loadDone slot k => (0x0D, u8 slot ++ leBytes 2 k.binds ++ leBytes 2 k.interlocks ++ leBytes 2 k.triggers ++
          leBytes 2 k.actions ++ leBytes 6 k.base)
        | .loadCorrupt slot => (0x0E, u8 slot ++ [0])
        | .loadRecord slot index result => (0x0E, u8 slot ++ [1] ++ leBytes 2 index ++ [result.code])) →
      reportFrame n r = ⟨BitVec.ofNat 8 n, 0, 0xF0,
        leBytes 2 r.seq ++ u8 r.missed ++ [code] ++ leBytes 6 r.time ++ fields⟩) ∧
    ∀ f, s.sendingA = some f →
      (f.resets = false → exec .portAFrameSent s = .next
        { s with sendingA := none, txd := 0xA7 :: f.frame.bytes }) ∧
      (f.resets = true → exec .portAFrameSent s = .next
        ({ s with sendingA := none, txd := 0xA7 :: f.frame.bytes } : State).softReset)

/-- WRITE of a whole frame joins the receive FIFO, or counts as an overflow when four wait; one that is cut, empty or
fails its CRC counts as an error. LEVEL shifts out the outbound count and the free places, an unknown command 0xFF with
an error counted. The outbound count is the offered frame, the replies waiting and, unless a DEVICE_RESET is accepted,
one for each Port B session with an unsent report and fewer than 8 sent; ATTN_N is asserted exactly while it is not 0.
READ shifts out the offered frame, or offers the oldest reply, or without one, and with no DEVICE_RESET accepted, the
oldest unsent report of the first ready session after the last-served one, round from 4 to 1, which becomes sent; or it
shifts out 0x00 when nothing waits. READ_END after every byte of an offered frame ends the offer, with the soft reset
after the reply to DEVICE_RESET, and after fewer the frame stays offered, whole; after 0x00, and of a READ that a reset
cut, whose bytes after the reset are 0xFF, it ends no offer. Nothing else of the part changes (R146, R184, R185, R187,
R189, R190). Model's choices: what a cut transaction keeps, MISO as a list of bytes, and a count that is computed (log
entries 26, 30, 41). -/
def Obligations.PortBTransacts : Prop :=
  (∀ (s : State) (ready : List Nat), ready.Nodup →
    (∀ n, n ∈ ready ↔ 1 ≤ n ∧ n ≤ 4 ∧ (∃ h, s.session n = .host h ∧ h.port = .b) ∧
      (s.reportQueue n).sent < (s.reportQueue n).records.length ∧ (s.reportQueue n).sent < 8) →
    s.outboundCount = (match s.offered with
      | some _ => 1
      | none => 0) + s.linkB.replies.length + (match s.deviceReset with
      | some _ => 0
      | none => ready.length) ∧
    (s.attnAsserted = true ↔ s.outboundCount ≠ 0) ∧
    ∀ n, s.readyOn .b n = true ↔ (∃ h, s.session n = .host h ∧ h.port = .b) ∧
      (s.reportQueue n).sent < (s.reportQueue n).records.length ∧ (s.reportQueue n).sent < 8) ∧
  (∀ s : State, s.reading = none →
    (∀ f : Frame, f.body.length ≤ 248 →
      (s.linkB.fifo.length < 4 → exec (.write f.bytes false) s = .next
        { s with
          linkB := { s.linkB with fifo := s.linkB.fifo ++ [f] }
          miso := List.replicate (f.bytes.length + 1) 0x00 }) ∧
      (4 ≤ s.linkB.fifo.length → exec (.write f.bytes false) s = .next
        { s with
          linkB := { s.linkB with overflows := min (s.linkB.overflows + 1) 65535 }
          miso := List.replicate (f.bytes.length + 1) 0x00 })) ∧
    (∀ (bytes : List Byte) (cut : Bool), cut = true ∨ bytes = [] ∨
        (∃ len kept, bytes = len :: kept ∧ (len.toNat < 5 ∨ 253 < len.toNat ∨ kept.length ≠ len.toNat ∨
          kept.drop (len.toNat - 2) ≠ leBytes 2 (crc16 (len :: kept.take (len.toNat - 2))).toNat)) →
      exec (.write bytes cut) s = .next
        { s with
          linkB := { s.linkB with errors := min (s.linkB.errors + 1) 65535 }
          miso := List.replicate (bytes.length + 1) 0x00 }) ∧
    (∀ k, 2 ≤ k → exec (.level k) s = .next { s with
      miso := [0x00] ++ u8 s.outboundCount ++ u8 (4 - s.linkB.fifo.length) ++ List.replicate (k - 2) 0xFF }) ∧
    ∀ (command : Byte) (k : Nat), command ≠ 0xB1 → command ≠ 0xB2 → command ≠ 0xB3 →
      exec (.unknownSpiCommand command k) s = .next
        { s with
          linkB := { s.linkB with errors := min (s.linkB.errors + 1) 65535 }
          miso := [0x00] ++ List.replicate k 0xFF }) ∧
  (∀ s : State,
    (s.reading = none →
      (∀ f, s.offered = some f →
        exec .read s = .next { s with reading := some ⟨f.frame.bytes, true, false⟩ }) ∧
      (s.offered = none →
        (∀ x xs, s.linkB.replies = x :: xs → exec .read s = .next
          { s with
            linkB := { s.linkB with replies := xs }, offered := some x
            reading := some ⟨x.frame.bytes, true, false⟩ }) ∧
        (s.outboundCount = 0 → exec .read s = .next { s with reading := some ⟨[0x00], false, false⟩ }) ∧
        (s.linkB.replies = [] →
          (s.deviceReset.isSome = true →
            exec .read s = .next { s with reading := some ⟨[0x00], false, false⟩ }) ∧
          (s.deviceReset = none → ∀ j, j < 4 →
            (∀ i, i < j → s.readyOn .b ((s.linkB.lastServed + i) % 4 + 1) = false) →
            ∀ n q r, n = (s.linkB.lastServed + j) % 4 + 1 → q = s.reportQueue n → (s.routed .b n).isSome = true →
              q.sent < 8 → q.records[q.sent]? = some r → exec .read s = .next
                { s.setReportQueue n { q with sent := q.sent + 1 } with
                  linkB := { s.linkB with lastServed := n }, offered := some ⟨reportFrame n r, false⟩
                  reading := some ⟨(reportFrame n r).bytes, true, false⟩ })))) ∧
    (∀ k before : Nat,
      (s.reading = some ⟨[0x00], false, false⟩ → exec (.readEnd k before) s = .next
        { s with reading := none, miso := [0x00] ++ (0x00 :: List.replicate (k - 1) 0xFF).take k }) ∧
      ∀ (stream : List Byte) (frame : Bool), s.reading = some ⟨stream, frame, true⟩ → before ≤ k →
        exec (.readEnd k before) s = .next
          { s with
            reading := none
            miso := [0x00] ++ stream.take before ++ List.replicate (k - (stream.take before).length) 0xFF }) ∧
    ∀ (f : OutFrame) (k before : Nat), s.reading = some ⟨f.frame.bytes, true, false⟩ → s.offered = some f →
      (f.frame.bytes.length ≤ k →
        (f.resets = false → exec (.readEnd k before) s = .next
          { s with
            reading := none, offered := none
            miso := [0x00] ++ f.frame.bytes ++ List.replicate (k - f.frame.bytes.length) 0xFF }) ∧
        (f.resets = true → exec (.readEnd k before) s = .next
          ({ s with
            reading := none, offered := none
            miso := [0x00] ++ f.frame.bytes ++ List.replicate (k - f.frame.bytes.length) 0xFF } :
              State).softReset)) ∧
      (k < f.frame.bytes.length → exec (.readEnd k before) s = .next
        { s with reading := none, miso := [0x00] ++ f.frame.bytes.take k }))

/-! ### Laws that every step keeps -/

/-- The part right after a hard reset keeps every law of Safety.lean. Model's choice: the values of the reset state
that the rules do not give (log entry 26). -/
def Obligations.ResetIsLawful : Prop :=
  State.reset.time.lawful ∧ State.reset.stop.lawful ∧ State.reset.pinsAgree ∧ State.reset.pairsKept ∧
    State.reset.lastOffPast ∧ State.reset.queueLawful ∧ State.reset.ownershipLawful ∧
    State.reset.reportsLawful ∧ State.reset.sessionsLawful ∧ State.reset.storeLawful ∧
    State.reset.resetLawful ∧ State.reset.linkA.lawful ∧ State.reset.linkB.lawful

/-- Every step keeps the law of Stop Control: SAFE_N is asserted exactly while the part is STOPPED, a RUNNING part has
no cause, LINE is in the set exactly while STOP_N is ASSERTED, the gate is open exactly once a level has qualified, a
STOPPED part has an entry time, and a candidate counts another level than the qualified one (R105 to R107, R114,
R116). -/
def Obligations.StopLawKept : Prop :=
  ∀ s t : State, s.stop.lawful → step s = .next t → t.stop.lawful

/-- Every step keeps interlocked pairs: both are bound outputs, never both ACTIVE; and a FAULTED output, or any output
of a STOPPED part, rests at its safe level without a release time (R23, R26, R84, R110). -/
def Obligations.PairsStayKept : Prop :=
  ∀ s t : State, s.pairsKept → step s = .next t → t.pairsKept

/-- A channel of an interlocked pair becomes ACTIVE only while its partner is INACTIVE and, if the partner has a
last-off time, only when the dead time since then has passed, by whatever step it becomes so (R84). -/
def Obligations.DeadTimeKept : Prop :=
  ∀ s t : State, s.pairsKept → s.lastOffPast → step s = .next t →
    ∀ (i x y : Nat) (r : Interlock) (ox : Output), t.interlock i = some r →
      (r.a = x ∧ r.b = y ∨ r.a = y ∧ r.b = x) → t.outputAt x = some ox → ox.level = .active →
      (∀ o, s.outputAt x = some o → o.level = .inactive) →
      ∃ oy, t.outputAt y = some oy ∧ oy.level = .inactive ∧
        ∀ k, oy.lastOff = some k → k + r.dead ≤ t.now

/-- Every step keeps the pin records and the channel records in agreement: a pin is DRIVING for exactly the output
that lists it and presents what its level asks, SENSING for exactly the input that has it, and else ISOLATED (R14,
R22). -/
def Obligations.PinsStayAgreed : Prop :=
  ∀ s t : State, s.pinsAgree → step s = .next t → t.pinsAgree

/-- Every step keeps the queue in queue order and within its limits, with distinct handles and distinct admission
numbers (R40 to R42). -/
def Obligations.QueueLawKept : Prop :=
  ∀ s t : State, s.queueLawful → step s = .next t → t.queueLawful

/-- Every step keeps the sessions lawful: at most one of class SERVICE, one session for a tag and a port, LOCAL at 5;
and then every entry belongs to a live session, targets a bound output of that session and is guarded by a bound input
if at all. With the law of resets it keeps all of ownership: entries, triggers, channels, subscriptions, the build and
the store operation belong to live sessions, triggers name bound inputs, the build's owner has class SERVICE, and LOCAL
has no store operation but the startup load (R34, R39, R88, R118, R119, R133, R139, R162, R165, R181). -/
def Obligations.EntriesStayOwned : Prop :=
  ∀ s t : State, s.sessionsLawful → step s = .next t →
    t.sessionsLawful ∧
      ((∀ m, s.store.session? = some m → (s.session m).live = true) → (∀ e ∈ s.queue, s.entryLawful e) →
        ∀ e ∈ t.queue, t.entryLawful e) ∧
      (s.resetLawful → s.ownershipLawful → t.ownershipLawful)

/-- Every step keeps each of these laws by itself: device time and trims in range; the report queues within their
limits, numbered without a gap, none for a FREE session, none sent of LOCAL's; four frames and four replies at most at
each port. Last-off times never lie in the future (R2, R9, R10, R143, R145, R146, R148, R183, R184, R186,
R187, R189). -/
def Obligations.LimitsKept : Prop :=
  ∀ s t : State, step s = .next t →
    (s.time.lawful → t.time.lawful) ∧ (s.time.lawful → s.lastOffPast → t.lastOffPast) ∧
      (s.reportsLawful → t.reportsLawful) ∧
      ∀ p, (s.link p).lawful → (t.link p).lawful

/-- Every step keeps the law of the Plan Store: the slot that an operation writes is in the operation's phase, no other
slot is ERASING or PROGRAMMING, the slot being read is VALID, and a VALID slot holds the bytes of its check; with it, no
operation is in flight before STOP_N has qualified or once a DEVICE_RESET is accepted (R158, R159, R165, R190). -/
def Obligations.StoreLawKept : Prop :=
  ∀ s t : State, s.stop.lawful → s.resetLawful → step s = .next t →
    t.resetLawful ∧ (s.storeLawful → t.storeLawful)
end

