-- ==== Sys2Proof/Laws/Codec.lean ====
section
/-!
SUPPORT. Laws/Codec.lean: bytes and the numbers they spell (1.10, R192).
-/

namespace Sys2Proof.Machine

@[simp] theorem leBytes_length (width n : Nat) : (leBytes width n).length = width := by
  induction width generalizing n with
  | zero => rfl
  | succ w ih => simp [leBytes, ih]

/-- A number that fits its width is read back from its bytes. -/
theorem leNat_leBytes (width n : Nat) (h : n < 256 ^ width) : leNat (leBytes width n) = n := by
  induction width generalizing n with
  | zero => simp at h; simp [leBytes, leNat, h]
  | succ w ih =>
    have : n / 256 < 256 ^ w := by rw [Nat.div_lt_iff_lt_mul (by omega)]; rwa [Nat.pow_succ] at h
    simp only [leBytes, leNat, toByte, ih _ this, BitVec.toNat_ofNat]
    omega

/-- Bytes spell a number below 256 to the power of their count. -/
theorem leNat_lt (bs : List Byte) : leNat bs < 256 ^ bs.length := by
  induction bs with
  | nil => simp [leNat]
  | cons b bs ih =>
    have := b.isLt
    simp only [leNat, List.length_cons, Nat.pow_succ]
    omega

theorem leBytes_leNat (bs : List Byte) : leBytes bs.length (leNat bs) = bs := by
  induction bs with
  | nil => rfl
  | cons b bs ih =>
    have := b.isLt
    simp only [leNat, List.length_cons, leBytes, toByte]
    have h1 : (b.toNat + 256 * leNat bs) / 256 = leNat bs := by omega
    rw [h1, ih]
    congr 1
    apply BitVec.eq_of_toNat_eq
    simp; omega

theorem toByte_toNat (n : Nat) (h : n < 256) : (toByte n).toNat = n := by
  simp [toByte]; omega

/-- A field that stands behind a prefix of known length. -/
theorem field_append_right (a b : List Byte) (k width : Nat) :
    field (a ++ b) (a.length + k) width = field b k width := by
  have h : a.length ≤ a.length + k := by omega
  simp [field, List.drop_append, List.drop_eq_nil_of_le h]

/-- A field at the front, written by `leBytes`. -/
theorem field_leBytes (width n : Nat) (rest : List Byte) (h : n < 256 ^ width) :
    field (leBytes width n ++ rest) 0 width = n := by
  simp [field, leNat_leBytes _ _ h]

end Sys2Proof.Machine
end

