-- ==== Sys2Proof/Laws/Operands.lean ====
section
/-!
SUPPORT. Laws/Operands.lean: what the readers of bodies and plan records accept, as the layouts of Safety.lean: a
reader answers a value exactly for the bytes that spell it (R17, R43, R44, R161, R162, R192, R193).
-/

namespace Sys2Proof.Machine

theorem byte_eq_iff (b : Byte) (n : Nat) (h : n < 256) : b = BitVec.ofNat 8 n ↔ b.toNat = n := by
  constructor
  · rintro rfl
    simp; omega
  · intro e
    apply BitVec.eq_of_toNat_eq
    simp; omega

/-- Bytes spell `n` exactly when they are its bytes. -/
theorem leNat_eq_iff (bs : List Byte) (n : Nat) : leNat bs = n ↔ n < 256 ^ bs.length ∧ bs = leBytes bs.length n := by
  constructor
  · rintro rfl
    exact ⟨leNat_lt bs, (leBytes_leNat bs).symm⟩
  · rintro ⟨h, e⟩
    rw [e, leNat_leBytes _ _ h]

theorem readPolarity_eq_some (b : Byte) (x : Polarity) :
    readPolarity b.toNat = some x ↔ b = if x = .activeHigh then 0 else 1 := by
  have h0 := byte_eq_iff b 0 (by decide)
  have h1 := byte_eq_iff b 1 (by decide)
  cases x <;> unfold readPolarity <;> split <;> simp_all

theorem readDrive_eq_some (b : Byte) (x : Drive) :
    readDrive b.toNat = some x ↔ b = if x = .pushPull then 0 else 1 := by
  have h0 := byte_eq_iff b 0 (by decide)
  have h1 := byte_eq_iff b 1 (by decide)
  cases x <;> unfold readDrive <;> split <;> simp_all

theorem readLevel_eq_some (b : Byte) (x : Level) :
    readLevel b.toNat = some x ↔ b = if x = .active then 0 else 1 := by
  have h0 := byte_eq_iff b 0 (by decide)
  have h1 := byte_eq_iff b 1 (by decide)
  cases x <;> unfold readLevel <;> split <;> simp_all

theorem readFlag_eq_some (b : Byte) (x : Bool) : readFlag b.toNat = some x ↔ b = if x then 1 else 0 := by
  have h0 := byte_eq_iff b 0 (by decide)
  have h1 := byte_eq_iff b 1 (by decide)
  cases x <;> unfold readFlag <;> split <;> simp_all

theorem checkedOutput_eq_some (pins : List Nat) (pol : Polarity) (drive : Drive) (safe : Level) (settle : Nat)
    (spec : BindSpec) : checkedOutput pins pol drive safe settle = some spec ↔
      ∃ g, spec = .output g ∧ g.pins = pins ∧ g.polarity = pol ∧ g.drive = drive ∧ g.safe = safe ∧
        g.inRange settle := by
  unfold checkedOutput OutConfig.inRange
  constructor
  · intro h
    split at h
    · rename_i hc
      cases h
      simp only [List.all_eq_true, decide_eq_true_eq] at hc
      exact ⟨_, rfl, rfl, rfl, rfl, rfl, hc.2.2.1, hc.2.2.2.1, hc.2.1, hc.1, hc.2.2.2.2, rfl⟩
    · cases h
  · rintro ⟨⟨_, _, _, _, k⟩, rfl, rfl, rfl, rfl, rfl, h1, h2, h3, h4, h5, rfl⟩
    rw [if_pos ⟨by simpa using h4, h3, h1, h2, h5⟩]
    rfl

theorem checkedInput_eq_some (pins : List Nat) (interval qualify : Nat) (spec : BindSpec) :
    checkedInput pins interval qualify = some spec ↔
      ∃ pin, spec = .input pin interval qualify ∧ pins = [pin] ∧ inputInRange pin interval qualify := by
  unfold checkedInput inputInRange
  constructor
  · intro h
    split at h
    · split at h
      · rename_i hc
        cases h
        simp only [samplingInRange, Bool.and_eq_true, decide_eq_true_eq] at hc
        exact ⟨_, rfl, rfl, hc.1, hc.2.1.1.1, hc.2.1.1.2, hc.2.1.2, hc.2.2⟩
      · cases h
    · cases h
  · rintro ⟨pin, rfl, rfl, h1, h2, h3, h4, h5⟩
    simp [samplingInRange, h1, h2, h3, h4, h5]

/-- Ten bytes, one by one. -/
theorem length_ten {b : List Byte} (h : b.length = 10) :
    ∃ b0 b1 b2 b3 b4 b5 b6 b7 b8 b9, b = [b0, b1, b2, b3, b4, b5, b6, b7, b8, b9] := by
  match b, h with
  | [b0, b1, b2, b3, b4, b5, b6, b7, b8, b9], _ => exact ⟨b0, b1, b2, b3, b4, b5, b6, b7, b8, b9, rfl⟩

theorem length_seven {b : List Byte} (h : b.length = 7) :
    ∃ b0 b1 b2 b3 b4 b5 b6, b = [b0, b1, b2, b3, b4, b5, b6] := by
  match b, h with
  | [b0, b1, b2, b3, b4, b5, b6], _ => exact ⟨b0, b1, b2, b3, b4, b5, b6, rfl⟩

theorem length_three {b : List Byte} (h : b.length = 3) : ∃ b0 b1 b2, b = [b0, b1, b2] := by
  match b, h with
  | [b0, b1, b2], _ => exact ⟨b0, b1, b2, rfl⟩

theorem pinsOf_eq (places : List Byte) : pinsOf places = (places.map BitVec.toNat).filter fun q => q != 255 := rfl

theorem field_byte (b : List Byte) (x : Byte) (k : Nat) (h : b[k]? = some x) : field b k 1 = x.toNat := by
  have : (b.drop k).take 1 = [x] := by
    obtain ⟨hk, e⟩ := List.getElem?_eq_some_iff.mp h
    rw [List.drop_eq_getElem_cons hk]
    simp [e]
  simp [field, this, leNat]

/-- A field is the number of the bytes that stand there. -/
theorem field_of_split (a x b : List Byte) (k w : Nat) (h : a.length = k) (hw : x.length = w) :
    field (a ++ x ++ b) k w = leNat x := by
  simp [field, ← h, ← hw]

@[simp] theorem leNat_one (b : Byte) : leNat [b] = b.toNat := by simp [leNat]

/-- R17, R192: BIND is read exactly from the bytes of its layout. -/
theorem readBind_eq_some (body : List Byte) (c : Nat) (spec : BindSpec) :
    readBind body = some (c, spec) ↔ spec.bodyFor c body := by
  constructor
  · intro h
    unfold readBind at h
    dsimp only at h
    split_ifs at h with hc hd hd'
    · obtain ⟨b0, b1, b2, b3, b4, b5, b6, b7, b8, b9, rfl⟩ := length_ten hd.2
      simp [Option.bind_eq_some_iff, field, readPolarity_eq_some, readDrive_eq_some, readLevel_eq_some,
        checkedOutput_eq_some] at h hd hc
      obtain ⟨g, h5, h6, h7, ⟨rfl, g1, hr⟩, rfl⟩ := h
      have e1 : b1 = 1 := (byte_eq_iff b1 1 (by decide)).mpr hd
      have e8 : leBytes 2 (leNat [b8, b9]) = [b8, b9] := leBytes_leNat [b8, b9]
      refine ⟨by omega, [b2, b3, b4], ⟨rfl, g1⟩, _, hr, ?_⟩
      simp [e8, e1, h5, h6, h7]
    · obtain ⟨b0, b1, b2, b3, b4, b5, b6, rfl⟩ := length_seven hd'.2
      simp [Option.bind_eq_some_iff, field, checkedInput_eq_some] at h hd' hc
      obtain ⟨⟨pin, rfl, g1, hr⟩, rfl⟩ := h
      have e1 : b1 = 2 := (byte_eq_iff b1 2 (by decide)).mpr hd'
      exact ⟨by omega, [b2, b3, b4], ⟨rfl, g1.symm⟩, hr, by simp [e1]⟩
  · rintro ⟨hc, places, ⟨hl, hp⟩, h⟩
    obtain ⟨p0, p1, p2, rfl⟩ := length_three hl
    have hc' : c % 256 = c := by omega
    cases spec with
    | output g =>
      obtain ⟨settle, hr, rfl⟩ := h
      have e : leNat (leBytes 2 settle) = settle := leNat_leBytes 2 settle (by have := hr.2.2.2.2.1; omega)
      have w : (leBytes 2 settle).take 2 = leBytes 2 settle := rfl
      simp [readBind, Option.bind_eq_some_iff, field, readPolarity_eq_some, readDrive_eq_some, readLevel_eq_some,
        checkedOutput_eq_some, hc', Nat.not_lt.mpr hc, e, w]
      exact ⟨hp, hr⟩
    | input pin interval qualify =>
      obtain ⟨hr, rfl⟩ := h
      have i1 : interval % 256 = interval := by obtain ⟨-, -, h2, -, h4⟩ := hr; omega
      have i2 : qualify % 256 = qualify := by obtain ⟨-, -, h2, -, h4⟩ := hr; omega
      simp [readBind, Option.bind_eq_some_iff, field, checkedInput_eq_some, hc', Nat.not_lt.mpr hc, i1, i2]
      exact ⟨hp.symm, hr⟩

theorem readPinLevel_eq_some (b : Byte) (x : PinLevel) :
    readPinLevel b.toNat = some x ↔ b = if x = .high then 0 else 1 := by
  have h0 := byte_eq_iff b 0 (by decide)
  have h1 := byte_eq_iff b 1 (by decide)
  cases x <;> unfold readPinLevel <;> split <;> simp_all

theorem readInterlockMode_eq_some (b : Byte) (x : InterlockMode) :
    readInterlockMode b.toNat = some x ↔ b = if x = .refuse then 0 else 1 := by
  have h0 := byte_eq_iff b 0 (by decide)
  have h1 := byte_eq_iff b 1 (by decide)
  cases x <;> unfold readInterlockMode <;> split <;> simp_all

theorem readTriggerMode_eq_some (b : Byte) (x : TriggerMode) :
    readTriggerMode b.toNat = some x ↔ b = if x = .once then 0 else 1 := by
  have h0 := byte_eq_iff b 0 (by decide)
  have h1 := byte_eq_iff b 1 (by decide)
  cases x <;> unfold readTriggerMode <;> split <;> simp_all

theorem readEdge_eq_some (b : Byte) (x : EdgeSel) :
    readEdge b.toNat = some x ↔ b = match x with
      | .rising => 0
      | .falling => 1
      | .either => 2 := by
  have h0 := byte_eq_iff b 0 (by decide)
  have h1 := byte_eq_iff b 1 (by decide)
  have h2 := byte_eq_iff b 2 (by decide)
  cases x <;> unfold readEdge <;> split <;> simp_all

/-- R162, R192: PLAN_BEGIN is read exactly from the bytes of its layout. -/
theorem readPlanBegin_eq_some (body : List Byte) (k : Nat) (name : List Byte) (auto : Bool) :
    readPlanBegin body = some (k, name, auto) ↔ planBeginBody k name auto body := by
  constructor
  · intro h
    unfold readPlanBegin at h
    dsimp only at h
    split_ifs at h with hc
    obtain ⟨h0, h1, h2, h3, h4⟩ := hc
    match body, h3 with
    | b0 :: b1 :: rest, h3 =>
      have e1 : field (b0 :: b1 :: rest) 1 1 = b1.toNat := field_byte _ _ _ rfl
      have e0 : field (b0 :: b1 :: rest) 0 1 = b0.toNat := field_byte _ _ _ rfl
      rw [e1] at h1 h2 h3 h4 h
      rw [e0] at h0 h
      have hl : rest.length = b1.toNat + 1 := by simpa using h3
      obtain ⟨front, x, rfl⟩ : ∃ front x, rest = front ++ [x] := by
        rcases List.eq_nil_or_concat rest with rfl | ⟨front, x, rfl⟩
        · simp at hl
        · exact ⟨front, x, by simp⟩
      have hf : front.length = b1.toNat := by simpa using hl
      have tk : ((b0 :: b1 :: (front ++ [x])).drop 2).take b1.toNat = front := by simp [← hf]
      have ex : field (b0 :: b1 :: (front ++ [x])) (b1.toNat + 2) 1 = x.toNat := by
        apply field_byte
        simp [← hf]
      rw [tk] at h4 h
      simp only [Option.bind_eq_bind, Option.bind_eq_some_iff, ex, readFlag_eq_some] at h
      obtain ⟨y, hx, e⟩ := h
      cases e
      refine ⟨h0, by omega, by omega, ?_, ?_⟩
      · simpa [printable] using h4
      · simp [hf, hx]
  · rintro ⟨h0, h1, h2, h3, rfl⟩
    have hk : k % 256 = k := by omega
    have hn : name.length % 256 = name.length := by omega
    have e0 : field ([BitVec.ofNat 8 k, BitVec.ofNat 8 name.length] ++ name ++ [if auto then 1 else 0]) 0 1 = k := by
      rw [field_byte _ (BitVec.ofNat 8 k) _ rfl]; simpa using hk
    have e1 : field ([BitVec.ofNat 8 k, BitVec.ofNat 8 name.length] ++ name ++ [if auto then 1 else 0]) 1 1 =
        name.length := by
      rw [field_byte _ (BitVec.ofNat 8 name.length) _ rfl]; simpa using hn
    have ex : field ([BitVec.ofNat 8 k, BitVec.ofNat 8 name.length] ++ name ++ [if auto then 1 else 0])
        (name.length + 2) 1 = (if auto then (1 : Byte) else 0).toNat := by
      apply field_byte
      simp
    have tk : (([BitVec.ofNat 8 k, BitVec.ofNat 8 name.length] ++ name ++ [if auto then 1 else 0]).drop 2).take
        name.length = name := by simp
    unfold readPlanBegin
    simp only [e0, e1, ex, tk]
    have hr : readFlag (if auto then (1 : Byte) else 0).toNat = some auto := (readFlag_eq_some ..).mpr rfl
    rw [if_pos ⟨h0, h1, h2, by simp, by simpa [printable] using h3⟩, hr]
    rfl

theorem readActionKind_eq_some (b : Byte) (width : Nat) (x : ActionKind) :
    readActionKind b.toNat width = some x ↔ ∃ code : Nat, b = BitVec.ofNat 8 code ∧
      match x with
      | .set => code = 0 ∧ width = 0
      | .clear => code = 1 ∧ width = 0
      | .toggle => code = 2 ∧ width = 0
      | .pulse w => code = 3 ∧ width = w ∧ 1 ≤ w := by
  have h0 := byte_eq_iff b 0 (by decide)
  have h1 := byte_eq_iff b 1 (by decide)
  have h2 := byte_eq_iff b 2 (by decide)
  have h3 := byte_eq_iff b 3 (by decide)
  cases x with
  | pulse w =>
    unfold readActionKind
    split <;> simp_all
    all_goals omega
  | _ => unfold readActionKind; split <;> simp_all

theorem length_eight {b : List Byte} (h : b.length = 8) :
    ∃ b0 b1 b2 b3 b4 b5 b6 b7, b = [b0, b1, b2, b3, b4, b5, b6, b7] := by
  match b, h with
  | [b0, b1, b2, b3, b4, b5, b6, b7], _ => exact ⟨b0, b1, b2, b3, b4, b5, b6, b7, rfl⟩

/-- R43, R193: the repeat part is read exactly from its bytes. -/
theorem readRepetition_eq_some (base part rest : List Byte) (k : Nat) (r : Repetition) (h : base.length = k)
    (hp : part.length = 8) :
    readRepetition (base ++ (part ++ rest)) k = some r ↔ repeatPart (some r) part := by
  obtain ⟨b0, b1, b2, b3, b4, b5, b6, b7, rfl⟩ := length_eight hp
  have f0 := field_append_right base ([b0, b1, b2, b3, b4, b5, b6, b7] ++ rest) 0 4
  have f4 := field_append_right base ([b0, b1, b2, b3, b4, b5, b6, b7] ++ rest) 4 2
  simp only [h, Nat.add_zero] at f0 f4
  have v0 : field ([b0, b1, b2, b3, b4, b5, b6, b7] ++ rest) 0 4 = leNat [b0, b1, b2, b3] := rfl
  have v4 : field ([b0, b1, b2, b3, b4, b5, b6, b7] ++ rest) 4 2 = leNat [b4, b5] := rfl
  have e0 : leBytes 4 (leNat [b0, b1, b2, b3]) = [b0, b1, b2, b3] := leBytes_leNat [b0, b1, b2, b3]
  have e4 : leBytes 2 (leNat [b4, b5]) = [b4, b5] := leBytes_leNat [b4, b5]
  have l0 : leNat [b0, b1, b2, b3] < 2 ^ 32 := by simpa using leNat_lt [b0, b1, b2, b3]
  have l4 : leNat [b4, b5] < 65536 := by simpa using leNat_lt [b4, b5]
  unfold readRepetition repeatPart
  simp only [f0, f4, v0, v4]
  constructor
  · intro x
    split_ifs at x with hc
    all_goals
      cases x
      refine ⟨hc, l0, leNat [b4, b5], [b6, b7], l4, rfl, ?_, ?_⟩
      · simp_all
      · simp [e0, e4]
  · rintro ⟨h1, h2, count, unused, h3, h4, h5, h6⟩
    obtain ⟨u, v, rfl⟩ : ∃ u v, unused = [u, v] := by
      match unused, h4 with
      | [u, v], _ => exact ⟨u, v, rfl⟩
    have q1 : [b0, b1, b2, b3] = leBytes 4 r.period := by
      have := congrArg (List.take 4) h6
      simpa [leBytes] using this
    have q2 : [b4, b5] = leBytes 2 count := by
      have := congrArg (fun l => (List.drop 4 l).take 2) h6
      simpa [leBytes] using this
    rw [q1, q2, leNat_leBytes 4 _ h2, leNat_leBytes 2 _ h3, if_pos h1]
    cases r
    simp_all

/-- R44, R193: the guard part is read exactly from its bytes. -/
theorem readGuard_eq_some (base part rest : List Byte) (k : Nat) (g : Guard) (h : base.length = k)
    (hp : part.length = 8) :
    readGuard (base ++ (part ++ rest)) k = some g ↔ guardPart (some g) part := by
  obtain ⟨b0, b1, b2, b3, b4, b5, b6, b7, rfl⟩ := length_eight hp
  have f0 := field_append_right base ([b0, b1, b2, b3, b4, b5, b6, b7] ++ rest) 0 1
  have f1 := field_append_right base ([b0, b1, b2, b3, b4, b5, b6, b7] ++ rest) 1 1
  have f2 := field_append_right base ([b0, b1, b2, b3, b4, b5, b6, b7] ++ rest) 2 1
  have f4 := field_append_right base ([b0, b1, b2, b3, b4, b5, b6, b7] ++ rest) 4 3
  simp only [h, Nat.add_zero] at f0 f1 f2 f4
  have v0 : field ([b0, b1, b2, b3, b4, b5, b6, b7] ++ rest) 0 1 = b0.toNat := by simp [field]
  have v1 : field ([b0, b1, b2, b3, b4, b5, b6, b7] ++ rest) 1 1 = b1.toNat := by simp [field]
  have v2 : field ([b0, b1, b2, b3, b4, b5, b6, b7] ++ rest) 2 1 = b2.toNat := by simp [field]
  have v4 : field ([b0, b1, b2, b3, b4, b5, b6, b7] ++ rest) 4 3 = leNat [b4, b5, b6] := rfl
  have e4 : leBytes 3 (leNat [b4, b5, b6]) = [b4, b5, b6] := leBytes_leNat [b4, b5, b6]
  have l4 : leNat [b4, b5, b6] < 2 ^ 24 := by simpa using leNat_lt [b4, b5, b6]
  have m0 := byte_eq_iff b2 0 (by decide)
  have m1 := byte_eq_iff b2 1 (by decide)
  unfold readGuard guardPart
  simp only [f0, f1, f2, f4, v0, v1, v2, v4]
  constructor
  · intro x
    by_cases hc : b0.toNat ≤ 31
    case neg => simp [hc] at x
    rw [if_pos hc] at x
    simp only [Option.bind_eq_bind, Option.bind_eq_some_iff, readPinLevel_eq_some] at x
    obtain ⟨l, hl, x⟩ := x
    split at x
    · rename_i hm
      by_cases hz : leNat [b4, b5, b6] = 0
      case neg => simp [hz] at x
      rw [if_pos hz] at x
      cases x
      exact ⟨hc, b2, _, b3, b7, l4, ⟨m0.mpr hm, hz⟩, by simpa [e4] using hl⟩
    · rename_i hm
      by_cases hz : leNat [b4, b5, b6] = 0
      case pos => simp [hz] at x
      rw [if_neg hz] at x
      cases x
      exact ⟨hc, b2, _, b3, b7, l4, ⟨m1.mpr hm, rfl, by omega⟩, by simpa [e4] using hl⟩
    · cases x
  · rintro ⟨hc, mode, limit, u, v, hl, hm, e⟩
    simp [leBytes] at e
    obtain ⟨rfl, rfl, rfl, rfl, q4, q5, q6, rfl⟩ := e
    have q : leNat [b4, b5, b6] = limit := by
      rw [q4, q5, q6]
      exact leNat_leBytes 3 limit hl
    have hc' : g.channel % 256 = g.channel := by omega
    rw [q]
    obtain ⟨c, lv, md⟩ := g
    simp only at hc hc' hm
    cases md with
    | skip =>
      obtain ⟨rfl, rfl⟩ := hm
      cases lv <;> simp [hc', hc, readPinLevel]
    | wait w =>
      obtain ⟨rfl, rfl, hw⟩ := hm
      have : limit ≠ 0 := by omega
      cases lv <;> simp [hc', hc, readPinLevel, this]

theorem Guard.waits_eq_true (g : Guard) : g.waits = true ↔ ∃ k, g.mode = .wait k := by
  obtain ⟨c, l, m⟩ := g
  cases m <;> simp [Guard.waits]

theorem sixteen {b : List Byte} (h : 16 ≤ b.length) :
    ∃ b0 b1 b2 b3 b4 b5 b6 b7 t0 t1 t2 t3 t4 t5 t6 t7 rest,
      b = [b0, b1, b2, b3, b4, b5, b6, b7, t0, t1, t2, t3, t4, t5, t6, t7] ++ rest := by
  match b, h with
  | b0 :: b1 :: b2 :: b3 :: b4 :: b5 :: b6 :: b7 :: t0 :: t1 :: t2 :: t3 :: t4 :: t5 :: t6 :: t7 :: rest, _ =>
    exact ⟨b0, b1, b2, b3, b4, b5, b6, b7, t0, t1, t2, t3, t4, t5, t6, t7, rest, rfl⟩

/-- The parts behind the 16 base bytes, as the kind byte announces them. -/
theorem readParts (base rest : List Byte) (hb : base.length = 16) (hasRep hasGuard : Prop) [Decidable hasRep]
    [Decidable hasGuard] (hl : rest.length = (if hasRep then 8 else 0) + if hasGuard then 8 else 0)
    (rep : Option Repetition) (grd : Option Guard) :
    (if hasRep then (readRepetition (base ++ rest) 16).map some else some none) = some rep ∧
        (if hasGuard then (readGuard (base ++ rest) (if hasRep then 24 else 16)).map some else some none) =
          some grd ↔
      ∃ r g, rest = r ++ g ∧ repeatPart rep r ∧ guardPart grd g ∧ (rep.isSome = true ↔ hasRep) ∧
        (grd.isSome = true ↔ hasGuard) := by
  have split8 : ∀ l : List Byte, 8 ≤ l.length → ∃ a b, l = a ++ b ∧ a.length = 8 := fun l h =>
    ⟨l.take 8, l.drop 8, (List.take_append_drop 8 l).symm, by simp; omega⟩
  have lenR : ∀ {x : Repetition} {p}, repeatPart (some x) p → p.length = 8 := by
    rintro x p ⟨-, -, count, unused, -, h, -, rfl⟩
    simp [h]
  have lenG : ∀ {x : Guard} {p}, guardPart (some x) p → p.length = 8 := by
    rintro x p ⟨-, mode, limit, u, v, -, -, rfl⟩
    simp
  by_cases hr : hasRep <;> by_cases hg : hasGuard <;> simp only [hr, hg, if_true, if_false] at hl ⊢
  · obtain ⟨r, g, rfl, h8⟩ := split8 rest (by omega)
    have g8 : g.length = 8 := by simp [h8] at hl; omega
    have e : base ++ (r ++ g) = (base ++ r) ++ (g ++ []) := by simp
    constructor
    · rintro ⟨x, y⟩
      simp only [Option.map_eq_some_iff] at x y
      obtain ⟨x, hx, rfl⟩ := x
      obtain ⟨y, hy, rfl⟩ := y
      rw [readRepetition_eq_some _ _ _ _ _ hb h8] at hx
      rw [e, readGuard_eq_some _ _ _ _ _ (by simp [hb, h8]) g8] at hy
      exact ⟨r, g, rfl, hx, hy, by simp, by simp⟩
    · rintro ⟨r', g', eq, x, y, hx, hy⟩
      obtain ⟨x', rfl⟩ := Option.isSome_iff_exists.mp (hx.mpr trivial)
      obtain ⟨y', rfl⟩ := Option.isSome_iff_exists.mp (hy.mpr trivial)
      obtain ⟨rfl, rfl⟩ := List.append_inj eq (by rw [h8, lenR x])
      rw [(readRepetition_eq_some _ _ _ _ _ hb h8).mpr x, e,
        (readGuard_eq_some _ _ _ _ _ (by simp [hb, h8]) g8).mpr y]
      exact ⟨rfl, rfl⟩
  · have e : base ++ rest = base ++ (rest ++ []) := by simp
    constructor
    · rintro ⟨x, y⟩
      simp only [Option.map_eq_some_iff] at x
      obtain ⟨x, hx, rfl⟩ := x
      cases y
      rw [e, readRepetition_eq_some _ _ _ _ _ hb (by omega)] at hx
      exact ⟨rest, [], by simp, hx, rfl, by simp, by simp⟩
    · rintro ⟨r', g', rfl, x, y, hx, hy⟩
      obtain ⟨x', rfl⟩ := Option.isSome_iff_exists.mp (hx.mpr trivial)
      have : grd = none := by simpa using hy
      subst this
      cases y
      rw [List.append_nil] at *
      rw [e, (readRepetition_eq_some _ _ _ _ _ hb (lenR x)).mpr x]
      exact ⟨rfl, rfl⟩
  · have e : base ++ rest = base ++ (rest ++ []) := by simp
    constructor
    · rintro ⟨x, y⟩
      simp only [Option.map_eq_some_iff] at y
      obtain ⟨y, hy, rfl⟩ := y
      cases x
      rw [e, readGuard_eq_some _ _ _ _ _ hb (by omega)] at hy
      exact ⟨[], rest, by simp, rfl, hy, by simp, by simp⟩
    · rintro ⟨r', g', rfl, x, y, hx, hy⟩
      obtain ⟨y', rfl⟩ := Option.isSome_iff_exists.mp (hy.mpr trivial)
      have : rep = none := by simpa using hx
      subst this
      cases x
      rw [List.nil_append] at *
      rw [e, (readGuard_eq_some _ _ _ _ _ hb (lenG y)).mpr y]
      exact ⟨rfl, rfl⟩
  · have hn : rest = [] := List.eq_nil_of_length_eq_zero (by omega)
    subst hn
    constructor
    · rintro ⟨x, y⟩
      cases x
      cases y
      exact ⟨[], [], rfl, rfl, rfl, by simp, by simp⟩
    · rintro ⟨r', g', eq, x, y, hx, hy⟩
      have h1 : rep = none := by simpa using hx
      have h2 : grd = none := by simpa using hy
      subst h1 h2
      exact ⟨rfl, rfl⟩

theorem bind_of_ite {α β : Type} (c : Prop) [Decidable c] (x y : Option α) (k : α → Option β) :
    (if c then x.bind k else y.bind k) = (if c then x else y).bind k := by
  split <;> rfl

/-- What the kind byte announces, and the base bytes of an action but its kind byte. -/
theorem readAction_base (request : Bool) (b0 b1 b2 b3 b4 b5 b6 b7 t0 t1 t2 t3 t4 t5 t6 t7 : Byte)
    (rest : List Byte) (form : ActionForm) (a : Action) :
    readAction request ([b0, b1, b2, b3, b4, b5, b6, b7, t0, t1, t2, t3, t4, t5, t6, t7] ++ rest) = some (form, a) ↔
      (0x40 ≤ b0.toNat ∧ b0.toNat ≤ 0x43 ∧
        rest.length = (if b0.toNat = 0x41 ∨ b0.toNat = 0x43 then 8 else 0) +
          (if b0.toNat = 0x42 ∨ b0.toNat = 0x43 then 8 else 0) ∧
        a.target = b2.toNat ∧ a.target ≤ 31 ∧ a.tag = b4.toNat ∧ ¬(b1.getLsbD 0 = true ∧ a.tag = 0) ∧
        a.report = b1.getLsbD 1 ∧ a.carry = b1.getLsbD 2) ∧
      readActionKind b3.toNat (leNat [b5, b6, b7]) = some a.kind ∧
      (∃ r g, rest = r ++ g ∧ repeatPart a.rep r ∧ guardPart a.grd g ∧
        (a.rep.isSome = true ↔ b0.toNat = 0x41 ∨ b0.toNat = 0x43) ∧
        (a.grd.isSome = true ↔ b0.toNat = 0x42 ∨ b0.toNat = 0x43)) ∧
      (a.rep.isSome = true → ∀ g k, a.grd = some g → g.mode ≠ .wait k) ∧
      form = (if b1.getLsbD 0 = true then .armed (leNat [t0, t1, t2, t3])
        else if request = true ∧ b1.getLsbD 3 = false then .absolute (leNat [t0, t1, t2, t3, t4, t5])
        else .relative (leNat [t0, t1, t2, t3])) := by
  have parts := fun hl => readParts [b0, b1, b2, b3, b4, b5, b6, b7, t0, t1, t2, t3, t4, t5, t6, t7] rest rfl
    (b0.toNat = 0x41 ∨ b0.toNat = 0x43) (b0.toNat = 0x42 ∨ b0.toNat = 0x43) hl a.rep a.grd
  have waits : ¬(a.rep.isSome = true ∧ a.grd.any Guard.waits = true) ↔
      (a.rep.isSome = true → ∀ g k, a.grd = some g → g.mode ≠ .wait k) := by
    cases a.grd with
    | none => simp
    | some g =>
      simp [Guard.waits_eq_true]
      exact ⟨fun h p g' k e => e ▸ h p k, fun h p k => h p g k rfl⟩
  have tb : toByte b1.toNat = b1 := by simp [toByte]
  unfold readAction
  have q0 : field ([b0, b1, b2, b3, b4, b5, b6, b7, t0, t1, t2, t3, t4, t5, t6, t7] ++ rest) 0 1 = b0.toNat := by
    simp [field]
  have q1 : field ([b0, b1, b2, b3, b4, b5, b6, b7, t0, t1, t2, t3, t4, t5, t6, t7] ++ rest) 1 1 = b1.toNat := by
    simp [field]
  have q2 : field ([b0, b1, b2, b3, b4, b5, b6, b7, t0, t1, t2, t3, t4, t5, t6, t7] ++ rest) 2 1 = b2.toNat := by
    simp [field]
  have q3 : field ([b0, b1, b2, b3, b4, b5, b6, b7, t0, t1, t2, t3, t4, t5, t6, t7] ++ rest) 3 1 = b3.toNat := by
    simp [field]
  have q4 : field ([b0, b1, b2, b3, b4, b5, b6, b7, t0, t1, t2, t3, t4, t5, t6, t7] ++ rest) 4 1 = b4.toNat := by
    simp [field]
  have q5 : field ([b0, b1, b2, b3, b4, b5, b6, b7, t0, t1, t2, t3, t4, t5, t6, t7] ++ rest) 5 3 =
      leNat [b5, b6, b7] := by simp [field]
  have q8 : field ([b0, b1, b2, b3, b4, b5, b6, b7, t0, t1, t2, t3, t4, t5, t6, t7] ++ rest) 8 4 =
      leNat [t0, t1, t2, t3] := by simp [field]
  have q9 : field ([b0, b1, b2, b3, b4, b5, b6, b7, t0, t1, t2, t3, t4, t5, t6, t7] ++ rest) 8 6 =
      leNat [t0, t1, t2, t3, t4, t5] := by simp [field]
  have ln : ([b0, b1, b2, b3, b4, b5, b6, b7, t0, t1, t2, t3, t4, t5, t6, t7] ++ rest).length = 16 + rest.length := by
    simp; omega
  simp only [q0, q1, q2, q3, q4, q5, q8, q9, ln, tb]
  generalize [b0, b1, b2, b3, b4, b5, b6, b7, t0, t1, t2, t3, t4, t5, t6, t7] ++ rest = whole at parts ⊢
  constructor
  · intro h
    by_cases hc : 0x40 ≤ b0.toNat ∧ b0.toNat ≤ 0x43 ∧
        16 + rest.length = 16 + (if b0.toNat = 0x41 ∨ b0.toNat = 0x43 then 8 else 0) +
          (if b0.toNat = 0x42 ∨ b0.toNat = 0x43 then 8 else 0) ∧
        b2.toNat ≤ 31 ∧ ¬(b1.getLsbD 0 = true ∧ b4.toNat = 0)
    case neg => rw [if_neg hc] at h; cases h
    rw [if_pos hc] at h
    obtain ⟨c1, c2, c3, c4, c5⟩ := hc
    simp only [Option.bind_eq_bind, bind_of_ite, Option.bind_eq_some_iff] at h
    obtain ⟨kind, hk, rep, hr, grd, hg, h⟩ := h
    by_cases hw : rep.isSome = true ∧ grd.any Guard.waits = true
    case pos => rw [if_pos hw] at h; cases h
    rw [if_neg hw] at h
    cases h
    exact ⟨⟨c1, c2, by omega, rfl, c4, rfl, c5, rfl, rfl⟩, hk, (parts (by omega)).mp ⟨hr, hg⟩, waits.mp hw, rfl⟩
  · rintro ⟨⟨c1, c2, c3, c4, c5, c6, c7, c8, c9⟩, hk, hp, hw, rfl⟩
    obtain ⟨hr, hg⟩ := (parts c3).mpr hp
    rw [if_pos ⟨c1, c2, by omega, c4 ▸ c5, c6 ▸ c7⟩, hk]
    simp only [Option.bind_eq_bind, bind_of_ite]
    simp only [hr, hg, Option.bind_some]
    rw [if_neg (waits.mpr hw), ← c4, ← c6, ← c8, ← c9]

/-- R43, R44, R192, R193: an action is read exactly from the bytes of its layout. -/
theorem readAction_eq_some (request : Bool) (bytes : List Byte) (form : ActionForm) (a : Action) :
    readAction request bytes = some (form, a) ↔ a.bytesFor request form bytes := by
  constructor
  · intro h
    obtain ⟨b0, b1, b2, b3, b4, b5, b6, b7, t0, t1, t2, t3, t4, t5, t6, t7, rest, rfl⟩ : ∃ b0 b1 b2 b3 b4 b5 b6 b7 t0
        t1 t2 t3 t4 t5 t6 t7 rest,
        bytes = [b0, b1, b2, b3, b4, b5, b6, b7, t0, t1, t2, t3, t4, t5, t6, t7] ++ rest := by
      apply sixteen
      unfold readAction at h
      dsimp only at h
      by_contra hc
      rw [if_neg (by omega)] at h
      cases h
    rw [readAction_base] at h
    obtain ⟨⟨c1, c2, c3, c4, c5, c6, c7, c8, c9⟩, hk, ⟨r, g, rfl, hr, hg, er, eg⟩, hw, rfl⟩ := h
    rw [readActionKind_eq_some] at hk
    obtain ⟨code, hcode, hk⟩ := hk
    have w3 : leBytes 3 (leNat [b5, b6, b7]) = [b5, b6, b7] := leBytes_leNat [b5, b6, b7]
    have l3 : leNat [b5, b6, b7] < 2 ^ 24 := by simpa using leNat_lt [b5, b6, b7]
    have w4 : leBytes 4 (leNat [t0, t1, t2, t3]) = [t0, t1, t2, t3] := leBytes_leNat [t0, t1, t2, t3]
    have l4 : leNat [t0, t1, t2, t3] < 2 ^ 32 := by simpa using leNat_lt [t0, t1, t2, t3]
    have w6 : leBytes 6 (leNat [t0, t1, t2, t3, t4, t5]) = [t0, t1, t2, t3, t4, t5] :=
      leBytes_leNat [t0, t1, t2, t3, t4, t5]
    have l6 : leNat [t0, t1, t2, t3, t4, t5] < 2 ^ 48 := by simpa using leNat_lt [t0, t1, t2, t3, t4, t5]
    have k0 : b0 = 0x40 + (if a.rep.isSome then 1 else 0) + (if a.grd.isSome then 2 else 0) := by
      have : b0.toNat = 64 ∨ b0.toNat = 65 ∨ b0.toNat = 66 ∨ b0.toNat = 67 := by omega
      have v : ∀ n, n < 256 → b0.toNat = n → b0 = BitVec.ofNat 8 n := fun n h => (byte_eq_iff b0 n h).mpr
      rcases this with h | h | h | h <;> simp [h] at er eg <;> rw [v _ (by decide) h] <;> simp [er, eg]
    obtain ⟨time, unused, ht, h8, hf⟩ : ∃ time unused : List Byte, [t0, t1, t2, t3, t4, t5, t6, t7] = time ++ unused ∧
        time.length + unused.length = 8 ∧
        (match (if b1.getLsbD 0 = true then ActionForm.armed (leNat [t0, t1, t2, t3])
            else if request = true ∧ b1.getLsbD 3 = false then .absolute (leNat [t0, t1, t2, t3, t4, t5])
            else .relative (leNat [t0, t1, t2, t3])) with
        | .absolute due => request = true ∧ b1.getLsbD 0 = false ∧ b1.getLsbD 3 = false ∧ due < 2 ^ 48 ∧
          time = leBytes 6 due
        | .relative ticks => b1.getLsbD 0 = false ∧ (request = true → b1.getLsbD 3 = true) ∧ ticks < 2 ^ 32 ∧
          time = leBytes 4 ticks
        | .armed offset => b1.getLsbD 0 = true ∧ a.tag ≠ 0 ∧ offset < 2 ^ 32 ∧ time = leBytes 4 offset) := by
      by_cases ha : b1.getLsbD 0 = true
      · rw [if_pos ha]
        exact ⟨[t0, t1, t2, t3], [t4, t5, t6, t7], rfl, rfl, ha, fun h => c7 ⟨ha, h⟩, l4, w4.symm⟩
      · rw [if_neg ha]
        by_cases hq : request = true ∧ b1.getLsbD 3 = false
        · rw [if_pos hq]
          exact ⟨[t0, t1, t2, t3, t4, t5], [t6, t7], rfl, rfl, hq.1, by simpa using ha, hq.2, l6, w6.symm⟩
        · rw [if_neg hq]
          exact ⟨[t0, t1, t2, t3], [t4, t5, t6, t7], rfl, rfl, by simpa using ha,
            fun h => by simpa [h] using hq, l4, w4.symm⟩
    refine ⟨b1, code, leNat [b5, b6, b7], time, unused, r, g, ?_, c5, by rw [c6]; exact b4.isLt, c8.symm, c9.symm, ?_,
      h8, hf, hr, hg, hw⟩
    · have e : [b0, b1, b2, b3, b4, b5, b6, b7, t0, t1, t2, t3, t4, t5, t6, t7] =
          [b0, b1, b2, b3, b4, b5, b6, b7] ++ (time ++ unused) := by
        rw [← ht]
        rfl
      rw [e, w3, ← k0, c4, c6, ← hcode]
      simp
    · revert hk
      cases a.kind <;> simp
      intro h1 h2 h3
      exact ⟨h1, h2, h3, h2 ▸ l3⟩
  · rintro ⟨flags, code, width, time, unused, rep, grd, rfl, c5, c6, c8, c9, hk, hl, hf, hr, hg, hw⟩
    obtain ⟨t0, t1, t2, t3, t4, t5, t6, t7, ht⟩ : ∃ t0 t1 t2 t3 t4 t5 t6 t7,
        time ++ unused = [t0, t1, t2, t3, t4, t5, t6, t7] := length_eight (by simpa using hl)
    have hw3 : leBytes 3 width = [toByte width, toByte (width / 256), toByte (width / 256 / 256)] := rfl
    have hwl : width < 2 ^ 24 := by
      revert hk
      cases a.kind <;> simp <;> omega
    have nw : leNat [toByte width, toByte (width / 256), toByte (width / 256 / 256)] = width :=
      leNat_leBytes 3 width hwl
    have e : [0x40 + (if a.rep.isSome then 1 else 0) + (if a.grd.isSome then 2 else 0), flags,
        BitVec.ofNat 8 a.target, BitVec.ofNat 8 code, BitVec.ofNat 8 a.tag] ++ leBytes 3 width ++ time ++ unused ++
        rep ++ grd = [0x40 + (if a.rep.isSome then 1 else 0) + (if a.grd.isSome then 2 else 0), flags,
          BitVec.ofNat 8 a.target, BitVec.ofNat 8 code, BitVec.ofNat 8 a.tag, toByte width, toByte (width / 256),
          toByte (width / 256 / 256), t0, t1, t2, t3, t4, t5, t6, t7] ++ (rep ++ grd) := by
      rw [hw3, List.append_assoc _ time unused, ht]
      simp
    rw [e, readAction_base, nw]
    have lenR : rep.length = if a.rep.isSome then 8 else 0 := by
      cases h : a.rep with
      | none => rw [h] at hr; cases hr; rfl
      | some x =>
        rw [h] at hr
        obtain ⟨-, -, count, u, -, hu, -, rfl⟩ := hr
        simp [hu]
    have lenG : grd.length = if a.grd.isSome then 8 else 0 := by
      cases h : a.grd with
      | none => rw [h] at hg; cases hg; rfl
      | some x =>
        rw [h] at hg
        obtain ⟨-, mode, limit, u, v, -, -, rfl⟩ := hg
        simp
    have kb : (0x40 + (if a.rep.isSome then 1 else 0) + (if a.grd.isSome then 2 else 0) : Byte).toNat =
        0x40 + (if a.rep.isSome then 1 else 0) + (if a.grd.isSome then 2 else 0) := by
      split <;> split <;> rfl
    have tt : (BitVec.ofNat 8 a.target).toNat = a.target := by simp; omega
    have tg : (BitVec.ofNat 8 a.tag).toNat = a.tag := by simp; omega
    refine ⟨⟨?_, ?_, ?_, tt.symm, c5, tg.symm, ?_, c8.symm, c9.symm⟩, ?_, ⟨rep, grd, rfl, hr, hg, ?_, ?_⟩, hw, ?_⟩
    · rw [kb]; omega
    · rw [kb]
      by_cases x : a.rep.isSome = true <;> by_cases y : a.grd.isSome = true <;> simp [x, y]
    · rw [kb, List.length_append, lenR, lenG]
      by_cases x : a.rep.isSome = true <;> by_cases y : a.grd.isSome = true <;> simp [x, y]
    · rintro ⟨h1, h2⟩
      revert hf
      cases form <;> simp [h1, h2]
    · rw [readActionKind_eq_some]
      refine ⟨code, rfl, ?_⟩
      revert hk
      cases a.kind <;> simp
      omega
    · rw [kb]
      by_cases x : a.rep.isSome = true <;> by_cases y : a.grd.isSome = true <;> simp [x, y]
    · rw [kb]
      by_cases x : a.rep.isSome = true <;> by_cases y : a.grd.isSome = true <;> simp [x, y]
    · cases form with
      | absolute due =>
        obtain ⟨h1, h2, h3, h4, rfl⟩ := hf
        have : [t0, t1, t2, t3, t4, t5] = leBytes 6 due := by
          have := congrArg (List.take 6) ht.symm
          simpa [leBytes] using this
        rw [if_neg (by simp only [h2, Bool.false_eq_true, not_false_iff]), if_pos ⟨h1, h3⟩, this,
          leNat_leBytes 6 due h4]
      | relative ticks =>
        obtain ⟨h2, h3, h4, rfl⟩ := hf
        have : [t0, t1, t2, t3] = leBytes 4 ticks := by
          have := congrArg (List.take 4) ht.symm
          simpa [leBytes] using this
        rw [if_neg (by simp only [h2, Bool.false_eq_true, not_false_iff]), if_neg, this, leNat_leBytes 4 ticks h4]
        rintro ⟨h, h'⟩
        rw [h3 h] at h'
        cases h'
      | armed offset =>
        obtain ⟨h2, h3, h4, rfl⟩ := hf
        have : [t0, t1, t2, t3] = leBytes 4 offset := by
          have := congrArg (List.take 4) ht.symm
          simpa [leBytes] using this
        rw [if_pos h2, this, leNat_leBytes 4 offset h4]

theorem checkedInterlock_eq_some (a b : Byte) (dead : Nat) (mode : Byte) (r : Interlock) :
    checkedInterlock a.toNat b.toNat dead mode.toNat = some r ↔
      r.a ≤ 31 ∧ r.b ≤ 31 ∧ r.a ≠ r.b ∧ r.dead = dead ∧ a = BitVec.ofNat 8 r.a ∧ b = BitVec.ofNat 8 r.b ∧
        mode = if r.mode = .refuse then 0 else 1 := by
  unfold checkedInterlock
  constructor
  · intro h
    split at h
    · rename_i hc
      simp only [Option.map_eq_some_iff, readInterlockMode_eq_some] at h
      obtain ⟨m, hm, rfl⟩ := h
      exact ⟨hc.1, hc.2.1, hc.2.2, rfl, by simp, by simp, hm⟩
    · cases h
  · rintro ⟨h1, h2, h3, rfl, ha, hb, hm⟩
    have ea : a.toNat = r.a := (byte_eq_iff a _ (by omega)).mp ha
    have eb : b.toNat = r.b := (byte_eq_iff b _ (by omega)).mp hb
    rw [if_pos (by omega), (readInterlockMode_eq_some ..).mpr hm, ea, eb]
    rfl

theorem checkedTrigger_eq_some (number source edge tag mode : Byte) (holdoff k : Nat) (g : TriggerSpec)
    (h : holdoff < 2 ^ 24) :
    checkedTrigger number.toNat source.toNat edge.toNat tag.toNat mode.toNat holdoff = some (k, g) ↔
      k ≤ 15 ∧ g.source ≤ 31 ∧ 1 ≤ g.tag ∧ g.tag < 256 ∧ g.holdoff = holdoff ∧ number = BitVec.ofNat 8 k ∧
        source = BitVec.ofNat 8 g.source ∧ (edge = match g.edge with
          | .rising => 0
          | .falling => 1
          | .either => 2) ∧ tag = BitVec.ofNat 8 g.tag ∧ mode = if g.mode = .once then 0 else 1 := by
  unfold checkedTrigger
  constructor
  · intro x
    split at x
    · rename_i hc
      simp only [Option.bind_eq_bind, Option.bind_eq_some_iff, readEdge_eq_some, readTriggerMode_eq_some] at x
      obtain ⟨e, he, m, hm, x⟩ := x
      cases x
      exact ⟨hc.1, hc.2.1, by have := hc.2.2.1; simp only; omega, tag.isLt, rfl, by simp, by simp, he, by simp, hm⟩
    · cases x
  · rintro ⟨h1, h2, h3, h4, rfl, hn, hs, he, ht, hm⟩
    have en : number.toNat = k := (byte_eq_iff number _ (by omega)).mp hn
    have es : source.toNat = g.source := (byte_eq_iff source _ (by omega)).mp hs
    have et : tag.toNat = g.tag := (byte_eq_iff tag _ (by omega)).mp ht
    rw [if_pos (by omega), (readEdge_eq_some ..).mpr he, (readTriggerMode_eq_some ..).mpr hm, en, es, et]
    rfl

theorem length_twelve {b : List Byte} (h : b.length = 12) :
    ∃ b0 b1 b2 b3 b4 b5 b6 b7 b8 b9 b10 b11, b = [b0, b1, b2, b3, b4, b5, b6, b7, b8, b9, b10, b11] := by
  match b, h with
  | [b0, b1, b2, b3, b4, b5, b6, b7, b8, b9, b10, b11], _ =>
    exact ⟨b0, b1, b2, b3, b4, b5, b6, b7, b8, b9, b10, b11, rfl⟩

theorem readBindRecord_eq_some (b1 b2 b3 b4 b5 b6 b7 : Byte) (x : PlanRecord) :
    readBindRecord [0x10, b1, b2, b3, b4, b5, b6, b7] = some x ↔
      ∃ c spec, x = .bind c spec ∧ x.recordBytes [0x10, b1, b2, b3, b4, b5, b6, b7] := by
  have q2 : toByte (field [0x10, b1, b2, b3, b4, b5, b6, b7] 2 1) = b2 := by simp [field, toByte]
  have q1 : field [0x10, b1, b2, b3, b4, b5, b6, b7] 1 1 = b1.toNat := by simp [field]
  have q6 : field [0x10, b1, b2, b3, b4, b5, b6, b7] 6 1 = b6.toNat := by simp [field]
  have q7 : field [0x10, b1, b2, b3, b4, b5, b6, b7] 7 1 = b7.toNat := by simp [field]
  have q67 : field [0x10, b1, b2, b3, b4, b5, b6, b7] 6 2 = leNat [b6, b7] := rfl
  have qp : ([0x10, b1, b2, b3, b4, b5, b6, b7].drop 3).take 3 = [b3, b4, b5] := rfl
  have w2 : leBytes 2 (leNat [b6, b7]) = [b6, b7] := leBytes_leNat [b6, b7]
  have l2 : leNat [b6, b7] < 65536 := by simpa using leNat_lt [b6, b7]
  unfold readBindRecord
  simp only [q1, q2, q6, q7, q67, qp]
  constructor
  · intro h
    by_cases hc : 31 < b1.toNat
    case pos => rw [if_pos hc] at h; cases h
    rw [if_neg hc] at h
    by_cases hd : b2.getLsbD 0 = true
    · rw [if_pos hd, Option.map_eq_some_iff] at h
      obtain ⟨spec, h, rfl⟩ := h
      rw [checkedInput_eq_some] at h
      obtain ⟨pin, rfl, hp, hr⟩ := h
      exact ⟨_, _, rfl, by omega, b2, [b3, b4, b5], ⟨rfl, hp.symm⟩, hd, hr, by simp⟩
    · rw [if_neg hd, Option.map_eq_some_iff] at h
      obtain ⟨spec, h, rfl⟩ := h
      rw [checkedOutput_eq_some] at h
      obtain ⟨g, rfl, hp, h1, h2, h3, hr⟩ := h
      refine ⟨_, _, rfl, by omega, b2, [b3, b4, b5], ⟨rfl, hp⟩, by simpa using hd, ?_, ?_, ?_, _, hr, ?_⟩
      · rw [h1]; split <;> simp_all
      · rw [h2]; split <;> simp_all
      · rw [h3]; split <;> simp_all
      · rw [w2]; simp
  · rintro ⟨c, spec, rfl, hc, opts, places, ⟨hl, hp⟩, h⟩
    obtain ⟨p0, p1, p2, rfl⟩ := length_three hl
    cases spec with
    | output g =>
      obtain ⟨h0, h1, h2, h3, settle, hr, e⟩ := h
      have hs : settle < 65536 := by have := hr.2.2.2.2.1; omega
      have e' : [b6, b7] = leBytes 2 settle := by simpa [leBytes] using congrArg (List.drop 6) e
      simp [leBytes] at e
      obtain ⟨rfl, rfl, rfl, rfl, rfl, -⟩ := e
      have ec : (BitVec.ofNat 8 c).toNat = c := by simp; omega
      have en : leNat [b6, b7] = settle := by rw [e', leNat_leBytes 2 _ hs]
      have hpol : (if b2.getLsbD 1 = true then Polarity.activeLow else .activeHigh) = g.polarity := by
        cases hg : g.polarity <;> simp_all
      have hdrv : (if b2.getLsbD 2 = true then Drive.openDrain else .pushPull) = g.drive := by
        cases hg : g.drive <;> simp_all
      have hsafe : (if b2.getLsbD 3 = true then Level.active else .inactive) = g.safe := by
        cases hg : g.safe <;> simp_all
      rw [ec, if_neg (by omega), if_neg (by rw [h0]; decide), en, hpol, hdrv, hsafe,
        (checkedOutput_eq_some (pinsOf [b3, b4, b5]) ..).mpr ⟨g, rfl, hp, rfl, rfl, rfl, hr⟩]
      rfl
    | input pin interval qualify =>
      obtain ⟨h0, hr, e⟩ := h
      simp at e
      obtain ⟨rfl, rfl, rfl, rfl, rfl, rfl, rfl⟩ := e
      have ec : (BitVec.ofNat 8 c).toNat = c := by simp; omega
      have ei : (BitVec.ofNat 8 interval).toNat = interval := by
        have := hr.2.2.1; simp; omega
      have eq : (BitVec.ofNat 8 qualify).toNat = qualify := by
        have := hr.2.2.2.2; simp; omega
      rw [ec, ei, eq, if_neg (by omega), if_pos h0,
        (checkedInput_eq_some (pinsOf [b3, b4, b5]) ..).mpr ⟨pin, rfl, hp.symm, hr⟩]
      rfl

/-- The kind byte of an action's bytes is one of the four. -/
theorem Action.bytesFor_kind {a : Action} {request : Bool} {form : ActionForm} {bytes : List Byte}
    (h : a.bytesFor request form bytes) : 0x40 ≤ field bytes 0 1 ∧ field bytes 0 1 ≤ 0x43 := by
  obtain ⟨flags, code, width, time, unused, rep, grd, rfl, -⟩ := h
  rw [field_byte _ (0x40 + (if a.rep.isSome then 1 else 0) + (if a.grd.isSome then 2 else 0)) 0 rfl]
  split <;> split <;> decide

/-- R161, R193: a plan record is read exactly from the bytes of its layout. -/
theorem readRecord_eq_some (bytes : List Byte) (x : PlanRecord) (h : bytes.length = recordSize (field bytes 0 1)) :
    readRecord bytes = some x ↔ x.recordBytes bytes := by
  have kind : ∀ b0 rest, bytes = b0 :: rest → field bytes 0 1 = b0.toNat := fun b0 rest e =>
    field_byte _ _ _ (by rw [e]; rfl)
  unfold readRecord
  split
  · rename_i e
    rw [e] at h
    obtain ⟨b0, b1, b2, b3, b4, b5, b6, b7, rfl⟩ := length_eight h
    have e0 : b0 = 0x10 := (byte_eq_iff b0 0x10 (by decide)).mpr (by rw [← kind _ _ rfl, e])
    subst e0
    rw [readBindRecord_eq_some]
    constructor
    · rintro ⟨c, spec, rfl, hx⟩
      exact hx
    · intro hx
      cases x with
      | bind c spec => exact ⟨c, spec, rfl, hx⟩
      | interlock r =>
        obtain ⟨-, -, -, -, u, -, e⟩ := hx
        simp at e
      | trigger k g =>
        obtain ⟨-, -, -, -, -, u, -, e⟩ := hx
        simp at e
      | action form a =>
        have := Action.bytesFor_kind hx
        omega
      | unreadable => exact hx.elim
  · rename_i e
    rw [e] at h
    obtain ⟨b0, b1, b2, b3, b4, b5, b6, b7, rfl⟩ := length_eight h
    have e0 : b0 = 0x20 := (byte_eq_iff b0 0x20 (by decide)).mpr (by rw [← kind _ _ rfl, e])
    subst e0
    have q1 : field [0x20, b1, b2, b3, b4, b5, b6, b7] 1 1 = b1.toNat := by simp [field]
    have q2 : field [0x20, b1, b2, b3, b4, b5, b6, b7] 2 1 = b2.toNat := by simp [field]
    have q3 : field [0x20, b1, b2, b3, b4, b5, b6, b7] 3 1 = b3.toNat := by simp [field]
    have q4 : field [0x20, b1, b2, b3, b4, b5, b6, b7] 4 2 = leNat [b4, b5] := rfl
    have w2 : leBytes 2 (leNat [b4, b5]) = [b4, b5] := leBytes_leNat [b4, b5]
    have l2 : leNat [b4, b5] < 65536 := by simpa using leNat_lt [b4, b5]
    rw [q1, q2, q3, q4, Option.map_eq_some_iff]
    constructor
    · rintro ⟨r, hr, rfl⟩
      rw [checkedInterlock_eq_some] at hr
      obtain ⟨h1, h2, h3, h4, h5, h6, h7⟩ := hr
      refine ⟨h1, h2, h3, by omega, [b6, b7], rfl, ?_⟩
      rw [h4, w2, ← h5, ← h6, ← h7]
      rfl
    · intro hx
      cases x with
      | bind c spec =>
        obtain ⟨-, opts, places, -, hx⟩ := hx
        cases spec with
        | output g =>
          obtain ⟨-, -, -, -, settle, -, e⟩ := hx
          simp at e
        | input pin interval qualify =>
          obtain ⟨-, -, e⟩ := hx
          simp at e
      | interlock r =>
        obtain ⟨h1, h2, h3, h4, u, -, e⟩ := hx
        have e' : [b4, b5] = leBytes 2 r.dead := by
          simpa [leBytes] using congrArg (fun l => (List.drop 4 l).take 2) e
        simp only [List.cons_append, List.cons.injEq] at e
        refine ⟨r, (checkedInterlock_eq_some ..).mpr ⟨h1, h2, h3, ?_, e.2.1, e.2.2.1, e.2.2.2.1⟩, rfl⟩
        rw [e', leNat_leBytes 2 _ h4]
      | trigger k g =>
        obtain ⟨-, -, -, -, -, u, -, e⟩ := hx
        simp at e
      | action form a =>
        have := Action.bytesFor_kind hx
        omega
      | unreadable => exact hx.elim
  · rename_i e
    rw [e] at h
    obtain ⟨b0, b1, b2, b3, b4, b5, b6, b7, b8, b9, b10, b11, rfl⟩ := length_twelve h
    have e0 : b0 = 0x30 := (byte_eq_iff b0 0x30 (by decide)).mpr (by rw [← kind _ _ rfl, e])
    subst e0
    have q1 : field [0x30, b1, b2, b3, b4, b5, b6, b7, b8, b9, b10, b11] 1 1 = b1.toNat := by simp [field]
    have q2 : field [0x30, b1, b2, b3, b4, b5, b6, b7, b8, b9, b10, b11] 2 1 = b2.toNat := by simp [field]
    have q3 : field [0x30, b1, b2, b3, b4, b5, b6, b7, b8, b9, b10, b11] 3 1 = b3.toNat := by simp [field]
    have q4 : field [0x30, b1, b2, b3, b4, b5, b6, b7, b8, b9, b10, b11] 4 1 = b4.toNat := by simp [field]
    have q5 : field [0x30, b1, b2, b3, b4, b5, b6, b7, b8, b9, b10, b11] 5 1 = b5.toNat := by simp [field]
    have q6 : field [0x30, b1, b2, b3, b4, b5, b6, b7, b8, b9, b10, b11] 6 3 = leNat [b6, b7, b8] := rfl
    have w3 : leBytes 3 (leNat [b6, b7, b8]) = [b6, b7, b8] := leBytes_leNat [b6, b7, b8]
    have l3 : leNat [b6, b7, b8] < 2 ^ 24 := by simpa using leNat_lt [b6, b7, b8]
    rw [q1, q2, q3, q4, q5, q6, Option.map_eq_some_iff]
    constructor
    · rintro ⟨⟨k, g⟩, hr, rfl⟩
      rw [checkedTrigger_eq_some _ _ _ _ _ _ _ _ l3] at hr
      obtain ⟨h1, h2, h3, h4, h5, h6, h7, h8, h9, h10⟩ := hr
      refine ⟨h1, h2, h3, h4, h5 ▸ l3, [b9, b10, b11], rfl, ?_⟩
      show _ = [0x30, BitVec.ofNat 8 k, BitVec.ofNat 8 g.source,
        (match g.edge with
          | .rising => 0
          | .falling => 1
          | .either => 2), BitVec.ofNat 8 g.tag, if g.mode = .once then 0 else 1] ++ leBytes 3 g.holdoff ++
        [b9, b10, b11]
      rw [h5, w3, ← h6, ← h7, ← h8, ← h9, ← h10]
      rfl
    · intro hx
      cases x with
      | bind c spec =>
        obtain ⟨-, opts, places, -, hx⟩ := hx
        cases spec with
        | output g =>
          obtain ⟨-, -, -, -, settle, -, e⟩ := hx
          simp at e
        | input pin interval qualify =>
          obtain ⟨-, -, e⟩ := hx
          simp at e
      | interlock r =>
        obtain ⟨-, -, -, -, u, -, e⟩ := hx
        simp at e
      | trigger k g =>
        obtain ⟨h1, h2, h3, h4, h5, u, -, e⟩ := hx
        have e' : [b6, b7, b8] = leBytes 3 g.holdoff := by
          simpa [leBytes] using congrArg (fun l => (List.drop 6 l).take 3) e
        simp only [List.cons_append, List.cons.injEq] at e
        refine ⟨(k, g), (checkedTrigger_eq_some _ _ _ _ _ _ _ _ l3).mpr ⟨h1, h2, h3, h4, ?_, e.2.1, e.2.2.1,
          e.2.2.2.1, e.2.2.2.2.1, e.2.2.2.2.2.1⟩, rfl⟩
        rw [e', leNat_leBytes 3 _ h5]
      | action form a =>
        have := Action.bytesFor_kind hx
        omega
      | unreadable => exact hx.elim
  · rename_i e1 e2 e3
    rw [Option.map_eq_some_iff]
    constructor
    · rintro ⟨⟨form, a⟩, hr, rfl⟩
      exact (readAction_eq_some ..).mp hr
    · intro hx
      cases x with
      | bind c spec =>
        obtain ⟨-, opts, places, -, hx⟩ := hx
        refine absurd ?_ e1
        cases spec with
        | output g =>
          obtain ⟨-, -, -, -, settle, -, rfl⟩ := hx
          exact field_byte _ 0x10 _ rfl
        | input pin interval qualify =>
          obtain ⟨-, -, rfl⟩ := hx
          exact field_byte _ 0x10 _ rfl
      | interlock r =>
        obtain ⟨-, -, -, -, u, -, rfl⟩ := hx
        exact absurd (field_byte _ 0x20 _ rfl) e2
      | trigger k g =>
        obtain ⟨-, -, -, -, -, u, -, rfl⟩ := hx
        exact absurd (field_byte _ 0x30 _ rfl) e3
      | action form a => exact ⟨(form, a), (readAction_eq_some ..).mpr hx, rfl⟩
      | unreadable => exact hx.elim

end Sys2Proof.Machine
end

