-- ==== Sys2Proof/Laws/State.lean ====
section
/-!
SUPPORT. Laws/State.lean: what each writer of the state changes, field by field, and reading after writing. No
later proof needs to unfold a record update.
-/

namespace Sys2Proof.Machine

/-! ### Tables -/

theorem tget_tset_same {α : Type} {n : Nat} (v : Vector α n) (i : Nat) (a d : α) (h : i < n) :
    tget (tset v i a) i d = a := by
  simp [tget, tset, h]

theorem tget_tset_ne {α : Type} {n : Nat} (v : Vector α n) (i j : Nat) (a d : α) (h : i ≠ j) :
    tget (tset v i a) j d = tget v j d := by
  simp [tget, tset, h]

theorem tset_out {α : Type} {n : Nat} (v : Vector α n) (i : Nat) (a : α) (h : n ≤ i) : tset v i a = v := by
  simp [tset, Vector.setIfInBounds_eq_of_size_le, h]

theorem tget_out {α : Type} {n : Nat} (v : Vector α n) (i : Nat) (d : α) (h : n ≤ i) : tget v i d = d := by
  simp [tget, h]

theorem tget_replicate {α : Type} (n i : Nat) (a : α) : tget (Vector.replicate n a) i a = a := by
  by_cases h : i < n <;> simp [tget, h]

theorem tget_map {α β : Type} {n : Nat} (f : α → β) (v : Vector α n) (i : Nat) (d : α) :
    tget (v.map f) i (f d) = f (tget v i d) := by
  by_cases h : i < n <;> simp [tget, h]


/-! ### State.setChan -/

@[simp] theorem State.setChan_time (s : State) (c : Nat) (r : Channel) : (s.setChan c r).time = s.time := rfl
@[simp] theorem State.setChan_pins (s : State) (c : Nat) (r : Channel) : (s.setChan c r).pins = s.pins := rfl
@[simp] theorem State.setChan_queue (s : State) (c : Nat) (r : Channel) :
    (s.setChan c r).queue = s.queue := rfl
@[simp] theorem State.setChan_handleCounter (s : State) (c : Nat) (r : Channel) :
    (s.setChan c r).handleCounter = s.handleCounter := rfl
@[simp] theorem State.setChan_nextAdmission (s : State) (c : Nat) (r : Channel) :
    (s.setChan c r).nextAdmission = s.nextAdmission := rfl
@[simp] theorem State.setChan_inFlight (s : State) (c : Nat) (r : Channel) :
    (s.setChan c r).inFlight = s.inFlight := rfl
@[simp] theorem State.setChan_levelChanges (s : State) (c : Nat) (r : Channel) :
    (s.setChan c r).levelChanges = s.levelChanges := rfl
@[simp] theorem State.setChan_fireRequests (s : State) (c : Nat) (r : Channel) :
    (s.setChan c r).fireRequests = s.fireRequests := rfl
@[simp] theorem State.setChan_interlocks (s : State) (c : Nat) (r : Channel) :
    (s.setChan c r).interlocks = s.interlocks := rfl
@[simp] theorem State.setChan_triggers (s : State) (c : Nat) (r : Channel) :
    (s.setChan c r).triggers = s.triggers := rfl
@[simp] theorem State.setChan_edges (s : State) (c : Nat) (r : Channel) :
    (s.setChan c r).edges = s.edges := rfl
@[simp] theorem State.setChan_stop (s : State) (c : Nat) (r : Channel) : (s.setChan c r).stop = s.stop := rfl
@[simp] theorem State.setChan_sessions (s : State) (c : Nat) (r : Channel) :
    (s.setChan c r).sessions = s.sessions := rfl
@[simp] theorem State.setChan_reports (s : State) (c : Nat) (r : Channel) :
    (s.setChan c r).reports = s.reports := rfl
@[simp] theorem State.setChan_handed (s : State) (c : Nat) (r : Channel) :
    (s.setChan c r).handed = s.handed := rfl
@[simp] theorem State.setChan_slots (s : State) (c : Nat) (r : Channel) :
    (s.setChan c r).slots = s.slots := rfl
@[simp] theorem State.setChan_build (s : State) (c : Nat) (r : Channel) :
    (s.setChan c r).build = s.build := rfl
@[simp] theorem State.setChan_store (s : State) (c : Nat) (r : Channel) :
    (s.setChan c r).store = s.store := rfl
@[simp] theorem State.setChan_supply (s : State) (c : Nat) (r : Channel) :
    (s.setChan c r).supply = s.supply := rfl
@[simp] theorem State.setChan_startup (s : State) (c : Nat) (r : Channel) :
    (s.setChan c r).startup = s.startup := rfl
@[simp] theorem State.setChan_linkA (s : State) (c : Nat) (r : Channel) :
    (s.setChan c r).linkA = s.linkA := rfl
@[simp] theorem State.setChan_linkB (s : State) (c : Nat) (r : Channel) :
    (s.setChan c r).linkB = s.linkB := rfl
@[simp] theorem State.setChan_rxA (s : State) (c : Nat) (r : Channel) : (s.setChan c r).rxA = s.rxA := rfl
@[simp] theorem State.setChan_baud (s : State) (c : Nat) (r : Channel) : (s.setChan c r).baud = s.baud := rfl
@[simp] theorem State.setChan_sendingA (s : State) (c : Nat) (r : Channel) :
    (s.setChan c r).sendingA = s.sendingA := rfl
@[simp] theorem State.setChan_txd (s : State) (c : Nat) (r : Channel) : (s.setChan c r).txd = s.txd := rfl
@[simp] theorem State.setChan_offered (s : State) (c : Nat) (r : Channel) :
    (s.setChan c r).offered = s.offered := rfl
@[simp] theorem State.setChan_reading (s : State) (c : Nat) (r : Channel) :
    (s.setChan c r).reading = s.reading := rfl
@[simp] theorem State.setChan_miso (s : State) (c : Nat) (r : Channel) : (s.setChan c r).miso = s.miso := rfl
@[simp] theorem State.setChan_deviceReset (s : State) (c : Nat) (r : Channel) :
    (s.setChan c r).deviceReset = s.deviceReset := rfl
@[simp] theorem State.setChan_pending (s : State) (c : Nat) (r : Channel) :
    (s.setChan c r).pending = s.pending := rfl
@[simp] theorem State.setChan_now (s : State) (c : Nat) (r : Channel) : (s.setChan c r).now = s.now := rfl
@[simp] theorem State.setChan_elapsed (s : State) (c : Nat) (r : Channel) :
    (s.setChan c r).elapsed = s.elapsed := rfl
@[simp] theorem State.setChan_pin (s : State) (c : Nat) (r : Channel) (x : Nat) :
    (s.setChan c r).pin x = s.pin x := rfl
@[simp] theorem State.setChan_trigger (s : State) (c : Nat) (r : Channel) (x : Nat) :
    (s.setChan c r).trigger x = s.trigger x := rfl
@[simp] theorem State.setChan_interlock (s : State) (c : Nat) (r : Channel) (x : Nat) :
    (s.setChan c r).interlock x = s.interlock x := rfl
@[simp] theorem State.setChan_interlockList (s : State) (c : Nat) (r : Channel) :
    (s.setChan c r).interlockList = s.interlockList := rfl
@[simp] theorem State.setChan_triggerList (s : State) (c : Nat) (r : Channel) :
    (s.setChan c r).triggerList = s.triggerList := rfl
@[simp] theorem State.setChan_session (s : State) (c : Nat) (r : Channel) (x : Nat) :
    (s.setChan c r).session x = s.session x := rfl
@[simp] theorem State.setChan_classOf (s : State) (c : Nat) (r : Channel) (x : Nat) :
    (s.setChan c r).classOf x = s.classOf x := rfl
@[simp] theorem State.setChan_reportQueue (s : State) (c : Nat) (r : Channel) (x : Nat) :
    (s.setChan c r).reportQueue x = s.reportQueue x := rfl
@[simp] theorem State.setChan_slot (s : State) (c : Nat) (r : Channel) (x : Nat) :
    (s.setChan c r).slot x = s.slot x := rfl
@[simp] theorem State.setChan_link (s : State) (c : Nat) (r : Channel) (x : Port) :
    (s.setChan c r).link x = s.link x := rfl
@[simp] theorem State.setChan_stopped (s : State) (c : Nat) (r : Channel) :
    (s.setChan c r).stopped = s.stopped := rfl
@[simp] theorem State.setChan_entry (s : State) (c : Nat) (r : Channel) (x : Nat) :
    (s.setChan c r).entry? x = s.entry? x := rfl
@[simp] theorem State.setChan_storeBusy (s : State) (c : Nat) (r : Channel) :
    (s.setChan c r).storeBusy = s.storeBusy := rfl

/-! ### State.setPins -/

@[simp] theorem State.setPins_time (s : State) (ps : List Nat) (r : PinRec) :
    (s.setPins ps r).time = s.time := rfl
@[simp] theorem State.setPins_channels (s : State) (ps : List Nat) (r : PinRec) :
    (s.setPins ps r).channels = s.channels := rfl
@[simp] theorem State.setPins_queue (s : State) (ps : List Nat) (r : PinRec) :
    (s.setPins ps r).queue = s.queue := rfl
@[simp] theorem State.setPins_handleCounter (s : State) (ps : List Nat) (r : PinRec) :
    (s.setPins ps r).handleCounter = s.handleCounter := rfl
@[simp] theorem State.setPins_nextAdmission (s : State) (ps : List Nat) (r : PinRec) :
    (s.setPins ps r).nextAdmission = s.nextAdmission := rfl
@[simp] theorem State.setPins_inFlight (s : State) (ps : List Nat) (r : PinRec) :
    (s.setPins ps r).inFlight = s.inFlight := rfl
@[simp] theorem State.setPins_levelChanges (s : State) (ps : List Nat) (r : PinRec) :
    (s.setPins ps r).levelChanges = s.levelChanges := rfl
@[simp] theorem State.setPins_fireRequests (s : State) (ps : List Nat) (r : PinRec) :
    (s.setPins ps r).fireRequests = s.fireRequests := rfl
@[simp] theorem State.setPins_interlocks (s : State) (ps : List Nat) (r : PinRec) :
    (s.setPins ps r).interlocks = s.interlocks := rfl
@[simp] theorem State.setPins_triggers (s : State) (ps : List Nat) (r : PinRec) :
    (s.setPins ps r).triggers = s.triggers := rfl
@[simp] theorem State.setPins_edges (s : State) (ps : List Nat) (r : PinRec) :
    (s.setPins ps r).edges = s.edges := rfl
@[simp] theorem State.setPins_stop (s : State) (ps : List Nat) (r : PinRec) :
    (s.setPins ps r).stop = s.stop := rfl
@[simp] theorem State.setPins_sessions (s : State) (ps : List Nat) (r : PinRec) :
    (s.setPins ps r).sessions = s.sessions := rfl
@[simp] theorem State.setPins_reports (s : State) (ps : List Nat) (r : PinRec) :
    (s.setPins ps r).reports = s.reports := rfl
@[simp] theorem State.setPins_handed (s : State) (ps : List Nat) (r : PinRec) :
    (s.setPins ps r).handed = s.handed := rfl
@[simp] theorem State.setPins_slots (s : State) (ps : List Nat) (r : PinRec) :
    (s.setPins ps r).slots = s.slots := rfl
@[simp] theorem State.setPins_build (s : State) (ps : List Nat) (r : PinRec) :
    (s.setPins ps r).build = s.build := rfl
@[simp] theorem State.setPins_store (s : State) (ps : List Nat) (r : PinRec) :
    (s.setPins ps r).store = s.store := rfl
@[simp] theorem State.setPins_supply (s : State) (ps : List Nat) (r : PinRec) :
    (s.setPins ps r).supply = s.supply := rfl
@[simp] theorem State.setPins_startup (s : State) (ps : List Nat) (r : PinRec) :
    (s.setPins ps r).startup = s.startup := rfl
@[simp] theorem State.setPins_linkA (s : State) (ps : List Nat) (r : PinRec) :
    (s.setPins ps r).linkA = s.linkA := rfl
@[simp] theorem State.setPins_linkB (s : State) (ps : List Nat) (r : PinRec) :
    (s.setPins ps r).linkB = s.linkB := rfl
@[simp] theorem State.setPins_rxA (s : State) (ps : List Nat) (r : PinRec) :
    (s.setPins ps r).rxA = s.rxA := rfl
@[simp] theorem State.setPins_baud (s : State) (ps : List Nat) (r : PinRec) :
    (s.setPins ps r).baud = s.baud := rfl
@[simp] theorem State.setPins_sendingA (s : State) (ps : List Nat) (r : PinRec) :
    (s.setPins ps r).sendingA = s.sendingA := rfl
@[simp] theorem State.setPins_txd (s : State) (ps : List Nat) (r : PinRec) :
    (s.setPins ps r).txd = s.txd := rfl
@[simp] theorem State.setPins_offered (s : State) (ps : List Nat) (r : PinRec) :
    (s.setPins ps r).offered = s.offered := rfl
@[simp] theorem State.setPins_reading (s : State) (ps : List Nat) (r : PinRec) :
    (s.setPins ps r).reading = s.reading := rfl
@[simp] theorem State.setPins_miso (s : State) (ps : List Nat) (r : PinRec) :
    (s.setPins ps r).miso = s.miso := rfl
@[simp] theorem State.setPins_deviceReset (s : State) (ps : List Nat) (r : PinRec) :
    (s.setPins ps r).deviceReset = s.deviceReset := rfl
@[simp] theorem State.setPins_pending (s : State) (ps : List Nat) (r : PinRec) :
    (s.setPins ps r).pending = s.pending := rfl
@[simp] theorem State.setPins_now (s : State) (ps : List Nat) (r : PinRec) :
    (s.setPins ps r).now = s.now := rfl
@[simp] theorem State.setPins_elapsed (s : State) (ps : List Nat) (r : PinRec) :
    (s.setPins ps r).elapsed = s.elapsed := rfl
@[simp] theorem State.setPins_chan (s : State) (ps : List Nat) (r : PinRec) (x : Nat) :
    (s.setPins ps r).chan x = s.chan x := rfl
@[simp] theorem State.setPins_trigger (s : State) (ps : List Nat) (r : PinRec) (x : Nat) :
    (s.setPins ps r).trigger x = s.trigger x := rfl
@[simp] theorem State.setPins_interlock (s : State) (ps : List Nat) (r : PinRec) (x : Nat) :
    (s.setPins ps r).interlock x = s.interlock x := rfl
@[simp] theorem State.setPins_interlockList (s : State) (ps : List Nat) (r : PinRec) :
    (s.setPins ps r).interlockList = s.interlockList := rfl
@[simp] theorem State.setPins_triggerList (s : State) (ps : List Nat) (r : PinRec) :
    (s.setPins ps r).triggerList = s.triggerList := rfl
@[simp] theorem State.setPins_session (s : State) (ps : List Nat) (r : PinRec) (x : Nat) :
    (s.setPins ps r).session x = s.session x := rfl
@[simp] theorem State.setPins_classOf (s : State) (ps : List Nat) (r : PinRec) (x : Nat) :
    (s.setPins ps r).classOf x = s.classOf x := rfl
@[simp] theorem State.setPins_reportQueue (s : State) (ps : List Nat) (r : PinRec) (x : Nat) :
    (s.setPins ps r).reportQueue x = s.reportQueue x := rfl
@[simp] theorem State.setPins_slot (s : State) (ps : List Nat) (r : PinRec) (x : Nat) :
    (s.setPins ps r).slot x = s.slot x := rfl
@[simp] theorem State.setPins_link (s : State) (ps : List Nat) (r : PinRec) (x : Port) :
    (s.setPins ps r).link x = s.link x := rfl
@[simp] theorem State.setPins_stopped (s : State) (ps : List Nat) (r : PinRec) :
    (s.setPins ps r).stopped = s.stopped := rfl
@[simp] theorem State.setPins_entry (s : State) (ps : List Nat) (r : PinRec) (x : Nat) :
    (s.setPins ps r).entry? x = s.entry? x := rfl
@[simp] theorem State.setPins_storeBusy (s : State) (ps : List Nat) (r : PinRec) :
    (s.setPins ps r).storeBusy = s.storeBusy := rfl

/-! ### State.setTrigger -/

@[simp] theorem State.setTrigger_time (s : State) (t : Nat) (r : Option Trigger) :
    (s.setTrigger t r).time = s.time := rfl
@[simp] theorem State.setTrigger_pins (s : State) (t : Nat) (r : Option Trigger) :
    (s.setTrigger t r).pins = s.pins := rfl
@[simp] theorem State.setTrigger_channels (s : State) (t : Nat) (r : Option Trigger) :
    (s.setTrigger t r).channels = s.channels := rfl
@[simp] theorem State.setTrigger_queue (s : State) (t : Nat) (r : Option Trigger) :
    (s.setTrigger t r).queue = s.queue := rfl
@[simp] theorem State.setTrigger_handleCounter (s : State) (t : Nat) (r : Option Trigger) :
    (s.setTrigger t r).handleCounter = s.handleCounter := rfl
@[simp] theorem State.setTrigger_nextAdmission (s : State) (t : Nat) (r : Option Trigger) :
    (s.setTrigger t r).nextAdmission = s.nextAdmission := rfl
@[simp] theorem State.setTrigger_inFlight (s : State) (t : Nat) (r : Option Trigger) :
    (s.setTrigger t r).inFlight = s.inFlight := rfl
@[simp] theorem State.setTrigger_levelChanges (s : State) (t : Nat) (r : Option Trigger) :
    (s.setTrigger t r).levelChanges = s.levelChanges := rfl
@[simp] theorem State.setTrigger_fireRequests (s : State) (t : Nat) (r : Option Trigger) :
    (s.setTrigger t r).fireRequests = s.fireRequests := rfl
@[simp] theorem State.setTrigger_interlocks (s : State) (t : Nat) (r : Option Trigger) :
    (s.setTrigger t r).interlocks = s.interlocks := rfl
@[simp] theorem State.setTrigger_edges (s : State) (t : Nat) (r : Option Trigger) :
    (s.setTrigger t r).edges = s.edges := rfl
@[simp] theorem State.setTrigger_stop (s : State) (t : Nat) (r : Option Trigger) :
    (s.setTrigger t r).stop = s.stop := rfl
@[simp] theorem State.setTrigger_sessions (s : State) (t : Nat) (r : Option Trigger) :
    (s.setTrigger t r).sessions = s.sessions := rfl
@[simp] theorem State.setTrigger_reports (s : State) (t : Nat) (r : Option Trigger) :
    (s.setTrigger t r).reports = s.reports := rfl
@[simp] theorem State.setTrigger_handed (s : State) (t : Nat) (r : Option Trigger) :
    (s.setTrigger t r).handed = s.handed := rfl
@[simp] theorem State.setTrigger_slots (s : State) (t : Nat) (r : Option Trigger) :
    (s.setTrigger t r).slots = s.slots := rfl
@[simp] theorem State.setTrigger_build (s : State) (t : Nat) (r : Option Trigger) :
    (s.setTrigger t r).build = s.build := rfl
@[simp] theorem State.setTrigger_store (s : State) (t : Nat) (r : Option Trigger) :
    (s.setTrigger t r).store = s.store := rfl
@[simp] theorem State.setTrigger_supply (s : State) (t : Nat) (r : Option Trigger) :
    (s.setTrigger t r).supply = s.supply := rfl
@[simp] theorem State.setTrigger_startup (s : State) (t : Nat) (r : Option Trigger) :
    (s.setTrigger t r).startup = s.startup := rfl
@[simp] theorem State.setTrigger_linkA (s : State) (t : Nat) (r : Option Trigger) :
    (s.setTrigger t r).linkA = s.linkA := rfl
@[simp] theorem State.setTrigger_linkB (s : State) (t : Nat) (r : Option Trigger) :
    (s.setTrigger t r).linkB = s.linkB := rfl
@[simp] theorem State.setTrigger_rxA (s : State) (t : Nat) (r : Option Trigger) :
    (s.setTrigger t r).rxA = s.rxA := rfl
@[simp] theorem State.setTrigger_baud (s : State) (t : Nat) (r : Option Trigger) :
    (s.setTrigger t r).baud = s.baud := rfl
@[simp] theorem State.setTrigger_sendingA (s : State) (t : Nat) (r : Option Trigger) :
    (s.setTrigger t r).sendingA = s.sendingA := rfl
@[simp] theorem State.setTrigger_txd (s : State) (t : Nat) (r : Option Trigger) :
    (s.setTrigger t r).txd = s.txd := rfl
@[simp] theorem State.setTrigger_offered (s : State) (t : Nat) (r : Option Trigger) :
    (s.setTrigger t r).offered = s.offered := rfl
@[simp] theorem State.setTrigger_reading (s : State) (t : Nat) (r : Option Trigger) :
    (s.setTrigger t r).reading = s.reading := rfl
@[simp] theorem State.setTrigger_miso (s : State) (t : Nat) (r : Option Trigger) :
    (s.setTrigger t r).miso = s.miso := rfl
@[simp] theorem State.setTrigger_deviceReset (s : State) (t : Nat) (r : Option Trigger) :
    (s.setTrigger t r).deviceReset = s.deviceReset := rfl
@[simp] theorem State.setTrigger_pending (s : State) (t : Nat) (r : Option Trigger) :
    (s.setTrigger t r).pending = s.pending := rfl
@[simp] theorem State.setTrigger_now (s : State) (t : Nat) (r : Option Trigger) :
    (s.setTrigger t r).now = s.now := rfl
@[simp] theorem State.setTrigger_elapsed (s : State) (t : Nat) (r : Option Trigger) :
    (s.setTrigger t r).elapsed = s.elapsed := rfl
@[simp] theorem State.setTrigger_chan (s : State) (t : Nat) (r : Option Trigger) (x : Nat) :
    (s.setTrigger t r).chan x = s.chan x := rfl
@[simp] theorem State.setTrigger_pin (s : State) (t : Nat) (r : Option Trigger) (x : Nat) :
    (s.setTrigger t r).pin x = s.pin x := rfl
@[simp] theorem State.setTrigger_interlock (s : State) (t : Nat) (r : Option Trigger) (x : Nat) :
    (s.setTrigger t r).interlock x = s.interlock x := rfl
@[simp] theorem State.setTrigger_interlockList (s : State) (t : Nat) (r : Option Trigger) :
    (s.setTrigger t r).interlockList = s.interlockList := rfl
@[simp] theorem State.setTrigger_session (s : State) (t : Nat) (r : Option Trigger) (x : Nat) :
    (s.setTrigger t r).session x = s.session x := rfl
@[simp] theorem State.setTrigger_classOf (s : State) (t : Nat) (r : Option Trigger) (x : Nat) :
    (s.setTrigger t r).classOf x = s.classOf x := rfl
@[simp] theorem State.setTrigger_reportQueue (s : State) (t : Nat) (r : Option Trigger) (x : Nat) :
    (s.setTrigger t r).reportQueue x = s.reportQueue x := rfl
@[simp] theorem State.setTrigger_slot (s : State) (t : Nat) (r : Option Trigger) (x : Nat) :
    (s.setTrigger t r).slot x = s.slot x := rfl
@[simp] theorem State.setTrigger_link (s : State) (t : Nat) (r : Option Trigger) (x : Port) :
    (s.setTrigger t r).link x = s.link x := rfl
@[simp] theorem State.setTrigger_stopped (s : State) (t : Nat) (r : Option Trigger) :
    (s.setTrigger t r).stopped = s.stopped := rfl
@[simp] theorem State.setTrigger_entry (s : State) (t : Nat) (r : Option Trigger) (x : Nat) :
    (s.setTrigger t r).entry? x = s.entry? x := rfl
@[simp] theorem State.setTrigger_storeBusy (s : State) (t : Nat) (r : Option Trigger) :
    (s.setTrigger t r).storeBusy = s.storeBusy := rfl

/-! ### State.setInterlock -/

@[simp] theorem State.setInterlock_time (s : State) (i : Nat) (r : Option Interlock) :
    (s.setInterlock i r).time = s.time := rfl
@[simp] theorem State.setInterlock_pins (s : State) (i : Nat) (r : Option Interlock) :
    (s.setInterlock i r).pins = s.pins := rfl
@[simp] theorem State.setInterlock_channels (s : State) (i : Nat) (r : Option Interlock) :
    (s.setInterlock i r).channels = s.channels := rfl
@[simp] theorem State.setInterlock_queue (s : State) (i : Nat) (r : Option Interlock) :
    (s.setInterlock i r).queue = s.queue := rfl
@[simp] theorem State.setInterlock_handleCounter (s : State) (i : Nat) (r : Option Interlock) :
    (s.setInterlock i r).handleCounter = s.handleCounter := rfl
@[simp] theorem State.setInterlock_nextAdmission (s : State) (i : Nat) (r : Option Interlock) :
    (s.setInterlock i r).nextAdmission = s.nextAdmission := rfl
@[simp] theorem State.setInterlock_inFlight (s : State) (i : Nat) (r : Option Interlock) :
    (s.setInterlock i r).inFlight = s.inFlight := rfl
@[simp] theorem State.setInterlock_levelChanges (s : State) (i : Nat) (r : Option Interlock) :
    (s.setInterlock i r).levelChanges = s.levelChanges := rfl
@[simp] theorem State.setInterlock_fireRequests (s : State) (i : Nat) (r : Option Interlock) :
    (s.setInterlock i r).fireRequests = s.fireRequests := rfl
@[simp] theorem State.setInterlock_triggers (s : State) (i : Nat) (r : Option Interlock) :
    (s.setInterlock i r).triggers = s.triggers := rfl
@[simp] theorem State.setInterlock_edges (s : State) (i : Nat) (r : Option Interlock) :
    (s.setInterlock i r).edges = s.edges := rfl
@[simp] theorem State.setInterlock_stop (s : State) (i : Nat) (r : Option Interlock) :
    (s.setInterlock i r).stop = s.stop := rfl
@[simp] theorem State.setInterlock_sessions (s : State) (i : Nat) (r : Option Interlock) :
    (s.setInterlock i r).sessions = s.sessions := rfl
@[simp] theorem State.setInterlock_reports (s : State) (i : Nat) (r : Option Interlock) :
    (s.setInterlock i r).reports = s.reports := rfl
@[simp] theorem State.setInterlock_handed (s : State) (i : Nat) (r : Option Interlock) :
    (s.setInterlock i r).handed = s.handed := rfl
@[simp] theorem State.setInterlock_slots (s : State) (i : Nat) (r : Option Interlock) :
    (s.setInterlock i r).slots = s.slots := rfl
@[simp] theorem State.setInterlock_build (s : State) (i : Nat) (r : Option Interlock) :
    (s.setInterlock i r).build = s.build := rfl
@[simp] theorem State.setInterlock_store (s : State) (i : Nat) (r : Option Interlock) :
    (s.setInterlock i r).store = s.store := rfl
@[simp] theorem State.setInterlock_supply (s : State) (i : Nat) (r : Option Interlock) :
    (s.setInterlock i r).supply = s.supply := rfl
@[simp] theorem State.setInterlock_startup (s : State) (i : Nat) (r : Option Interlock) :
    (s.setInterlock i r).startup = s.startup := rfl
@[simp] theorem State.setInterlock_linkA (s : State) (i : Nat) (r : Option Interlock) :
    (s.setInterlock i r).linkA = s.linkA := rfl
@[simp] theorem State.setInterlock_linkB (s : State) (i : Nat) (r : Option Interlock) :
    (s.setInterlock i r).linkB = s.linkB := rfl
@[simp] theorem State.setInterlock_rxA (s : State) (i : Nat) (r : Option Interlock) :
    (s.setInterlock i r).rxA = s.rxA := rfl
@[simp] theorem State.setInterlock_baud (s : State) (i : Nat) (r : Option Interlock) :
    (s.setInterlock i r).baud = s.baud := rfl
@[simp] theorem State.setInterlock_sendingA (s : State) (i : Nat) (r : Option Interlock) :
    (s.setInterlock i r).sendingA = s.sendingA := rfl
@[simp] theorem State.setInterlock_txd (s : State) (i : Nat) (r : Option Interlock) :
    (s.setInterlock i r).txd = s.txd := rfl
@[simp] theorem State.setInterlock_offered (s : State) (i : Nat) (r : Option Interlock) :
    (s.setInterlock i r).offered = s.offered := rfl
@[simp] theorem State.setInterlock_reading (s : State) (i : Nat) (r : Option Interlock) :
    (s.setInterlock i r).reading = s.reading := rfl
@[simp] theorem State.setInterlock_miso (s : State) (i : Nat) (r : Option Interlock) :
    (s.setInterlock i r).miso = s.miso := rfl
@[simp] theorem State.setInterlock_deviceReset (s : State) (i : Nat) (r : Option Interlock) :
    (s.setInterlock i r).deviceReset = s.deviceReset := rfl
@[simp] theorem State.setInterlock_pending (s : State) (i : Nat) (r : Option Interlock) :
    (s.setInterlock i r).pending = s.pending := rfl
@[simp] theorem State.setInterlock_now (s : State) (i : Nat) (r : Option Interlock) :
    (s.setInterlock i r).now = s.now := rfl
@[simp] theorem State.setInterlock_elapsed (s : State) (i : Nat) (r : Option Interlock) :
    (s.setInterlock i r).elapsed = s.elapsed := rfl
@[simp] theorem State.setInterlock_chan (s : State) (i : Nat) (r : Option Interlock) (x : Nat) :
    (s.setInterlock i r).chan x = s.chan x := rfl
@[simp] theorem State.setInterlock_pin (s : State) (i : Nat) (r : Option Interlock) (x : Nat) :
    (s.setInterlock i r).pin x = s.pin x := rfl
@[simp] theorem State.setInterlock_trigger (s : State) (i : Nat) (r : Option Interlock) (x : Nat) :
    (s.setInterlock i r).trigger x = s.trigger x := rfl
@[simp] theorem State.setInterlock_triggerList (s : State) (i : Nat) (r : Option Interlock) :
    (s.setInterlock i r).triggerList = s.triggerList := rfl
@[simp] theorem State.setInterlock_session (s : State) (i : Nat) (r : Option Interlock) (x : Nat) :
    (s.setInterlock i r).session x = s.session x := rfl
@[simp] theorem State.setInterlock_classOf (s : State) (i : Nat) (r : Option Interlock) (x : Nat) :
    (s.setInterlock i r).classOf x = s.classOf x := rfl
@[simp] theorem State.setInterlock_reportQueue (s : State) (i : Nat) (r : Option Interlock) (x : Nat) :
    (s.setInterlock i r).reportQueue x = s.reportQueue x := rfl
@[simp] theorem State.setInterlock_slot (s : State) (i : Nat) (r : Option Interlock) (x : Nat) :
    (s.setInterlock i r).slot x = s.slot x := rfl
@[simp] theorem State.setInterlock_link (s : State) (i : Nat) (r : Option Interlock) (x : Port) :
    (s.setInterlock i r).link x = s.link x := rfl
@[simp] theorem State.setInterlock_stopped (s : State) (i : Nat) (r : Option Interlock) :
    (s.setInterlock i r).stopped = s.stopped := rfl
@[simp] theorem State.setInterlock_entry (s : State) (i : Nat) (r : Option Interlock) (x : Nat) :
    (s.setInterlock i r).entry? x = s.entry? x := rfl
@[simp] theorem State.setInterlock_storeBusy (s : State) (i : Nat) (r : Option Interlock) :
    (s.setInterlock i r).storeBusy = s.storeBusy := rfl

/-! ### State.setSlot -/

@[simp] theorem State.setSlot_time (s : State) (k : Nat) (r : Slot) : (s.setSlot k r).time = s.time := rfl
@[simp] theorem State.setSlot_pins (s : State) (k : Nat) (r : Slot) : (s.setSlot k r).pins = s.pins := rfl
@[simp] theorem State.setSlot_channels (s : State) (k : Nat) (r : Slot) :
    (s.setSlot k r).channels = s.channels := rfl
@[simp] theorem State.setSlot_queue (s : State) (k : Nat) (r : Slot) : (s.setSlot k r).queue = s.queue := rfl
@[simp] theorem State.setSlot_handleCounter (s : State) (k : Nat) (r : Slot) :
    (s.setSlot k r).handleCounter = s.handleCounter := rfl
@[simp] theorem State.setSlot_nextAdmission (s : State) (k : Nat) (r : Slot) :
    (s.setSlot k r).nextAdmission = s.nextAdmission := rfl
@[simp] theorem State.setSlot_inFlight (s : State) (k : Nat) (r : Slot) :
    (s.setSlot k r).inFlight = s.inFlight := rfl
@[simp] theorem State.setSlot_levelChanges (s : State) (k : Nat) (r : Slot) :
    (s.setSlot k r).levelChanges = s.levelChanges := rfl
@[simp] theorem State.setSlot_fireRequests (s : State) (k : Nat) (r : Slot) :
    (s.setSlot k r).fireRequests = s.fireRequests := rfl
@[simp] theorem State.setSlot_interlocks (s : State) (k : Nat) (r : Slot) :
    (s.setSlot k r).interlocks = s.interlocks := rfl
@[simp] theorem State.setSlot_triggers (s : State) (k : Nat) (r : Slot) :
    (s.setSlot k r).triggers = s.triggers := rfl
@[simp] theorem State.setSlot_edges (s : State) (k : Nat) (r : Slot) : (s.setSlot k r).edges = s.edges := rfl
@[simp] theorem State.setSlot_stop (s : State) (k : Nat) (r : Slot) : (s.setSlot k r).stop = s.stop := rfl
@[simp] theorem State.setSlot_sessions (s : State) (k : Nat) (r : Slot) :
    (s.setSlot k r).sessions = s.sessions := rfl
@[simp] theorem State.setSlot_reports (s : State) (k : Nat) (r : Slot) :
    (s.setSlot k r).reports = s.reports := rfl
@[simp] theorem State.setSlot_handed (s : State) (k : Nat) (r : Slot) :
    (s.setSlot k r).handed = s.handed := rfl
@[simp] theorem State.setSlot_build (s : State) (k : Nat) (r : Slot) : (s.setSlot k r).build = s.build := rfl
@[simp] theorem State.setSlot_store (s : State) (k : Nat) (r : Slot) : (s.setSlot k r).store = s.store := rfl
@[simp] theorem State.setSlot_supply (s : State) (k : Nat) (r : Slot) :
    (s.setSlot k r).supply = s.supply := rfl
@[simp] theorem State.setSlot_startup (s : State) (k : Nat) (r : Slot) :
    (s.setSlot k r).startup = s.startup := rfl
@[simp] theorem State.setSlot_linkA (s : State) (k : Nat) (r : Slot) : (s.setSlot k r).linkA = s.linkA := rfl
@[simp] theorem State.setSlot_linkB (s : State) (k : Nat) (r : Slot) : (s.setSlot k r).linkB = s.linkB := rfl
@[simp] theorem State.setSlot_rxA (s : State) (k : Nat) (r : Slot) : (s.setSlot k r).rxA = s.rxA := rfl
@[simp] theorem State.setSlot_baud (s : State) (k : Nat) (r : Slot) : (s.setSlot k r).baud = s.baud := rfl
@[simp] theorem State.setSlot_sendingA (s : State) (k : Nat) (r : Slot) :
    (s.setSlot k r).sendingA = s.sendingA := rfl
@[simp] theorem State.setSlot_txd (s : State) (k : Nat) (r : Slot) : (s.setSlot k r).txd = s.txd := rfl
@[simp] theorem State.setSlot_offered (s : State) (k : Nat) (r : Slot) :
    (s.setSlot k r).offered = s.offered := rfl
@[simp] theorem State.setSlot_reading (s : State) (k : Nat) (r : Slot) :
    (s.setSlot k r).reading = s.reading := rfl
@[simp] theorem State.setSlot_miso (s : State) (k : Nat) (r : Slot) : (s.setSlot k r).miso = s.miso := rfl
@[simp] theorem State.setSlot_deviceReset (s : State) (k : Nat) (r : Slot) :
    (s.setSlot k r).deviceReset = s.deviceReset := rfl
@[simp] theorem State.setSlot_pending (s : State) (k : Nat) (r : Slot) :
    (s.setSlot k r).pending = s.pending := rfl
@[simp] theorem State.setSlot_now (s : State) (k : Nat) (r : Slot) : (s.setSlot k r).now = s.now := rfl
@[simp] theorem State.setSlot_elapsed (s : State) (k : Nat) (r : Slot) :
    (s.setSlot k r).elapsed = s.elapsed := rfl
@[simp] theorem State.setSlot_chan (s : State) (k : Nat) (r : Slot) (x : Nat) :
    (s.setSlot k r).chan x = s.chan x := rfl
@[simp] theorem State.setSlot_pin (s : State) (k : Nat) (r : Slot) (x : Nat) :
    (s.setSlot k r).pin x = s.pin x := rfl
@[simp] theorem State.setSlot_trigger (s : State) (k : Nat) (r : Slot) (x : Nat) :
    (s.setSlot k r).trigger x = s.trigger x := rfl
@[simp] theorem State.setSlot_interlock (s : State) (k : Nat) (r : Slot) (x : Nat) :
    (s.setSlot k r).interlock x = s.interlock x := rfl
@[simp] theorem State.setSlot_interlockList (s : State) (k : Nat) (r : Slot) :
    (s.setSlot k r).interlockList = s.interlockList := rfl
@[simp] theorem State.setSlot_triggerList (s : State) (k : Nat) (r : Slot) :
    (s.setSlot k r).triggerList = s.triggerList := rfl
@[simp] theorem State.setSlot_session (s : State) (k : Nat) (r : Slot) (x : Nat) :
    (s.setSlot k r).session x = s.session x := rfl
@[simp] theorem State.setSlot_classOf (s : State) (k : Nat) (r : Slot) (x : Nat) :
    (s.setSlot k r).classOf x = s.classOf x := rfl
@[simp] theorem State.setSlot_reportQueue (s : State) (k : Nat) (r : Slot) (x : Nat) :
    (s.setSlot k r).reportQueue x = s.reportQueue x := rfl
@[simp] theorem State.setSlot_link (s : State) (k : Nat) (r : Slot) (x : Port) :
    (s.setSlot k r).link x = s.link x := rfl
@[simp] theorem State.setSlot_stopped (s : State) (k : Nat) (r : Slot) :
    (s.setSlot k r).stopped = s.stopped := rfl
@[simp] theorem State.setSlot_entry (s : State) (k : Nat) (r : Slot) (x : Nat) :
    (s.setSlot k r).entry? x = s.entry? x := rfl
@[simp] theorem State.setSlot_storeBusy (s : State) (k : Nat) (r : Slot) :
    (s.setSlot k r).storeBusy = s.storeBusy := rfl

/-! ### State.passOver -/

@[simp] theorem State.passOver_time (s : State) : s.passOver.time = s.time := rfl
@[simp] theorem State.passOver_pins (s : State) : s.passOver.pins = s.pins := rfl
@[simp] theorem State.passOver_channels (s : State) : s.passOver.channels = s.channels := rfl
@[simp] theorem State.passOver_queue (s : State) : s.passOver.queue = s.queue := rfl
@[simp] theorem State.passOver_handleCounter (s : State) :
    s.passOver.handleCounter = s.handleCounter := rfl
@[simp] theorem State.passOver_nextAdmission (s : State) :
    s.passOver.nextAdmission = s.nextAdmission := rfl
@[simp] theorem State.passOver_inFlight (s : State) : s.passOver.inFlight = s.inFlight := rfl
@[simp] theorem State.passOver_fireRequests (s : State) : s.passOver.fireRequests = s.fireRequests := rfl
@[simp] theorem State.passOver_interlocks (s : State) : s.passOver.interlocks = s.interlocks := rfl
@[simp] theorem State.passOver_triggers (s : State) : s.passOver.triggers = s.triggers := rfl
@[simp] theorem State.passOver_edges (s : State) : s.passOver.edges = s.edges := rfl
@[simp] theorem State.passOver_stop (s : State) : s.passOver.stop = s.stop := rfl
@[simp] theorem State.passOver_sessions (s : State) : s.passOver.sessions = s.sessions := rfl
@[simp] theorem State.passOver_reports (s : State) : s.passOver.reports = s.reports := rfl
@[simp] theorem State.passOver_handed (s : State) : s.passOver.handed = s.handed := rfl
@[simp] theorem State.passOver_slots (s : State) : s.passOver.slots = s.slots := rfl
@[simp] theorem State.passOver_build (s : State) : s.passOver.build = s.build := rfl
@[simp] theorem State.passOver_store (s : State) : s.passOver.store = s.store := rfl
@[simp] theorem State.passOver_supply (s : State) : s.passOver.supply = s.supply := rfl
@[simp] theorem State.passOver_startup (s : State) : s.passOver.startup = s.startup := rfl
@[simp] theorem State.passOver_linkA (s : State) : s.passOver.linkA = s.linkA := rfl
@[simp] theorem State.passOver_linkB (s : State) : s.passOver.linkB = s.linkB := rfl
@[simp] theorem State.passOver_rxA (s : State) : s.passOver.rxA = s.rxA := rfl
@[simp] theorem State.passOver_baud (s : State) : s.passOver.baud = s.baud := rfl
@[simp] theorem State.passOver_sendingA (s : State) : s.passOver.sendingA = s.sendingA := rfl
@[simp] theorem State.passOver_txd (s : State) : s.passOver.txd = s.txd := rfl
@[simp] theorem State.passOver_offered (s : State) : s.passOver.offered = s.offered := rfl
@[simp] theorem State.passOver_reading (s : State) : s.passOver.reading = s.reading := rfl
@[simp] theorem State.passOver_miso (s : State) : s.passOver.miso = s.miso := rfl
@[simp] theorem State.passOver_deviceReset (s : State) : s.passOver.deviceReset = s.deviceReset := rfl
@[simp] theorem State.passOver_pending (s : State) : s.passOver.pending = s.pending := rfl
@[simp] theorem State.passOver_now (s : State) : s.passOver.now = s.now := rfl
@[simp] theorem State.passOver_elapsed (s : State) : s.passOver.elapsed = s.elapsed := rfl
@[simp] theorem State.passOver_chan (s : State) (x : Nat) : s.passOver.chan x = s.chan x := rfl
@[simp] theorem State.passOver_pin (s : State) (x : Nat) : s.passOver.pin x = s.pin x := rfl
@[simp] theorem State.passOver_trigger (s : State) (x : Nat) : s.passOver.trigger x = s.trigger x := rfl
@[simp] theorem State.passOver_interlock (s : State) (x : Nat) :
    s.passOver.interlock x = s.interlock x := rfl
@[simp] theorem State.passOver_interlockList (s : State) :
    s.passOver.interlockList = s.interlockList := rfl
@[simp] theorem State.passOver_triggerList (s : State) : s.passOver.triggerList = s.triggerList := rfl
@[simp] theorem State.passOver_session (s : State) (x : Nat) : s.passOver.session x = s.session x := rfl
@[simp] theorem State.passOver_classOf (s : State) (x : Nat) : s.passOver.classOf x = s.classOf x := rfl
@[simp] theorem State.passOver_reportQueue (s : State) (x : Nat) :
    s.passOver.reportQueue x = s.reportQueue x := rfl
@[simp] theorem State.passOver_slot (s : State) (x : Nat) : s.passOver.slot x = s.slot x := rfl
@[simp] theorem State.passOver_link (s : State) (x : Port) : s.passOver.link x = s.link x := rfl
@[simp] theorem State.passOver_stopped (s : State) : s.passOver.stopped = s.stopped := rfl
@[simp] theorem State.passOver_entry (s : State) (x : Nat) : s.passOver.entry? x = s.entry? x := rfl
@[simp] theorem State.passOver_storeBusy (s : State) : s.passOver.storeBusy = s.storeBusy := rfl

/-! ### State.setSession -/

@[simp] theorem State.setSession_time (s : State) (n : Nat) (r : Session) :
    (s.setSession n r).time = s.time := by unfold State.setSession; split <;> rfl
@[simp] theorem State.setSession_pins (s : State) (n : Nat) (r : Session) :
    (s.setSession n r).pins = s.pins := by unfold State.setSession; split <;> rfl
@[simp] theorem State.setSession_channels (s : State) (n : Nat) (r : Session) :
    (s.setSession n r).channels = s.channels := by unfold State.setSession; split <;> rfl
@[simp] theorem State.setSession_queue (s : State) (n : Nat) (r : Session) :
    (s.setSession n r).queue = s.queue := by unfold State.setSession; split <;> rfl
@[simp] theorem State.setSession_handleCounter (s : State) (n : Nat) (r : Session) :
    (s.setSession n r).handleCounter = s.handleCounter := by unfold State.setSession; split <;> rfl
@[simp] theorem State.setSession_nextAdmission (s : State) (n : Nat) (r : Session) :
    (s.setSession n r).nextAdmission = s.nextAdmission := by unfold State.setSession; split <;> rfl
@[simp] theorem State.setSession_inFlight (s : State) (n : Nat) (r : Session) :
    (s.setSession n r).inFlight = s.inFlight := by unfold State.setSession; split <;> rfl
@[simp] theorem State.setSession_levelChanges (s : State) (n : Nat) (r : Session) :
    (s.setSession n r).levelChanges = s.levelChanges := by unfold State.setSession; split <;> rfl
@[simp] theorem State.setSession_fireRequests (s : State) (n : Nat) (r : Session) :
    (s.setSession n r).fireRequests = s.fireRequests := by unfold State.setSession; split <;> rfl
@[simp] theorem State.setSession_interlocks (s : State) (n : Nat) (r : Session) :
    (s.setSession n r).interlocks = s.interlocks := by unfold State.setSession; split <;> rfl
@[simp] theorem State.setSession_triggers (s : State) (n : Nat) (r : Session) :
    (s.setSession n r).triggers = s.triggers := by unfold State.setSession; split <;> rfl
@[simp] theorem State.setSession_edges (s : State) (n : Nat) (r : Session) :
    (s.setSession n r).edges = s.edges := by unfold State.setSession; split <;> rfl
@[simp] theorem State.setSession_stop (s : State) (n : Nat) (r : Session) :
    (s.setSession n r).stop = s.stop := by unfold State.setSession; split <;> rfl
@[simp] theorem State.setSession_reports (s : State) (n : Nat) (r : Session) :
    (s.setSession n r).reports = s.reports := by unfold State.setSession; split <;> rfl
@[simp] theorem State.setSession_handed (s : State) (n : Nat) (r : Session) :
    (s.setSession n r).handed = s.handed := by unfold State.setSession; split <;> rfl
@[simp] theorem State.setSession_slots (s : State) (n : Nat) (r : Session) :
    (s.setSession n r).slots = s.slots := by unfold State.setSession; split <;> rfl
@[simp] theorem State.setSession_build (s : State) (n : Nat) (r : Session) :
    (s.setSession n r).build = s.build := by unfold State.setSession; split <;> rfl
@[simp] theorem State.setSession_store (s : State) (n : Nat) (r : Session) :
    (s.setSession n r).store = s.store := by unfold State.setSession; split <;> rfl
@[simp] theorem State.setSession_supply (s : State) (n : Nat) (r : Session) :
    (s.setSession n r).supply = s.supply := by unfold State.setSession; split <;> rfl
@[simp] theorem State.setSession_startup (s : State) (n : Nat) (r : Session) :
    (s.setSession n r).startup = s.startup := by unfold State.setSession; split <;> rfl
@[simp] theorem State.setSession_linkA (s : State) (n : Nat) (r : Session) :
    (s.setSession n r).linkA = s.linkA := by unfold State.setSession; split <;> rfl
@[simp] theorem State.setSession_linkB (s : State) (n : Nat) (r : Session) :
    (s.setSession n r).linkB = s.linkB := by unfold State.setSession; split <;> rfl
@[simp] theorem State.setSession_rxA (s : State) (n : Nat) (r : Session) :
    (s.setSession n r).rxA = s.rxA := by unfold State.setSession; split <;> rfl
@[simp] theorem State.setSession_baud (s : State) (n : Nat) (r : Session) :
    (s.setSession n r).baud = s.baud := by unfold State.setSession; split <;> rfl
@[simp] theorem State.setSession_sendingA (s : State) (n : Nat) (r : Session) :
    (s.setSession n r).sendingA = s.sendingA := by unfold State.setSession; split <;> rfl
@[simp] theorem State.setSession_txd (s : State) (n : Nat) (r : Session) :
    (s.setSession n r).txd = s.txd := by unfold State.setSession; split <;> rfl
@[simp] theorem State.setSession_offered (s : State) (n : Nat) (r : Session) :
    (s.setSession n r).offered = s.offered := by unfold State.setSession; split <;> rfl
@[simp] theorem State.setSession_reading (s : State) (n : Nat) (r : Session) :
    (s.setSession n r).reading = s.reading := by unfold State.setSession; split <;> rfl
@[simp] theorem State.setSession_miso (s : State) (n : Nat) (r : Session) :
    (s.setSession n r).miso = s.miso := by unfold State.setSession; split <;> rfl
@[simp] theorem State.setSession_deviceReset (s : State) (n : Nat) (r : Session) :
    (s.setSession n r).deviceReset = s.deviceReset := by unfold State.setSession; split <;> rfl
@[simp] theorem State.setSession_pending (s : State) (n : Nat) (r : Session) :
    (s.setSession n r).pending = s.pending := by unfold State.setSession; split <;> rfl
@[simp] theorem State.setSession_now (s : State) (n : Nat) (r : Session) :
    (s.setSession n r).now = s.now := by
  unfold State.setSession; split <;> rfl
@[simp] theorem State.setSession_elapsed (s : State) (n : Nat) (r : Session) :
    (s.setSession n r).elapsed = s.elapsed := by
  unfold State.setSession; split <;> rfl
@[simp] theorem State.setSession_chan (s : State) (n : Nat) (r : Session) (x : Nat) :
    (s.setSession n r).chan x = s.chan x := by
  unfold State.setSession; split <;> rfl
@[simp] theorem State.setSession_pin (s : State) (n : Nat) (r : Session) (x : Nat) :
    (s.setSession n r).pin x = s.pin x := by
  unfold State.setSession; split <;> rfl
@[simp] theorem State.setSession_trigger (s : State) (n : Nat) (r : Session) (x : Nat) :
    (s.setSession n r).trigger x = s.trigger x := by
  unfold State.setSession; split <;> rfl
@[simp] theorem State.setSession_interlock (s : State) (n : Nat) (r : Session) (x : Nat) :
    (s.setSession n r).interlock x = s.interlock x := by
  unfold State.setSession; split <;> rfl
@[simp] theorem State.setSession_interlockList (s : State) (n : Nat) (r : Session) :
    (s.setSession n r).interlockList = s.interlockList := by
  unfold State.setSession; split <;> rfl
@[simp] theorem State.setSession_triggerList (s : State) (n : Nat) (r : Session) :
    (s.setSession n r).triggerList = s.triggerList := by
  unfold State.setSession; split <;> rfl
@[simp] theorem State.setSession_reportQueue (s : State) (n : Nat) (r : Session) (x : Nat) :
    (s.setSession n r).reportQueue x = s.reportQueue x := by
  unfold State.setSession; split <;> rfl
@[simp] theorem State.setSession_slot (s : State) (n : Nat) (r : Session) (x : Nat) :
    (s.setSession n r).slot x = s.slot x := by
  unfold State.setSession; split <;> rfl
@[simp] theorem State.setSession_link (s : State) (n : Nat) (r : Session) (x : Port) :
    (s.setSession n r).link x = s.link x := by
  unfold State.setSession; split <;> rfl
@[simp] theorem State.setSession_stopped (s : State) (n : Nat) (r : Session) :
    (s.setSession n r).stopped = s.stopped := by
  unfold State.setSession; split <;> rfl
@[simp] theorem State.setSession_entry (s : State) (n : Nat) (r : Session) (x : Nat) :
    (s.setSession n r).entry? x = s.entry? x := by
  unfold State.setSession; split <;> rfl
@[simp] theorem State.setSession_storeBusy (s : State) (n : Nat) (r : Session) :
    (s.setSession n r).storeBusy = s.storeBusy := by
  unfold State.setSession; split <;> rfl

/-! ### State.setReportQueue -/

@[simp] theorem State.setReportQueue_time (s : State) (n : Nat) (q : ReportQueue) :
    (s.setReportQueue n q).time = s.time := by unfold State.setReportQueue; split <;> rfl
@[simp] theorem State.setReportQueue_pins (s : State) (n : Nat) (q : ReportQueue) :
    (s.setReportQueue n q).pins = s.pins := by unfold State.setReportQueue; split <;> rfl
@[simp] theorem State.setReportQueue_channels (s : State) (n : Nat) (q : ReportQueue) :
    (s.setReportQueue n q).channels = s.channels := by unfold State.setReportQueue; split <;> rfl
@[simp] theorem State.setReportQueue_queue (s : State) (n : Nat) (q : ReportQueue) :
    (s.setReportQueue n q).queue = s.queue := by unfold State.setReportQueue; split <;> rfl
@[simp] theorem State.setReportQueue_handleCounter (s : State) (n : Nat) (q : ReportQueue) :
    (s.setReportQueue n q).handleCounter = s.handleCounter := by unfold State.setReportQueue; split <;> rfl
@[simp] theorem State.setReportQueue_nextAdmission (s : State) (n : Nat) (q : ReportQueue) :
    (s.setReportQueue n q).nextAdmission = s.nextAdmission := by unfold State.setReportQueue; split <;> rfl
@[simp] theorem State.setReportQueue_inFlight (s : State) (n : Nat) (q : ReportQueue) :
    (s.setReportQueue n q).inFlight = s.inFlight := by unfold State.setReportQueue; split <;> rfl
@[simp] theorem State.setReportQueue_levelChanges (s : State) (n : Nat) (q : ReportQueue) :
    (s.setReportQueue n q).levelChanges = s.levelChanges := by unfold State.setReportQueue; split <;> rfl
@[simp] theorem State.setReportQueue_fireRequests (s : State) (n : Nat) (q : ReportQueue) :
    (s.setReportQueue n q).fireRequests = s.fireRequests := by unfold State.setReportQueue; split <;> rfl
@[simp] theorem State.setReportQueue_interlocks (s : State) (n : Nat) (q : ReportQueue) :
    (s.setReportQueue n q).interlocks = s.interlocks := by unfold State.setReportQueue; split <;> rfl
@[simp] theorem State.setReportQueue_triggers (s : State) (n : Nat) (q : ReportQueue) :
    (s.setReportQueue n q).triggers = s.triggers := by unfold State.setReportQueue; split <;> rfl
@[simp] theorem State.setReportQueue_edges (s : State) (n : Nat) (q : ReportQueue) :
    (s.setReportQueue n q).edges = s.edges := by unfold State.setReportQueue; split <;> rfl
@[simp] theorem State.setReportQueue_stop (s : State) (n : Nat) (q : ReportQueue) :
    (s.setReportQueue n q).stop = s.stop := by unfold State.setReportQueue; split <;> rfl
@[simp] theorem State.setReportQueue_sessions (s : State) (n : Nat) (q : ReportQueue) :
    (s.setReportQueue n q).sessions = s.sessions := by unfold State.setReportQueue; split <;> rfl
@[simp] theorem State.setReportQueue_handed (s : State) (n : Nat) (q : ReportQueue) :
    (s.setReportQueue n q).handed = s.handed := by unfold State.setReportQueue; split <;> rfl
@[simp] theorem State.setReportQueue_slots (s : State) (n : Nat) (q : ReportQueue) :
    (s.setReportQueue n q).slots = s.slots := by unfold State.setReportQueue; split <;> rfl
@[simp] theorem State.setReportQueue_build (s : State) (n : Nat) (q : ReportQueue) :
    (s.setReportQueue n q).build = s.build := by unfold State.setReportQueue; split <;> rfl
@[simp] theorem State.setReportQueue_store (s : State) (n : Nat) (q : ReportQueue) :
    (s.setReportQueue n q).store = s.store := by unfold State.setReportQueue; split <;> rfl
@[simp] theorem State.setReportQueue_supply (s : State) (n : Nat) (q : ReportQueue) :
    (s.setReportQueue n q).supply = s.supply := by unfold State.setReportQueue; split <;> rfl
@[simp] theorem State.setReportQueue_startup (s : State) (n : Nat) (q : ReportQueue) :
    (s.setReportQueue n q).startup = s.startup := by unfold State.setReportQueue; split <;> rfl
@[simp] theorem State.setReportQueue_linkA (s : State) (n : Nat) (q : ReportQueue) :
    (s.setReportQueue n q).linkA = s.linkA := by unfold State.setReportQueue; split <;> rfl
@[simp] theorem State.setReportQueue_linkB (s : State) (n : Nat) (q : ReportQueue) :
    (s.setReportQueue n q).linkB = s.linkB := by unfold State.setReportQueue; split <;> rfl
@[simp] theorem State.setReportQueue_rxA (s : State) (n : Nat) (q : ReportQueue) :
    (s.setReportQueue n q).rxA = s.rxA := by unfold State.setReportQueue; split <;> rfl
@[simp] theorem State.setReportQueue_baud (s : State) (n : Nat) (q : ReportQueue) :
    (s.setReportQueue n q).baud = s.baud := by unfold State.setReportQueue; split <;> rfl
@[simp] theorem State.setReportQueue_sendingA (s : State) (n : Nat) (q : ReportQueue) :
    (s.setReportQueue n q).sendingA = s.sendingA := by unfold State.setReportQueue; split <;> rfl
@[simp] theorem State.setReportQueue_txd (s : State) (n : Nat) (q : ReportQueue) :
    (s.setReportQueue n q).txd = s.txd := by unfold State.setReportQueue; split <;> rfl
@[simp] theorem State.setReportQueue_offered (s : State) (n : Nat) (q : ReportQueue) :
    (s.setReportQueue n q).offered = s.offered := by unfold State.setReportQueue; split <;> rfl
@[simp] theorem State.setReportQueue_reading (s : State) (n : Nat) (q : ReportQueue) :
    (s.setReportQueue n q).reading = s.reading := by unfold State.setReportQueue; split <;> rfl
@[simp] theorem State.setReportQueue_miso (s : State) (n : Nat) (q : ReportQueue) :
    (s.setReportQueue n q).miso = s.miso := by unfold State.setReportQueue; split <;> rfl
@[simp] theorem State.setReportQueue_deviceReset (s : State) (n : Nat) (q : ReportQueue) :
    (s.setReportQueue n q).deviceReset = s.deviceReset := by unfold State.setReportQueue; split <;> rfl
@[simp] theorem State.setReportQueue_pending (s : State) (n : Nat) (q : ReportQueue) :
    (s.setReportQueue n q).pending = s.pending := by unfold State.setReportQueue; split <;> rfl
@[simp] theorem State.setReportQueue_now (s : State) (n : Nat) (q : ReportQueue) :
    (s.setReportQueue n q).now = s.now := by
  unfold State.setReportQueue; split <;> rfl
@[simp] theorem State.setReportQueue_elapsed (s : State) (n : Nat) (q : ReportQueue) :
    (s.setReportQueue n q).elapsed = s.elapsed := by
  unfold State.setReportQueue; split <;> rfl
@[simp] theorem State.setReportQueue_chan (s : State) (n : Nat) (q : ReportQueue) (x : Nat) :
    (s.setReportQueue n q).chan x = s.chan x := by
  unfold State.setReportQueue; split <;> rfl
@[simp] theorem State.setReportQueue_pin (s : State) (n : Nat) (q : ReportQueue) (x : Nat) :
    (s.setReportQueue n q).pin x = s.pin x := by
  unfold State.setReportQueue; split <;> rfl
@[simp] theorem State.setReportQueue_trigger (s : State) (n : Nat) (q : ReportQueue) (x : Nat) :
    (s.setReportQueue n q).trigger x = s.trigger x := by
  unfold State.setReportQueue; split <;> rfl
@[simp] theorem State.setReportQueue_interlock (s : State) (n : Nat) (q : ReportQueue) (x : Nat) :
    (s.setReportQueue n q).interlock x = s.interlock x := by
  unfold State.setReportQueue; split <;> rfl
@[simp] theorem State.setReportQueue_interlockList (s : State) (n : Nat) (q : ReportQueue) :
    (s.setReportQueue n q).interlockList = s.interlockList := by
  unfold State.setReportQueue; split <;> rfl
@[simp] theorem State.setReportQueue_triggerList (s : State) (n : Nat) (q : ReportQueue) :
    (s.setReportQueue n q).triggerList = s.triggerList := by
  unfold State.setReportQueue; split <;> rfl
@[simp] theorem State.setReportQueue_session (s : State) (n : Nat) (q : ReportQueue) (x : Nat) :
    (s.setReportQueue n q).session x = s.session x := by
  unfold State.setReportQueue; split <;> rfl
@[simp] theorem State.setReportQueue_classOf (s : State) (n : Nat) (q : ReportQueue) (x : Nat) :
    (s.setReportQueue n q).classOf x = s.classOf x := by
  unfold State.setReportQueue; split <;> rfl
@[simp] theorem State.setReportQueue_slot (s : State) (n : Nat) (q : ReportQueue) (x : Nat) :
    (s.setReportQueue n q).slot x = s.slot x := by
  unfold State.setReportQueue; split <;> rfl
@[simp] theorem State.setReportQueue_link (s : State) (n : Nat) (q : ReportQueue) (x : Port) :
    (s.setReportQueue n q).link x = s.link x := by
  unfold State.setReportQueue; split <;> rfl
@[simp] theorem State.setReportQueue_stopped (s : State) (n : Nat) (q : ReportQueue) :
    (s.setReportQueue n q).stopped = s.stopped := by
  unfold State.setReportQueue; split <;> rfl
@[simp] theorem State.setReportQueue_entry (s : State) (n : Nat) (q : ReportQueue) (x : Nat) :
    (s.setReportQueue n q).entry? x = s.entry? x := by
  unfold State.setReportQueue; split <;> rfl
@[simp] theorem State.setReportQueue_storeBusy (s : State) (n : Nat) (q : ReportQueue) :
    (s.setReportQueue n q).storeBusy = s.storeBusy := by
  unfold State.setReportQueue; split <;> rfl

/-! ### State.setLink -/

@[simp] theorem State.setLink_time (s : State) (p : Port) (l : Link) :
    (s.setLink p l).time = s.time := by cases p <;> rfl
@[simp] theorem State.setLink_pins (s : State) (p : Port) (l : Link) :
    (s.setLink p l).pins = s.pins := by cases p <;> rfl
@[simp] theorem State.setLink_channels (s : State) (p : Port) (l : Link) :
    (s.setLink p l).channels = s.channels := by cases p <;> rfl
@[simp] theorem State.setLink_queue (s : State) (p : Port) (l : Link) :
    (s.setLink p l).queue = s.queue := by cases p <;> rfl
@[simp] theorem State.setLink_handleCounter (s : State) (p : Port) (l : Link) :
    (s.setLink p l).handleCounter = s.handleCounter := by cases p <;> rfl
@[simp] theorem State.setLink_nextAdmission (s : State) (p : Port) (l : Link) :
    (s.setLink p l).nextAdmission = s.nextAdmission := by cases p <;> rfl
@[simp] theorem State.setLink_inFlight (s : State) (p : Port) (l : Link) :
    (s.setLink p l).inFlight = s.inFlight := by cases p <;> rfl
@[simp] theorem State.setLink_levelChanges (s : State) (p : Port) (l : Link) :
    (s.setLink p l).levelChanges = s.levelChanges := by cases p <;> rfl
@[simp] theorem State.setLink_fireRequests (s : State) (p : Port) (l : Link) :
    (s.setLink p l).fireRequests = s.fireRequests := by cases p <;> rfl
@[simp] theorem State.setLink_interlocks (s : State) (p : Port) (l : Link) :
    (s.setLink p l).interlocks = s.interlocks := by cases p <;> rfl
@[simp] theorem State.setLink_triggers (s : State) (p : Port) (l : Link) :
    (s.setLink p l).triggers = s.triggers := by cases p <;> rfl
@[simp] theorem State.setLink_edges (s : State) (p : Port) (l : Link) :
    (s.setLink p l).edges = s.edges := by cases p <;> rfl
@[simp] theorem State.setLink_stop (s : State) (p : Port) (l : Link) :
    (s.setLink p l).stop = s.stop := by cases p <;> rfl
@[simp] theorem State.setLink_sessions (s : State) (p : Port) (l : Link) :
    (s.setLink p l).sessions = s.sessions := by cases p <;> rfl
@[simp] theorem State.setLink_reports (s : State) (p : Port) (l : Link) :
    (s.setLink p l).reports = s.reports := by cases p <;> rfl
@[simp] theorem State.setLink_handed (s : State) (p : Port) (l : Link) :
    (s.setLink p l).handed = s.handed := by cases p <;> rfl
@[simp] theorem State.setLink_slots (s : State) (p : Port) (l : Link) :
    (s.setLink p l).slots = s.slots := by cases p <;> rfl
@[simp] theorem State.setLink_build (s : State) (p : Port) (l : Link) :
    (s.setLink p l).build = s.build := by cases p <;> rfl
@[simp] theorem State.setLink_store (s : State) (p : Port) (l : Link) :
    (s.setLink p l).store = s.store := by cases p <;> rfl
@[simp] theorem State.setLink_supply (s : State) (p : Port) (l : Link) :
    (s.setLink p l).supply = s.supply := by cases p <;> rfl
@[simp] theorem State.setLink_startup (s : State) (p : Port) (l : Link) :
    (s.setLink p l).startup = s.startup := by cases p <;> rfl
@[simp] theorem State.setLink_rxA (s : State) (p : Port) (l : Link) :
    (s.setLink p l).rxA = s.rxA := by cases p <;> rfl
@[simp] theorem State.setLink_baud (s : State) (p : Port) (l : Link) :
    (s.setLink p l).baud = s.baud := by cases p <;> rfl
@[simp] theorem State.setLink_sendingA (s : State) (p : Port) (l : Link) :
    (s.setLink p l).sendingA = s.sendingA := by cases p <;> rfl
@[simp] theorem State.setLink_txd (s : State) (p : Port) (l : Link) :
    (s.setLink p l).txd = s.txd := by cases p <;> rfl
@[simp] theorem State.setLink_offered (s : State) (p : Port) (l : Link) :
    (s.setLink p l).offered = s.offered := by cases p <;> rfl
@[simp] theorem State.setLink_reading (s : State) (p : Port) (l : Link) :
    (s.setLink p l).reading = s.reading := by cases p <;> rfl
@[simp] theorem State.setLink_miso (s : State) (p : Port) (l : Link) :
    (s.setLink p l).miso = s.miso := by cases p <;> rfl
@[simp] theorem State.setLink_deviceReset (s : State) (p : Port) (l : Link) :
    (s.setLink p l).deviceReset = s.deviceReset := by cases p <;> rfl
@[simp] theorem State.setLink_pending (s : State) (p : Port) (l : Link) :
    (s.setLink p l).pending = s.pending := by cases p <;> rfl
@[simp] theorem State.setLink_now (s : State) (p : Port) (l : Link) : (s.setLink p l).now = s.now := by
  cases p <;> rfl
@[simp] theorem State.setLink_elapsed (s : State) (p : Port) (l : Link) :
    (s.setLink p l).elapsed = s.elapsed := by
  cases p <;> rfl
@[simp] theorem State.setLink_chan (s : State) (p : Port) (l : Link) (x : Nat) :
    (s.setLink p l).chan x = s.chan x := by
  cases p <;> rfl
@[simp] theorem State.setLink_pin (s : State) (p : Port) (l : Link) (x : Nat) :
    (s.setLink p l).pin x = s.pin x := by
  cases p <;> rfl
@[simp] theorem State.setLink_trigger (s : State) (p : Port) (l : Link) (x : Nat) :
    (s.setLink p l).trigger x = s.trigger x := by
  cases p <;> rfl
@[simp] theorem State.setLink_interlock (s : State) (p : Port) (l : Link) (x : Nat) :
    (s.setLink p l).interlock x = s.interlock x := by
  cases p <;> rfl
@[simp] theorem State.setLink_interlockList (s : State) (p : Port) (l : Link) :
    (s.setLink p l).interlockList = s.interlockList := by
  cases p <;> rfl
@[simp] theorem State.setLink_triggerList (s : State) (p : Port) (l : Link) :
    (s.setLink p l).triggerList = s.triggerList := by
  cases p <;> rfl
@[simp] theorem State.setLink_session (s : State) (p : Port) (l : Link) (x : Nat) :
    (s.setLink p l).session x = s.session x := by
  cases p <;> rfl
@[simp] theorem State.setLink_classOf (s : State) (p : Port) (l : Link) (x : Nat) :
    (s.setLink p l).classOf x = s.classOf x := by
  cases p <;> rfl
@[simp] theorem State.setLink_reportQueue (s : State) (p : Port) (l : Link) (x : Nat) :
    (s.setLink p l).reportQueue x = s.reportQueue x := by
  cases p <;> rfl
@[simp] theorem State.setLink_slot (s : State) (p : Port) (l : Link) (x : Nat) :
    (s.setLink p l).slot x = s.slot x := by
  cases p <;> rfl
@[simp] theorem State.setLink_stopped (s : State) (p : Port) (l : Link) :
    (s.setLink p l).stopped = s.stopped := by
  cases p <;> rfl
@[simp] theorem State.setLink_entry (s : State) (p : Port) (l : Link) (x : Nat) :
    (s.setLink p l).entry? x = s.entry? x := by
  cases p <;> rfl
@[simp] theorem State.setLink_storeBusy (s : State) (p : Port) (l : Link) :
    (s.setLink p l).storeBusy = s.storeBusy := by
  cases p <;> rfl

/-! ### State.addReport -/

theorem State.addReport_eq (s : State) (n t : Nat) (b : ReportBody) :
    ∃ q, s.addReport n t b = s.setReportQueue n q ∨ s.addReport n t b = s := by
  unfold State.addReport
  split
  · dsimp only
    split
    · exact ⟨_, .inl rfl⟩
    · exact ⟨_, .inl rfl⟩
  · exact ⟨ReportQueue.fresh, .inr rfl⟩

@[simp] theorem State.addReport_time (s : State) (n t : Nat) (b : ReportBody) :
    (s.addReport n t b).time = s.time := by
  obtain ⟨q, h | h⟩ := s.addReport_eq n t b <;> simp [h]
@[simp] theorem State.addReport_pins (s : State) (n t : Nat) (b : ReportBody) :
    (s.addReport n t b).pins = s.pins := by
  obtain ⟨q, h | h⟩ := s.addReport_eq n t b <;> simp [h]
@[simp] theorem State.addReport_channels (s : State) (n t : Nat) (b : ReportBody) :
    (s.addReport n t b).channels = s.channels := by
  obtain ⟨q, h | h⟩ := s.addReport_eq n t b <;> simp [h]
@[simp] theorem State.addReport_queue (s : State) (n t : Nat) (b : ReportBody) :
    (s.addReport n t b).queue = s.queue := by
  obtain ⟨q, h | h⟩ := s.addReport_eq n t b <;> simp [h]
@[simp] theorem State.addReport_handleCounter (s : State) (n t : Nat) (b : ReportBody) :
    (s.addReport n t b).handleCounter = s.handleCounter := by
  obtain ⟨q, h | h⟩ := s.addReport_eq n t b <;> simp [h]
@[simp] theorem State.addReport_nextAdmission (s : State) (n t : Nat) (b : ReportBody) :
    (s.addReport n t b).nextAdmission = s.nextAdmission := by
  obtain ⟨q, h | h⟩ := s.addReport_eq n t b <;> simp [h]
@[simp] theorem State.addReport_inFlight (s : State) (n t : Nat) (b : ReportBody) :
    (s.addReport n t b).inFlight = s.inFlight := by
  obtain ⟨q, h | h⟩ := s.addReport_eq n t b <;> simp [h]
@[simp] theorem State.addReport_levelChanges (s : State) (n t : Nat) (b : ReportBody) :
    (s.addReport n t b).levelChanges = s.levelChanges := by
  obtain ⟨q, h | h⟩ := s.addReport_eq n t b <;> simp [h]
@[simp] theorem State.addReport_fireRequests (s : State) (n t : Nat) (b : ReportBody) :
    (s.addReport n t b).fireRequests = s.fireRequests := by
  obtain ⟨q, h | h⟩ := s.addReport_eq n t b <;> simp [h]
@[simp] theorem State.addReport_interlocks (s : State) (n t : Nat) (b : ReportBody) :
    (s.addReport n t b).interlocks = s.interlocks := by
  obtain ⟨q, h | h⟩ := s.addReport_eq n t b <;> simp [h]
@[simp] theorem State.addReport_triggers (s : State) (n t : Nat) (b : ReportBody) :
    (s.addReport n t b).triggers = s.triggers := by
  obtain ⟨q, h | h⟩ := s.addReport_eq n t b <;> simp [h]
@[simp] theorem State.addReport_edges (s : State) (n t : Nat) (b : ReportBody) :
    (s.addReport n t b).edges = s.edges := by
  obtain ⟨q, h | h⟩ := s.addReport_eq n t b <;> simp [h]
@[simp] theorem State.addReport_stop (s : State) (n t : Nat) (b : ReportBody) :
    (s.addReport n t b).stop = s.stop := by
  obtain ⟨q, h | h⟩ := s.addReport_eq n t b <;> simp [h]
@[simp] theorem State.addReport_sessions (s : State) (n t : Nat) (b : ReportBody) :
    (s.addReport n t b).sessions = s.sessions := by
  obtain ⟨q, h | h⟩ := s.addReport_eq n t b <;> simp [h]
@[simp] theorem State.addReport_handed (s : State) (n t : Nat) (b : ReportBody) :
    (s.addReport n t b).handed = s.handed := by
  obtain ⟨q, h | h⟩ := s.addReport_eq n t b <;> simp [h]
@[simp] theorem State.addReport_slots (s : State) (n t : Nat) (b : ReportBody) :
    (s.addReport n t b).slots = s.slots := by
  obtain ⟨q, h | h⟩ := s.addReport_eq n t b <;> simp [h]
@[simp] theorem State.addReport_build (s : State) (n t : Nat) (b : ReportBody) :
    (s.addReport n t b).build = s.build := by
  obtain ⟨q, h | h⟩ := s.addReport_eq n t b <;> simp [h]
@[simp] theorem State.addReport_store (s : State) (n t : Nat) (b : ReportBody) :
    (s.addReport n t b).store = s.store := by
  obtain ⟨q, h | h⟩ := s.addReport_eq n t b <;> simp [h]
@[simp] theorem State.addReport_supply (s : State) (n t : Nat) (b : ReportBody) :
    (s.addReport n t b).supply = s.supply := by
  obtain ⟨q, h | h⟩ := s.addReport_eq n t b <;> simp [h]
@[simp] theorem State.addReport_startup (s : State) (n t : Nat) (b : ReportBody) :
    (s.addReport n t b).startup = s.startup := by
  obtain ⟨q, h | h⟩ := s.addReport_eq n t b <;> simp [h]
@[simp] theorem State.addReport_linkA (s : State) (n t : Nat) (b : ReportBody) :
    (s.addReport n t b).linkA = s.linkA := by
  obtain ⟨q, h | h⟩ := s.addReport_eq n t b <;> simp [h]
@[simp] theorem State.addReport_linkB (s : State) (n t : Nat) (b : ReportBody) :
    (s.addReport n t b).linkB = s.linkB := by
  obtain ⟨q, h | h⟩ := s.addReport_eq n t b <;> simp [h]
@[simp] theorem State.addReport_rxA (s : State) (n t : Nat) (b : ReportBody) :
    (s.addReport n t b).rxA = s.rxA := by
  obtain ⟨q, h | h⟩ := s.addReport_eq n t b <;> simp [h]
@[simp] theorem State.addReport_baud (s : State) (n t : Nat) (b : ReportBody) :
    (s.addReport n t b).baud = s.baud := by
  obtain ⟨q, h | h⟩ := s.addReport_eq n t b <;> simp [h]
@[simp] theorem State.addReport_sendingA (s : State) (n t : Nat) (b : ReportBody) :
    (s.addReport n t b).sendingA = s.sendingA := by
  obtain ⟨q, h | h⟩ := s.addReport_eq n t b <;> simp [h]
@[simp] theorem State.addReport_txd (s : State) (n t : Nat) (b : ReportBody) :
    (s.addReport n t b).txd = s.txd := by
  obtain ⟨q, h | h⟩ := s.addReport_eq n t b <;> simp [h]
@[simp] theorem State.addReport_offered (s : State) (n t : Nat) (b : ReportBody) :
    (s.addReport n t b).offered = s.offered := by
  obtain ⟨q, h | h⟩ := s.addReport_eq n t b <;> simp [h]
@[simp] theorem State.addReport_reading (s : State) (n t : Nat) (b : ReportBody) :
    (s.addReport n t b).reading = s.reading := by
  obtain ⟨q, h | h⟩ := s.addReport_eq n t b <;> simp [h]
@[simp] theorem State.addReport_miso (s : State) (n t : Nat) (b : ReportBody) :
    (s.addReport n t b).miso = s.miso := by
  obtain ⟨q, h | h⟩ := s.addReport_eq n t b <;> simp [h]
@[simp] theorem State.addReport_deviceReset (s : State) (n t : Nat) (b : ReportBody) :
    (s.addReport n t b).deviceReset = s.deviceReset := by
  obtain ⟨q, h | h⟩ := s.addReport_eq n t b <;> simp [h]
@[simp] theorem State.addReport_pending (s : State) (n t : Nat) (b : ReportBody) :
    (s.addReport n t b).pending = s.pending := by
  obtain ⟨q, h | h⟩ := s.addReport_eq n t b <;> simp [h]
@[simp] theorem State.addReport_now (s : State) (n t : Nat) (b : ReportBody) :
    (s.addReport n t b).now = s.now := by
  obtain ⟨q, h | h⟩ := s.addReport_eq n t b <;> simp [h]
@[simp] theorem State.addReport_elapsed (s : State) (n t : Nat) (b : ReportBody) :
    (s.addReport n t b).elapsed = s.elapsed := by
  obtain ⟨q, h | h⟩ := s.addReport_eq n t b <;> simp [h]
@[simp] theorem State.addReport_chan (s : State) (n t : Nat) (b : ReportBody) (x : Nat) :
    (s.addReport n t b).chan x = s.chan x := by
  obtain ⟨q, h | h⟩ := s.addReport_eq n t b <;> simp [h]
@[simp] theorem State.addReport_pin (s : State) (n t : Nat) (b : ReportBody) (x : Nat) :
    (s.addReport n t b).pin x = s.pin x := by
  obtain ⟨q, h | h⟩ := s.addReport_eq n t b <;> simp [h]
@[simp] theorem State.addReport_trigger (s : State) (n t : Nat) (b : ReportBody) (x : Nat) :
    (s.addReport n t b).trigger x = s.trigger x := by
  obtain ⟨q, h | h⟩ := s.addReport_eq n t b <;> simp [h]
@[simp] theorem State.addReport_interlock (s : State) (n t : Nat) (b : ReportBody) (x : Nat) :
    (s.addReport n t b).interlock x = s.interlock x := by
  obtain ⟨q, h | h⟩ := s.addReport_eq n t b <;> simp [h]
@[simp] theorem State.addReport_interlockList (s : State) (n t : Nat) (b : ReportBody) :
    (s.addReport n t b).interlockList = s.interlockList := by
  obtain ⟨q, h | h⟩ := s.addReport_eq n t b <;> simp [h]
@[simp] theorem State.addReport_triggerList (s : State) (n t : Nat) (b : ReportBody) :
    (s.addReport n t b).triggerList = s.triggerList := by
  obtain ⟨q, h | h⟩ := s.addReport_eq n t b <;> simp [h]
@[simp] theorem State.addReport_session (s : State) (n t : Nat) (b : ReportBody) (x : Nat) :
    (s.addReport n t b).session x = s.session x := by
  obtain ⟨q, h | h⟩ := s.addReport_eq n t b <;> simp [h]
@[simp] theorem State.addReport_classOf (s : State) (n t : Nat) (b : ReportBody) (x : Nat) :
    (s.addReport n t b).classOf x = s.classOf x := by
  obtain ⟨q, h | h⟩ := s.addReport_eq n t b <;> simp [h]
@[simp] theorem State.addReport_slot (s : State) (n t : Nat) (b : ReportBody) (x : Nat) :
    (s.addReport n t b).slot x = s.slot x := by
  obtain ⟨q, h | h⟩ := s.addReport_eq n t b <;> simp [h]
@[simp] theorem State.addReport_link (s : State) (n t : Nat) (b : ReportBody) (x : Port) :
    (s.addReport n t b).link x = s.link x := by
  obtain ⟨q, h | h⟩ := s.addReport_eq n t b <;> simp [h]
@[simp] theorem State.addReport_stopped (s : State) (n t : Nat) (b : ReportBody) :
    (s.addReport n t b).stopped = s.stopped := by
  obtain ⟨q, h | h⟩ := s.addReport_eq n t b <;> simp [h]
@[simp] theorem State.addReport_entry (s : State) (n t : Nat) (b : ReportBody) (x : Nat) :
    (s.addReport n t b).entry? x = s.entry? x := by
  obtain ⟨q, h | h⟩ := s.addReport_eq n t b <;> simp [h]
@[simp] theorem State.addReport_storeBusy (s : State) (n t : Nat) (b : ReportBody) :
    (s.addReport n t b).storeBusy = s.storeBusy := by
  obtain ⟨q, h | h⟩ := s.addReport_eq n t b <;> simp [h]

/-! ### Reading after writing -/

theorem State.chan_setChan_same (s : State) (c : Nat) (r : Channel) (h : c < 32) :
    (s.setChan c r).chan c = r := tget_tset_same _ _ _ _ h

theorem State.chan_setChan_ne (s : State) (c x : Nat) (r : Channel) (h : c ≠ x) :
    (s.setChan c r).chan x = s.chan x := tget_tset_ne _ _ _ _ _ h

theorem State.trigger_setTrigger_same (s : State) (t : Nat) (r : Option Trigger) (h : t < 16) :
    (s.setTrigger t r).trigger t = r := tget_tset_same _ _ _ _ h

theorem State.trigger_setTrigger_ne (s : State) (t x : Nat) (r : Option Trigger) (h : t ≠ x) :
    (s.setTrigger t r).trigger x = s.trigger x := tget_tset_ne _ _ _ _ _ h

theorem State.interlock_setInterlock_same (s : State) (i : Nat) (r : Option Interlock) (h : i < 12) :
    (s.setInterlock i r).interlock i = r := tget_tset_same _ _ _ _ h

theorem State.interlock_setInterlock_ne (s : State) (i x : Nat) (r : Option Interlock) (h : i ≠ x) :
    (s.setInterlock i r).interlock x = s.interlock x := tget_tset_ne _ _ _ _ _ h

theorem State.slot_setSlot_same (s : State) (k : Nat) (r : Slot) (h : k < 8) : (s.setSlot k r).slot k = r :=
  tget_tset_same _ _ _ _ h

theorem State.slot_setSlot_ne (s : State) (k x : Nat) (r : Slot) (h : k ≠ x) :
    (s.setSlot k r).slot x = s.slot x := tget_tset_ne _ _ _ _ _ h

theorem State.session_setSession_same (s : State) (n : Nat) (r : Session) (h : 1 ≤ n) (h5 : n ≤ 5) :
    (s.setSession n r).session n = r := by
  have h0 : n ≠ 0 := by omega
  simp only [State.session, State.setSession, h0, if_false]
  exact tget_tset_same _ _ _ _ (by omega)

theorem State.session_setSession_ne (s : State) (n x : Nat) (r : Session) (h : n ≠ x) :
    (s.setSession n r).session x = s.session x := by
  unfold State.session State.setSession
  split
  · rfl
  · split
    · rfl
    · exact tget_tset_ne _ _ _ _ _ (by omega)

theorem State.reportQueue_setReportQueue_same (s : State) (n : Nat) (q : ReportQueue) (h : 1 ≤ n)
    (h5 : n ≤ 5) : (s.setReportQueue n q).reportQueue n = q := by
  have h0 : n ≠ 0 := by omega
  simp only [State.reportQueue, State.setReportQueue, h0, if_false]
  exact tget_tset_same _ _ _ _ (by omega)

theorem State.reportQueue_setReportQueue_ne (s : State) (n x : Nat) (q : ReportQueue) (h : n ≠ x) :
    (s.setReportQueue n q).reportQueue x = s.reportQueue x := by
  unfold State.reportQueue State.setReportQueue
  split
  · rfl
  · split
    · rfl
    · exact tget_tset_ne _ _ _ _ _ (by omega)

@[simp] theorem State.link_setLink_same (s : State) (p : Port) (l : Link) : (s.setLink p l).link p = l := by
  cases p <;> rfl

theorem State.link_setLink_ne (s : State) (p x : Port) (l : Link) (h : p ≠ x) :
    (s.setLink p l).link x = s.link x := by
  cases p <;> cases x <;> first | rfl | exact absurd rfl h

/-- A session number that names a record lies between 1 and 5 (R117). -/
theorem State.session_free_out (s : State) (n : Nat) (h : n = 0 ∨ 5 < n) : s.session n = .free := by
  unfold State.session
  split
  · rfl
  · exact tget_out _ _ _ (by omega)

/-- A channel number that names a bound record lies below 32. -/
theorem State.chan_out (s : State) (c : Nat) (h : 32 ≤ c) : s.chan c = .unbound := tget_out _ _ _ h

theorem State.addReport_reportQueue_ne (s : State) (n x t : Nat) (b : ReportBody) (h : n ≠ x) :
    (s.addReport n t b).reportQueue x = s.reportQueue x := by
  obtain ⟨q, e | e⟩ := s.addReport_eq n t b
  · rw [e, State.reportQueue_setReportQueue_ne _ _ _ _ h]
  · rw [e]

end Sys2Proof.Machine
end

