-- ==== Sys2Proof/Laws/Requests.lean ====
section
/-!
SUPPORT. Laws/Requests.lean: once, all that taking a request can do (R122, R123, R186): the handler may not take
it, the frame names no session of the port, it is out of sequence, or its rule is applied and answered.
-/

namespace Sys2Proof.Machine

/-- Writing the session and the port of a state commute. -/
theorem State.setLink_setSession (s : State) (p : Port) (l : Link) (n : Nat) (r : Session) :
    (s.setLink p l).setSession n r = (s.setSession n r).setLink p l := by
  cases p <;> simp only [State.setLink, State.setSession] <;> split <;> rfl

theorem State.setLink_setLink (s : State) (p : Port) (l m : Link) :
    (s.setLink p l).setLink p m = s.setLink p m := by
  cases p <;> rfl

theorem State.setSession_setSession (s : State) (n : Nat) (r q : Session) :
    (s.setSession n r).setSession n q = s.setSession n q := by
  by_cases h : n = 0
  · simp [State.setSession, h]
  · simp only [State.setSession, h, if_false, tset]
    congr 1
    ext i hi
    simp only [Vector.getElem_setIfInBounds]
    split <;> rfl

theorem State.setLink_setChan (s : State) (p : Port) (l : Link) (c : Nat) (x : Channel) :
    (s.setChan c x).setLink p l = (s.setLink p l).setChan c x := by
  cases p <;> rfl

theorem State.setSession_setChan (s : State) (n : Nat) (r : Session) (c : Nat) (x : Channel) :
    (s.setChan c x).setSession n r = (s.setSession n r).setChan c x := by
  simp only [State.setSession, State.setChan]; split <;> rfl

theorem State.setLink_setPins (s : State) (p : Port) (l : Link) (ps : List Nat) (x : PinRec) :
    (s.setPins ps x).setLink p l = (s.setLink p l).setPins ps x := by
  cases p <;> rfl

theorem State.setSession_setPins (s : State) (n : Nat) (r : Session) (ps : List Nat) (x : PinRec) :
    (s.setPins ps x).setSession n r = (s.setSession n r).setPins ps x := by
  simp only [State.setSession, State.setPins]; split <;> rfl

theorem State.setLink_setTrigger (s : State) (p : Port) (l : Link) (i : Nat) (x : Option Trigger) :
    (s.setTrigger i x).setLink p l = (s.setLink p l).setTrigger i x := by
  cases p <;> rfl

theorem State.setSession_setTrigger (s : State) (n : Nat) (r : Session) (i : Nat) (x : Option Trigger) :
    (s.setTrigger i x).setSession n r = (s.setSession n r).setTrigger i x := by
  simp only [State.setSession, State.setTrigger]; split <;> rfl

theorem State.setLink_setInterlock (s : State) (p : Port) (l : Link) (i : Nat) (x : Option Interlock) :
    (s.setInterlock i x).setLink p l = (s.setLink p l).setInterlock i x := by
  cases p <;> rfl

theorem State.setSession_setInterlock (s : State) (n : Nat) (r : Session) (i : Nat) (x : Option Interlock) :
    (s.setInterlock i x).setSession n r = (s.setSession n r).setInterlock i x := by
  simp only [State.setSession, State.setInterlock]; split <;> rfl

theorem State.setLink_setSlot (s : State) (p : Port) (l : Link) (k : Nat) (x : Slot) :
    (s.setSlot k x).setLink p l = (s.setLink p l).setSlot k x := by
  cases p <;> rfl

theorem State.setSession_setSlot (s : State) (n : Nat) (r : Session) (k : Nat) (x : Slot) :
    (s.setSlot k x).setSession n r = (s.setSession n r).setSlot k x := by
  simp only [State.setSession, State.setSlot]; split <;> rfl

theorem State.setLink_setReportQueue (s : State) (p : Port) (l : Link) (m : Nat) (x : ReportQueue) :
    (s.setReportQueue m x).setLink p l = (s.setLink p l).setReportQueue m x := by
  cases p <;> simp only [State.setLink, State.setReportQueue] <;> split <;> rfl

theorem State.setSession_setReportQueue (s : State) (n : Nat) (r : Session) (m : Nat) (x : ReportQueue) :
    (s.setReportQueue m x).setSession n r = (s.setSession n r).setReportQueue m x := by
  simp only [State.setSession, State.setReportQueue]; split <;> split <;> rfl

/-- The handler of a port takes nothing: its gate, its reply queue or an accepted DEVICE_RESET forbids it
(R186). -/
theorem State.takeRequest_of_not_canTake (s : State) (p : Port) (code : Byte) (serve : Service)
    (h : s.canTake p = false) : s.takeRequest p code serve = s := by
  unfold State.takeRequest State.takeFrame
  dsimp only
  split
  · rfl
  · rename_i heq
    split at heq <;> simp_all

/-- The frame that a handler takes, and the state it leaves. -/
theorem State.takeFrame_eq (s : State) (p : Port) (sel : Byte → Bool) (f : Frame) (rest : List Frame)
    (hc : s.canTake p = true) (hf : (s.link p).fifo = f :: rest) (hk : sel f.kind = true) :
    s.takeFrame p sel = some (f, s.setLink p { s.link p with fifo := rest }) := by
  unfold State.takeFrame
  simp [hf, hc, hk]

theorem State.session_ne_zero {s : State} {n : Nat} {h : HostSession} (e : s.session n = .host h) :
    1 ≤ n ∧ n ≤ 5 := by
  by_contra c
  have : n = 0 ∨ 5 < n := by omega
  rw [s.session_free_out n this] at e
  cases e

theorem State.routed_eq {s : State} {p : Port} {n : Nat} {h : HostSession} (e : s.session n = .host h)
    (hp : h.port = p) : s.routed p n = some h := by
  simp [State.routed, e, hp]

theorem State.arrive_eq (s : State) (p : Port) (n d : Nat) (h : HostSession) (rest : List Frame)
    (e : h.life = .opened d) :
    (s.setLink p { s.link p with fifo := rest }).arrive n h = s.arrived p n h rest := by
  simp only [State.arrive, e, State.arrived, State.setLink_setSession, State.setLink_elapsed]

theorem State.routed_setLink (s : State) (p x : Port) (l : Link) (n : Nat) :
    (s.setLink p l).routed x n = s.routed x n := by
  simp [State.routed]

/-- A request that the handler hears is judged by its sequence number (R123). -/
theorem State.takeRequest_hears {s : State} {p : Port} {n : Nat} {h : HostSession} {f : Frame}
    {rest : List Frame} {code : Byte} (hr : s.hears p n h f rest code) (serve : Service) :
    s.takeRequest p code serve =
      if f.seq.toNat = h.expected then (s.arrived p n h rest).performRequest p n f serve
      else
        s.heard p n h rest
          (match h.last with
          | some (q, r) => if f.seq.toNat = q then r else replyFrame f .sequence (u8 h.expected)
          | none => replyFrame f .sequence (u8 h.expected)) := by
  obtain ⟨hc, hf, hk, hn, hs, hp, d, hl⟩ := hr
  unfold State.takeRequest
  rw [s.takeFrame_eq p _ f rest hc hf (by simp [hk])]
  simp only [State.routeFrame, hn, State.routed_setLink, State.routed_eq hs hp, State.frameForSession,
    State.arrive_eq s p n d h rest hl]
  split
  · rfl
  · cases hq : h.last with
    | none =>
      simp [State.arrived, State.placeReply, State.setLink_setLink, State.heard]
    | some x =>
      obtain ⟨q, r⟩ := x
      simp only
      split <;> simp [State.arrived, State.placeReply, State.setLink_setLink, State.heard]

/-- A request in sequence whose rule answers at once, with its effect on the state that the rule meets. -/
theorem State.takeRequest_receives {s : State} {p : Port} {n : Nat} {h : HostSession} {f : Frame}
    {rest : List Frame} {code : Byte} (hr : s.receives p n h f rest code) (serve : Service) :
    s.takeRequest p code serve = (s.arrived p n h rest).performRequest p n f serve := by
  rw [State.takeRequest_hears hr.1, if_pos hr.2]

theorem State.arrived_session {s : State} {p : Port} {n : Nat} {h : HostSession} {rest : List Frame}
    (e : s.session n = .host h) :
    (s.arrived p n h rest).session n = .host { h with life := .opened (s.elapsed + h.interval) } := by
  have := State.session_ne_zero e
  simp [State.arrived, State.session_setSession_same _ _ _ this.1 this.2]

theorem State.arrived_classOf {s : State} {p : Port} {n : Nat} {h : HostSession} {rest : List Frame}
    (e : s.session n = .host h) : (s.arrived p n h rest).classOf n = h.cls := by
  simp [State.classOf, State.arrived_session e, Session.cls]

/-- A request in sequence that its rule refuses, or answers without an effect: answered, nothing else. -/
theorem State.takeRequest_answered {s : State} {p : Port} {n : Nat} {h : HostSession} {f : Frame}
    {rest : List Frame} {code : Byte} (hr : s.receives p n h f rest code) (serve : Service) (r : Result)
    (fields : List Byte)
    (hs : serve n f.body (s.arrived p n h rest) = (s.arrived p n h rest, ⟨r, fields, true, false⟩)) :
    s.takeRequest p code serve = s.answered p n h f rest r fields := by
  rw [State.takeRequest_receives hr]
  have e := hr.1.2.2.2.2.1
  have hb := State.session_ne_zero e
  simp only [State.performRequest, hs, State.noteReply, State.arrived_session e, if_true]
  simp only [State.arrived, State.setLink_setSession, State.setSession_setSession, State.placeReply,
    State.link_setLink_same, State.setLink_setLink, State.answered]

/-- A request in sequence whose effect touches neither the sessions nor the ports: the effect on the answered
state. -/
theorem State.takeRequest_effect {s : State} {p : Port} {n : Nat} {h : HostSession} {f : Frame}
    {rest : List Frame} {code : Byte} (hr : s.receives p n h f rest code) (serve : Service) (r : Result)
    (fields : List Byte) (effect : State → State)
    (hs : serve n f.body (s.arrived p n h rest) = (effect (s.arrived p n h rest), ⟨r, fields, true, false⟩))
    (hsess : ∀ t, (effect t).session n = t.session n)
    (hset : ∀ t q, (effect t).setSession n q = effect (t.setSession n q))
    (hlink : ∀ t, (effect t).link p = t.link p)
    (hl : ∀ t q, (effect t).setLink p q = effect (t.setLink p q)) :
    s.takeRequest p code serve = effect (s.answered p n h f rest r fields) := by
  rw [State.takeRequest_receives hr]
  have e := hr.1.2.2.2.2.1
  have hb := State.session_ne_zero e
  simp only [State.performRequest, hs, State.noteReply, hsess, State.arrived_session e, if_true, hset,
    State.placeReply, hlink, hl]
  simp only [State.arrived, State.setLink_setSession, State.setSession_setSession,
    State.link_setLink_same, State.setLink_setLink, State.answered]

end Sys2Proof.Machine
end

