-- ==== Sys2Proof/Laws/Ops.lean ====
section
/-!
SUPPORT. Laws/Ops.lean: for each shared operation, once, all that it can do: which fields it may change, and what a
channel, a report queue or the action queue holds after it. Later proofs cite these and unfold no operation.
-/

namespace Sys2Proof.Machine

/-! ### Tables read through lists -/

theorem State.mem_triggerList (s : State) (t : Nat) (r : Trigger) :
    (t, r) ∈ s.triggerList ↔ s.trigger t = some r := by
  simp only [State.triggerList, List.mem_filterMap, List.mem_range, Option.map_eq_some_iff, Prod.mk.injEq]
  constructor
  · rintro ⟨a, -, b, h, rfl, rfl⟩
    exact h
  · intro h
    refine ⟨t, ?_, r, h, rfl, rfl⟩
    by_contra hc
    rw [State.trigger, tget_out _ _ _ (by omega)] at h
    cases h

theorem State.mem_interlockList (s : State) (r : Interlock) :
    r ∈ s.interlockList ↔ ∃ i, s.interlock i = some r := by
  simp only [State.interlockList, List.mem_filterMap, id_eq, exists_eq_right]
  constructor
  · intro h
    obtain ⟨i, hi, e⟩ := List.getElem_of_mem h
    refine ⟨i, ?_⟩
    simp at hi e
    simp [State.interlock, tget, hi, e]
  · rintro ⟨i, hi⟩
    have : i < 12 := by
      by_contra hc
      rw [State.interlock, tget_out _ _ _ (by omega)] at hi
      cases hi
    simp only [State.interlock, tget, this, getElem?_pos, Option.getD_some] at hi
    rw [← hi]
    simp

theorem State.chan_of_outputAt {s : State} {c : Nat} {o : Output} (h : s.outputAt c = some o) :
    s.chan c = .output o := by
  unfold State.outputAt at h
  split at h <;> simp_all

theorem State.chan_of_inputAt {s : State} {c : Nat} {i : Input} (h : s.inputAt c = some i) :
    s.chan c = .input i := by
  unfold State.inputAt at h
  split at h <;> simp_all

theorem State.outputAt_of_chan {s : State} {c : Nat} {o : Output} (h : s.chan c = .output o) :
    s.outputAt c = some o := by
  simp [State.outputAt, h]

theorem State.inputAt_of_chan {s : State} {c : Nat} {i : Input} (h : s.chan c = .input i) :
    s.inputAt c = some i := by
  simp [State.inputAt, h]

/-- A bound channel has one of the 32 numbers. -/
theorem State.lt_of_bound {s : State} {c : Nat} (h : s.chan c ≠ .unbound) : c < 32 := by
  by_contra hc
  exact h (s.chan_out c (by omega))

/-- A channel is in use exactly while an entry, a trigger or an interlock names it (R16). -/
theorem State.inUse_iff (s : State) (c : Nat) :
    s.inUse c = true ↔
      (∃ e ∈ s.queue, e.act.target = c ∨ ∃ g, e.act.grd = some g ∧ g.channel = c) ∨
        (∃ t r, s.trigger t = some r ∧ r.spec.source = c) ∨
        ∃ i r, s.interlock i = some r ∧ (r.a = c ∨ r.b = c) := by
  simp only [State.inUse, Bool.or_eq_true, List.any_eq_true, or_assoc]
  refine or_congr ?_ (or_congr ?_ ?_)
  · refine exists_congr fun e => and_congr_right fun _ => ?_
    simp only [Action.names, Bool.or_eq_true, beq_iff_eq]
    refine or_congr Iff.rfl ?_
    cases e.act.grd <;> simp
  · constructor
    · rintro ⟨⟨t, r⟩, h1, h2⟩
      exact ⟨t, r, (s.mem_triggerList t r).1 h1, by simpa using h2⟩
    · rintro ⟨t, r, h1, h2⟩
      exact ⟨(t, r), (s.mem_triggerList t r).2 h1, by simpa using h2⟩
  · constructor
    · rintro ⟨r, h1, h2⟩
      obtain ⟨i, hi⟩ := (s.mem_interlockList r).1 h1
      exact ⟨i, r, hi, by simpa using h2⟩
    · rintro ⟨i, r, h1, h2⟩
      exact ⟨r, (s.mem_interlockList r).2 ⟨i, h1⟩, by simpa using h2⟩

/-- The partners of `x` are the other channels of the records that name it. -/
theorem State.mem_partnersOf (s : State) (x y : Nat) :
    y ∈ s.partnersOf x ↔ ∃ i r, s.interlock i = some r ∧ r.partner x = some y := by
  simp only [State.partnersOf, List.mem_filterMap]
  constructor
  · rintro ⟨r, h, e⟩
    obtain ⟨i, hi⟩ := (s.mem_interlockList r).1 h
    exact ⟨i, r, hi, e⟩
  · rintro ⟨i, r, h, e⟩
    exact ⟨r, (s.mem_interlockList r).2 ⟨i, h⟩, e⟩

theorem Interlock.partner_eq_some {r : Interlock} {x y : Nat} (h : r.partner x = some y) :
    r.a = x ∧ r.b = y ∨ r.b = x ∧ r.a = y := by
  unfold Interlock.partner at h
  split at h
  · exact .inl ⟨‹_›, by simpa using h⟩
  · split at h
    · exact .inr ⟨‹_›, by simpa using h⟩
    · cases h

/-! ### Reports -/

/-- Adding a report changes the report queues alone. -/
theorem State.addReport_frame (s : State) (n time : Nat) (body : ReportBody) :
    ∃ q, s.addReport n time body = { s with reports := q } := by
  unfold State.addReport State.setReportQueue
  dsimp only
  split
  · split <;> split <;> exact ⟨_, rfl⟩
  · exact ⟨_, rfl⟩

/-- A report reaches no queue but its session's. -/
theorem State.addReport_other (s : State) (n m time : Nat) (body : ReportBody) (h : m ≠ n) :
    (s.addReport n time body).reportQueue m = s.reportQueue m := by
  unfold State.addReport
  dsimp only
  split
  · split <;>
    · simp only [State.reportQueue, State.setReportQueue]
      by_cases hn : n = 0
      · simp [hn]
      · by_cases hm : m = 0
        · simp [hm]
        · simp only [hn, hm, if_false]
          exact tget_tset_ne _ _ _ _ _ (by omega)
  · rfl

/-- The report queue of a live session after a report for it (R145). -/
theorem State.addReport_same (s : State) (n time : Nat) (body : ReportBody)
    (h : (s.session n).live = true) :
    (s.addReport n time body).reportQueue n =
      if Config.reportCapacity ≤ (s.reportQueue n).records.length then
        { s.reportQueue n with missed := min ((s.reportQueue n).missed + 1) 255 }
      else
        { s.reportQueue n with
          records := (s.reportQueue n).records ++ [⟨(s.reportQueue n).next, (s.reportQueue n).missed, time, body⟩]
          next := ((s.reportQueue n).next + 1) % 65536
          missed := 0 } := by
  have hb : ¬(n = 0 ∨ 5 < n) := by
    intro c
    rw [s.session_free_out n c] at h
    cases h
  have h0 : n ≠ 0 := by omega
  unfold State.addReport
  dsimp only
  rw [if_pos h]
  split <;>
  · simp only [State.setReportQueue, if_neg h0]
    simp only [State.reportQueue, if_neg h0]
    exact tget_tset_same _ _ _ _ (by omega)

theorem State.addReport_free (s : State) (n time : Nat) (body : ReportBody)
    (h : (s.session n).live = false) : s.addReport n time body = s := by
  simp [State.addReport, h]

/-! ### Outputs -/

/-- A drive writes channel and pin records alone. -/
theorem State.putOutput_frame (s : State) (c : Nat) (o : Output) :
    ∃ ch ps, s.putOutput c o = { s with channels := ch, pins := ps } := ⟨_, _, rfl⟩

theorem State.driveOutput_frame (s : State) (c : Nat) (o : Output) (l : Level) (r : Option Nat) :
    ∃ ch ps, s.driveOutput c o l r = { s with channels := ch, pins := ps } := ⟨_, _, rfl⟩

theorem State.driveOutput_chan_same (s : State) (c : Nat) (o : Output) (l : Level) (r : Option Nat)
    (h : c < 32) :
    (s.driveOutput c o l r).chan c =
      .output
        { o with
          level := l
          lastOff := o.lastOffAfter l s.now
          release := r
          condition := .settling (s.elapsed + o.cfg.settle) } := by
  simp [State.driveOutput, State.putOutput, State.chan_setChan_same _ _ _ h]

theorem State.driveOutput_chan_ne (s : State) (c x : Nat) (o : Output) (l : Level) (r : Option Nat)
    (h : c ≠ x) : (s.driveOutput c o l r).chan x = s.chan x := by
  simp [State.driveOutput, State.putOutput, State.chan_setChan_ne _ _ _ _ h]

/-- Breaking a partner changes that channel alone, and only from ACTIVE to INACTIVE (R85). -/
theorem State.breakPartner_frame (s : State) (y : Nat) :
    ∃ ch ps, s.breakPartner y = { s with channels := ch, pins := ps } := by
  unfold State.breakPartner
  split
  · split <;> exact ⟨_, _, rfl⟩
  · exact ⟨_, _, rfl⟩

theorem State.breakPartner_chan_ne (s : State) (y x : Nat) (h : y ≠ x) :
    (s.breakPartner y).chan x = s.chan x := by
  unfold State.breakPartner
  split
  · split
    · exact s.driveOutput_chan_ne _ _ _ _ _ h
    · rfl
  · rfl

theorem State.foldl_frame {α : Type} (f : State → α → State)
    (hf : ∀ s a, ∃ ch ps, f s a = { s with channels := ch, pins := ps }) (l : List α) (s : State) :
    ∃ ch ps, l.foldl f s = { s with channels := ch, pins := ps } := by
  induction l generalizing s with
  | nil => exact ⟨_, _, rfl⟩
  | cons a l ih =>
    obtain ⟨c1, p1, h1⟩ := hf s a
    obtain ⟨c2, p2, h2⟩ := ih (f s a)
    exact ⟨c2, p2, by rw [List.foldl_cons, h2, h1]⟩

theorem State.breakPartners_frame (s : State) (x : Nat) :
    ∃ ch ps, s.breakPartners x = { s with channels := ch, pins := ps } :=
  State.foldl_frame _ State.breakPartner_frame _ _

/-- A drive to the safe level writes channel and pin records alone. -/
theorem State.driveSafe_frame (s : State) (c : Nat) :
    ∃ ch ps, s.driveSafe c = { s with channels := ch, pins := ps } := by
  unfold State.driveSafe
  split
  · split
    · exact ⟨_, _, rfl⟩
    · split
      · obtain ⟨c1, p1, h1⟩ := s.breakPartners_frame c
        exact ⟨_, _, by rw [h1]; rfl⟩
      · exact ⟨_, _, rfl⟩
  · exact ⟨_, _, rfl⟩

theorem State.setHeld_frame (s : State) (c : Nat) (held : Bool) :
    ∃ ch, s.setHeld c held = { s with channels := ch } := by
  unfold State.setHeld
  split <;> exact ⟨_, rfl⟩

theorem State.driveAction_frame (s : State) (f : InFlight) :
    ∃ ch ps, s.driveAction f = { s with channels := ch, pins := ps } := by
  unfold State.driveAction
  split
  · split <;> exact ⟨_, _, rfl⟩
  · exact ⟨_, _, rfl⟩

/-! ### The queue -/

theorem mem_insertEntry (e x : Entry) (q : List Entry) : x ∈ insertEntry e q ↔ x = e ∨ x ∈ q := by
  induction q with
  | nil => simp [insertEntry]
  | cons y q ih =>
    simp only [insertEntry]
    split
    · simp
    · simp only [List.mem_cons, ih]
      tauto

theorem length_insertEntry (e : Entry) (q : List Entry) : (insertEntry e q).length = q.length + 1 := by
  induction q with
  | nil => rfl
  | cons y q ih =>
    simp only [insertEntry]
    split <;> simp [ih]

/-- Insertion is a permutation, so it keeps what does not depend on the order. -/
theorem insertEntry_perm (e : Entry) (q : List Entry) : (insertEntry e q).Perm (e :: q) := by
  induction q with
  | nil => exact List.Perm.refl _
  | cons y q ih =>
    simp only [insertEntry]
    split
    · exact List.Perm.refl _
    · exact (ih.cons y).trans (List.Perm.swap e y q)

theorem sortEntries_perm (q : List Entry) : (sortEntries q).Perm q := by
  induction q with
  | nil => exact List.Perm.refl _
  | cons y q ih => exact (insertEntry_perm y _).trans (ih.cons y)

theorem Entry.before_trans {a b c : Entry} (h1 : a.before b = true) (h2 : b.before c = true) :
    a.before c = true := by
  unfold Entry.before at *
  cases ha : a.phase.key? <;> cases hb : b.phase.key? <;> cases hc : c.phase.key? <;>
    simp_all <;> omega

/-- Of two entries with distinct admission numbers one stands before the other (R40). -/
theorem Entry.before_total {a b : Entry} (h : a.adm ≠ b.adm) (h1 : a.before b = false) :
    b.before a = true := by
  unfold Entry.before at *
  cases ha : a.phase.key? <;> cases hb : b.phase.key? <;> simp_all <;> omega

/-- Insertion keeps queue order (R40). -/
theorem insertEntry_pairwise (e : Entry) (q : List Entry)
    (hq : q.Pairwise fun a b => a.before b = true) (he : ∀ x ∈ q, x.adm ≠ e.adm) :
    (insertEntry e q).Pairwise fun a b => a.before b = true := by
  induction q with
  | nil => simp [insertEntry]
  | cons y q ih =>
    obtain ⟨hy, hq⟩ := List.pairwise_cons.1 hq
    simp only [insertEntry]
    split
    · rename_i hb
      refine List.pairwise_cons.2 ⟨?_, List.pairwise_cons.2 ⟨hy, hq⟩⟩
      intro x hx
      rcases List.mem_cons.1 hx with rfl | hx
      · exact hb
      · exact Entry.before_trans hb (hy x hx)
    · rename_i hb
      refine List.pairwise_cons.2 ⟨?_, ih hq fun x hx => he x (List.mem_cons_of_mem _ hx)⟩
      intro x hx
      rcases (mem_insertEntry e x q).1 hx with rfl | hx
      · exact Entry.before_total (fun h => he y (List.mem_cons_self ..) h.symm) (by simpa using hb)
      · exact hy x hx

theorem State.mem_removeEntry (s : State) (adm : Nat) (x : Entry) :
    x ∈ (s.removeEntry adm).queue ↔ x ∈ s.queue ∧ x.adm ≠ adm := by
  simp [State.removeEntry]

theorem State.mem_rephase (s : State) (e x : Entry) (ph : Phase) :
    x ∈ (s.rephase e ph).queue ↔ x = { e with phase := ph } ∨ x ∈ s.queue ∧ x.adm ≠ e.adm := by
  simp [State.rephase, mem_insertEntry, State.mem_removeEntry]

theorem State.mem_requeue (s : State) (e x : Entry) :
    x ∈ (s.requeue e).queue ↔ x = { e with adm := s.nextAdmission } ∨ x ∈ s.queue ∧ x.adm ≠ e.adm := by
  simp [State.requeue, mem_insertEntry, State.mem_removeEntry]

theorem State.mem_admitEntry (s : State) (n : Nat) (ph : Phase) (a : Action) (o : Origin) (x : Entry) :
    x ∈ (s.admitEntry n ph a o).queue ↔ x = s.newEntry n ph a o ∨ x ∈ s.queue := by
  simp [State.admitEntry, mem_insertEntry]

/-- The repeat step changes the queue, its admission number and the report queues alone (R67, R68). -/
theorem State.repeatStep_frame (s : State) (e : Entry) :
    ∃ q a r, s.repeatStep e = { s with queue := q, nextAdmission := a, reports := r } := by
  unfold State.repeatStep
  split
  · exact ⟨_, _, _, rfl⟩
  · split
    · exact ⟨_, _, _, rfl⟩
    · rename_i last skipped _
      obtain ⟨r, h⟩ := State.addReport_frame (s.removeEntry e.adm) e.owner s.now
        (.actionExpired e.handle e.act.target e.act.kind last skipped false)
      exact ⟨_, _, _, by rw [h]; rfl⟩

theorem State.failOccurrence_frame (s : State) (e : Entry) (reason : FailReason) (time : Nat) :
    ∃ q a r, s.failOccurrence e reason time = { s with queue := q, nextAdmission := a, reports := r } := by
  unfold State.failOccurrence
  obtain ⟨r, h⟩ := s.addReport_frame e.owner time (.actionFailed (e.occurrence time) reason)
  rw [h]
  obtain ⟨q, a, r, h⟩ := State.repeatStep_frame { s with reports := r } { e with skipped := 0 }
  exact ⟨q, a, r, by rw [h]⟩

theorem State.succeed_frame (s : State) (e : Entry) (time : Nat) :
    ∃ q a r, s.succeed e time = { s with queue := q, nextAdmission := a, reports := r } := by
  unfold State.succeed
  split
  · obtain ⟨r, h⟩ := s.addReport_frame e.owner time (.actionDone (e.occurrence time))
    rw [h]
    obtain ⟨q, a, r, h⟩ := State.repeatStep_frame { s with reports := r } { e with skipped := 0 }
    exact ⟨q, a, r, by rw [h]⟩
  · exact s.repeatStep_frame e

/-- What an occurrence, a verdict or a disposition may change: channels, pins, the queue with its admission number,
and the report queues. -/
def State.workedOn (s t : State) : Prop :=
  ∃ ch ps q a r, t = { s with channels := ch, pins := ps, queue := q, nextAdmission := a, reports := r }

theorem State.workedOn_refl (s : State) : s.workedOn s := ⟨_, _, _, _, _, rfl⟩

theorem State.workedOn_trans {s t u : State} (h1 : s.workedOn t) (h2 : t.workedOn u) : s.workedOn u := by
  obtain ⟨_, _, _, _, _, rfl⟩ := h1
  obtain ⟨_, _, _, _, _, rfl⟩ := h2
  exact ⟨_, _, _, _, _, rfl⟩

theorem State.settleDrive_frame (s : State) (f : InFlight) : s.workedOn (s.settleDrive f) := by
  have done : ∀ (t : State) (e : Entry) (k : Nat), s.workedOn t → s.workedOn (t.succeed e k) := by
    intro t e k h
    obtain ⟨_, _, _, e2⟩ := t.succeed_frame e k
    exact State.workedOn_trans h ⟨_, _, _, _, _, e2⟩
  have failed : ∀ (e : Entry) (r : FailReason) (k : Nat), s.workedOn (s.failOccurrence e r k) := by
    intro e r k
    obtain ⟨_, _, _, e2⟩ := s.failOccurrence_frame e r k
    exact ⟨_, _, _, _, _, e2⟩
  unfold State.settleDrive
  split
  · obtain ⟨ch, ps, h⟩ := s.driveAction_frame f
    dsimp only
    have hw : s.workedOn (s.driveAction f) := ⟨_, _, _, _, _, h⟩
    split
    · exact done _ _ _ hw
    · exact hw
  · exact s.workedOn_refl
  · split
    · exact failed _ _ _
    · exact s.workedOn_refl
  · split
    · exact failed _ _ _
    · exact s.workedOn_refl

theorem State.deferral_frame (s : State) (e : Entry) (broken : Option Nat) (ph : Phase) :
    s.workedOn ((s.breakFor broken).rephase e ph) := by
  cases broken with
  | none => exact ⟨_, _, _, _, _, rfl⟩
  | some y =>
    obtain ⟨ch, ps, h⟩ := s.breakPartner_frame y
    exact ⟨_, _, _, _, _, by simp only [State.breakFor, h]; rfl⟩

theorem State.applyVerdictNow_frame (s : State) (e : Entry) (v : Verdict) :
    s.workedOn (s.applyVerdictNow e v) := by
  cases v with
  | fail r =>
    obtain ⟨_, _, _, h⟩ := s.failOccurrence_frame e r s.now
    exact ⟨_, _, _, _, _, h⟩
  | waitGuard k => exact ⟨_, _, _, _, _, rfl⟩
  | defer k b => exact s.deferral_frame e b _
  | drive l r => exact s.settleDrive_frame _

theorem State.expire_frame (s : State) (e : Entry) : s.workedOn (s.expire e) := by
  have rep : ∀ (t : State) (n k : Nat) (b : ReportBody), s.workedOn t → s.workedOn (t.addReport n k b) := by
    intro t n k b h
    obtain ⟨_, h2⟩ := t.addReport_frame n k b
    exact State.workedOn_trans h ⟨_, _, _, _, _, h2⟩
  unfold State.expire
  dsimp only
  split
  · exact rep _ _ _ _ ⟨_, _, _, _, _, rfl⟩
  · split <;> exact rep _ _ _ _ ⟨_, _, _, _, _, rfl⟩

theorem State.disposeEntry_frame (s : State) (e : Entry) : s.workedOn (s.disposeEntry e) := by
  have due : ∀ k, s.workedOn
      (if k < s.now then if e.act.carry then s.applyVerdictNow e (s.judge e) else s.expire e else s) := by
    intro k
    split
    · split
      · exact s.applyVerdictNow_frame _ _
      · exact s.expire_frame e
    · exact s.workedOn_refl
  unfold State.disposeEntry
  split
  · split
    · obtain ⟨_, _, _, h⟩ := s.failOccurrence_frame e .guardTimeout s.now
      exact ⟨_, _, _, _, _, h⟩
    · split
      · split
        · exact s.applyVerdictNow_frame _ _
        · exact s.workedOn_refl
      · exact s.workedOn_refl
  · exact s.workedOn_refl
  · exact due _
  · exact due _

/-- The overdue disposition changes channels, pins, the queue and reports alone (R69 to R72). -/
theorem State.dispose_frame (s : State) (owners : Nat → Bool) : s.workedOn (s.dispose owners) := by
  unfold State.dispose
  generalize ((s.queue.filter fun e => owners e.owner).map Entry.adm) = l
  have : ∀ t : State, s.workedOn t → s.workedOn (l.foldl State.visitOverdue t) := by
    induction l with
    | nil => exact fun t h => h
    | cons a l ih =>
      intro t h
      refine ih _ (State.workedOn_trans h ?_)
      unfold State.visitOverdue
      split
      · exact t.workedOn_refl
      · split
        · split
          · exact t.workedOn_refl
          · exact t.disposeEntry_frame _
        · exact t.disposeEntry_frame _
  exact this s s.workedOn_refl

/-- A verdict carried out on the ordinary path changes what a disposition may, and the drive request on its way. -/
theorem State.applyVerdict_frame (s : State) (e : Entry) (v : Verdict) :
    ∃ f, s.workedOn { s.applyVerdict e v with inFlight := s.inFlight } ∧ (s.applyVerdict e v).inFlight = f := by
  refine ⟨_, ?_, rfl⟩
  cases v with
  | fail r =>
    obtain ⟨_, _, _, h⟩ := s.failOccurrence_frame e r s.now
    exact ⟨_, _, _, _, _, by simp only [State.applyVerdict, h]; rfl⟩
  | waitGuard k => exact ⟨_, _, _, _, _, rfl⟩
  | defer k b =>
    obtain ⟨_, _, _, _, _, h⟩ := s.deferral_frame e b (.deferred e.due k)
    exact ⟨_, _, _, _, _, by simp only [State.applyVerdict, h]; rfl⟩
  | drive l r => exact ⟨_, _, _, _, _, rfl⟩

/-! ### Level changes -/

/-- The test by which a level change of `c` names the entries that it is still to re-evaluate (R57). -/
theorem State.standing_mem (s : State) (c m : Nat) :
    (s.queue.any fun e => e.adm == m && s.reevaluates c e) = true ↔ s.stop.run = .running ∧
      ∃ e g, e ∈ s.queue ∧ e.adm = m ∧ e.phase.isWaitingGuard = true ∧ e.act.grd = some g ∧ g.channel = c ∧
        (s.session e.owner).isOpen = true := by
  have hr : s.stopped = false ↔ s.stop.run = .running := by
    unfold State.stopped
    cases s.stop.run <;> simp
  simp only [List.any_eq_true, State.reevaluates, State.withheld, Bool.and_eq_true, Bool.not_eq_true',
    Bool.or_eq_false_iff, Bool.not_eq_false', Option.any_eq_true, beq_iff_eq, hr]
  constructor
  · rintro ⟨e, he, hm, ⟨hw, g, hg, hc⟩, h0, h1⟩
    exact ⟨h0, e, g, he, hm, hw, hg, hc, h1⟩
  · rintro ⟨h0, e, g, he, hm, hw, hg, hc, h1⟩
    exact ⟨e, he, hm, ⟨hw, g, hg, hc⟩, h0, h1⟩

/-- A level change keeps the numbers of the entries that it re-evaluates now (R57). -/
theorem State.standing_eq (s : State) (l : LevelChange) : s.standing l =
    { l with waiting := l.waiting.filter fun m => s.queue.any fun e => e.adm == m && s.reevaluates l.channel e } := by
  unfold State.standing
  congr 1
  refine List.filter_congr fun m hm => ?_
  congr 1
  funext e
  unfold State.awaits
  cases h : e.adm == m
  · simp
  · simp [beq_iff_eq.mp h, hm]

/-- The level changes that stand are what R57 leaves of those handed over. -/
theorem State.changesStand_standingChanges (s : State) : s.changesStand s.levelChanges s.standingChanges := by
  refine ⟨fun l m => s.queue.any fun e => e.adm == m && s.reevaluates l.channel e,
    fun l m => s.standing_mem l.channel m, ?_⟩
  unfold State.standingChanges
  rw [show s.standing = _ from funext s.standing_eq]
  refine List.filter_congr fun l _ => ?_
  cases l.waiting <;> simp

/-- While the part is STOPPED no level change is stored for any entry (R54, R57). -/
theorem State.standingChanges_of_stopped (s : State) (h : s.stop.run = .stopped) : s.standingChanges = [] := by
  obtain ⟨stands, hs, e⟩ := s.changesStand_standingChanges
  rw [e, List.filter_eq_nil_iff]
  intro l hl
  obtain ⟨x, -, rfl⟩ := List.mem_map.mp hl
  have : x.waiting.filter (stands x) = [] := by
    rw [List.filter_eq_nil_iff]
    intro m _ hm
    have := ((hs x m).mp hm).1
    rw [h] at this
    cases this
  simp [this]
/-! ### Taken and answered requests -/

section
variable (s : State) (p : Port) (n : Nat) (h : HostSession) (f : Frame) (rest : List Frame) (r : Result)
  (fields : List Byte)

@[simp] theorem State.arrived_time : (s.arrived p n h rest).time = s.time := by simp [State.arrived]

@[simp] theorem State.arrived_pins : (s.arrived p n h rest).pins = s.pins := by simp [State.arrived]

@[simp] theorem State.arrived_channels : (s.arrived p n h rest).channels = s.channels := by simp [State.arrived]

@[simp] theorem State.arrived_queue : (s.arrived p n h rest).queue = s.queue := by simp [State.arrived]

@[simp] theorem State.arrived_handleCounter : (s.arrived p n h rest).handleCounter = s.handleCounter := by simp [State.arrived]

@[simp] theorem State.arrived_nextAdmission : (s.arrived p n h rest).nextAdmission = s.nextAdmission := by simp [State.arrived]

@[simp] theorem State.arrived_inFlight : (s.arrived p n h rest).inFlight = s.inFlight := by simp [State.arrived]

@[simp] theorem State.arrived_levelChanges : (s.arrived p n h rest).levelChanges = s.levelChanges := by simp [State.arrived]

@[simp] theorem State.arrived_fireRequests : (s.arrived p n h rest).fireRequests = s.fireRequests := by simp [State.arrived]

@[simp] theorem State.arrived_interlocks : (s.arrived p n h rest).interlocks = s.interlocks := by simp [State.arrived]

@[simp] theorem State.arrived_triggers : (s.arrived p n h rest).triggers = s.triggers := by simp [State.arrived]

@[simp] theorem State.arrived_edges : (s.arrived p n h rest).edges = s.edges := by simp [State.arrived]

@[simp] theorem State.arrived_stop : (s.arrived p n h rest).stop = s.stop := by simp [State.arrived]

@[simp] theorem State.arrived_reports : (s.arrived p n h rest).reports = s.reports := by simp [State.arrived]

@[simp] theorem State.arrived_handed : (s.arrived p n h rest).handed = s.handed := by simp [State.arrived]

@[simp] theorem State.arrived_slots : (s.arrived p n h rest).slots = s.slots := by simp [State.arrived]

@[simp] theorem State.arrived_build : (s.arrived p n h rest).build = s.build := by simp [State.arrived]

@[simp] theorem State.arrived_store : (s.arrived p n h rest).store = s.store := by simp [State.arrived]

@[simp] theorem State.arrived_supply : (s.arrived p n h rest).supply = s.supply := by simp [State.arrived]

@[simp] theorem State.arrived_startup : (s.arrived p n h rest).startup = s.startup := by simp [State.arrived]

@[simp] theorem State.arrived_rxA : (s.arrived p n h rest).rxA = s.rxA := by simp [State.arrived]

@[simp] theorem State.arrived_baud : (s.arrived p n h rest).baud = s.baud := by simp [State.arrived]

@[simp] theorem State.arrived_sendingA : (s.arrived p n h rest).sendingA = s.sendingA := by simp [State.arrived]

@[simp] theorem State.arrived_txd : (s.arrived p n h rest).txd = s.txd := by simp [State.arrived]

@[simp] theorem State.arrived_offered : (s.arrived p n h rest).offered = s.offered := by simp [State.arrived]

@[simp] theorem State.arrived_reading : (s.arrived p n h rest).reading = s.reading := by simp [State.arrived]

@[simp] theorem State.arrived_miso : (s.arrived p n h rest).miso = s.miso := by simp [State.arrived]

@[simp] theorem State.arrived_deviceReset : (s.arrived p n h rest).deviceReset = s.deviceReset := by simp [State.arrived]

@[simp] theorem State.arrived_pending : (s.arrived p n h rest).pending = s.pending := by simp [State.arrived]

@[simp] theorem State.arrived_now :
    (s.arrived p n h rest).now = s.now := by
  simp [State.arrived]

@[simp] theorem State.arrived_elapsed :
    (s.arrived p n h rest).elapsed = s.elapsed := by
  simp [State.arrived]

@[simp] theorem State.arrived_chan (x : Nat) :
    (s.arrived p n h rest).chan x = s.chan x := by
  simp [State.arrived]

@[simp] theorem State.arrived_pin (x : Nat) :
    (s.arrived p n h rest).pin x = s.pin x := by
  simp [State.arrived]

@[simp] theorem State.arrived_outputAt (x : Nat) :
    (s.arrived p n h rest).outputAt x = s.outputAt x := by
  simp [State.arrived, State.outputAt]

@[simp] theorem State.arrived_inputAt (x : Nat) :
    (s.arrived p n h rest).inputAt x = s.inputAt x := by
  simp [State.arrived, State.inputAt]

@[simp] theorem State.arrived_trigger (x : Nat) :
    (s.arrived p n h rest).trigger x = s.trigger x := by
  simp [State.arrived]

@[simp] theorem State.arrived_triggerList :
    (s.arrived p n h rest).triggerList = s.triggerList := by
  simp [State.arrived]

@[simp] theorem State.arrived_interlock (x : Nat) :
    (s.arrived p n h rest).interlock x = s.interlock x := by
  simp [State.arrived]

@[simp] theorem State.arrived_interlockList :
    (s.arrived p n h rest).interlockList = s.interlockList := by
  simp [State.arrived]

@[simp] theorem State.arrived_slot (x : Nat) :
    (s.arrived p n h rest).slot x = s.slot x := by
  simp [State.arrived]

@[simp] theorem State.arrived_reportQueue (x : Nat) :
    (s.arrived p n h rest).reportQueue x = s.reportQueue x := by
  simp [State.arrived]

@[simp] theorem State.arrived_entriesOwned (x : Nat) :
    (s.arrived p n h rest).entriesOwned x = s.entriesOwned x := by
  simp [State.arrived, State.entriesOwned]

@[simp] theorem State.arrived_stopped :
    (s.arrived p n h rest).stopped = s.stopped := by
  simp [State.arrived]

@[simp] theorem State.arrived_storeBusy :
    (s.arrived p n h rest).storeBusy = s.storeBusy := by
  simp [State.arrived]

@[simp] theorem State.answered_time :
    (s.answered p n h f rest r fields).time = s.time := by
  simp [State.answered]

@[simp] theorem State.answered_pins :
    (s.answered p n h f rest r fields).pins = s.pins := by
  simp [State.answered]

@[simp] theorem State.answered_channels :
    (s.answered p n h f rest r fields).channels = s.channels := by
  simp [State.answered]

@[simp] theorem State.answered_queue :
    (s.answered p n h f rest r fields).queue = s.queue := by
  simp [State.answered]

@[simp] theorem State.answered_handleCounter :
    (s.answered p n h f rest r fields).handleCounter = s.handleCounter := by
  simp [State.answered]

@[simp] theorem State.answered_nextAdmission :
    (s.answered p n h f rest r fields).nextAdmission = s.nextAdmission := by
  simp [State.answered]

@[simp] theorem State.answered_inFlight :
    (s.answered p n h f rest r fields).inFlight = s.inFlight := by
  simp [State.answered]

@[simp] theorem State.answered_levelChanges :
    (s.answered p n h f rest r fields).levelChanges = s.levelChanges := by
  simp [State.answered]

@[simp] theorem State.answered_fireRequests :
    (s.answered p n h f rest r fields).fireRequests = s.fireRequests := by
  simp [State.answered]

@[simp] theorem State.answered_interlocks :
    (s.answered p n h f rest r fields).interlocks = s.interlocks := by
  simp [State.answered]

@[simp] theorem State.answered_triggers :
    (s.answered p n h f rest r fields).triggers = s.triggers := by
  simp [State.answered]

@[simp] theorem State.answered_edges :
    (s.answered p n h f rest r fields).edges = s.edges := by
  simp [State.answered]

@[simp] theorem State.answered_stop :
    (s.answered p n h f rest r fields).stop = s.stop := by
  simp [State.answered]

@[simp] theorem State.answered_reports :
    (s.answered p n h f rest r fields).reports = s.reports := by
  simp [State.answered]

@[simp] theorem State.answered_handed :
    (s.answered p n h f rest r fields).handed = s.handed := by
  simp [State.answered]

@[simp] theorem State.answered_slots :
    (s.answered p n h f rest r fields).slots = s.slots := by
  simp [State.answered]

@[simp] theorem State.answered_build :
    (s.answered p n h f rest r fields).build = s.build := by
  simp [State.answered]

@[simp] theorem State.answered_store :
    (s.answered p n h f rest r fields).store = s.store := by
  simp [State.answered]

@[simp] theorem State.answered_supply :
    (s.answered p n h f rest r fields).supply = s.supply := by
  simp [State.answered]

@[simp] theorem State.answered_startup :
    (s.answered p n h f rest r fields).startup = s.startup := by
  simp [State.answered]

@[simp] theorem State.answered_rxA :
    (s.answered p n h f rest r fields).rxA = s.rxA := by
  simp [State.answered]

@[simp] theorem State.answered_baud :
    (s.answered p n h f rest r fields).baud = s.baud := by
  simp [State.answered]

@[simp] theorem State.answered_sendingA :
    (s.answered p n h f rest r fields).sendingA = s.sendingA := by
  simp [State.answered]

@[simp] theorem State.answered_txd :
    (s.answered p n h f rest r fields).txd = s.txd := by
  simp [State.answered]

@[simp] theorem State.answered_offered :
    (s.answered p n h f rest r fields).offered = s.offered := by
  simp [State.answered]

@[simp] theorem State.answered_reading :
    (s.answered p n h f rest r fields).reading = s.reading := by
  simp [State.answered]

@[simp] theorem State.answered_miso :
    (s.answered p n h f rest r fields).miso = s.miso := by
  simp [State.answered]

@[simp] theorem State.answered_deviceReset :
    (s.answered p n h f rest r fields).deviceReset = s.deviceReset := by
  simp [State.answered]

@[simp] theorem State.answered_pending :
    (s.answered p n h f rest r fields).pending = s.pending := by
  simp [State.answered]

@[simp] theorem State.answered_now :
    (s.answered p n h f rest r fields).now = s.now := by
  simp [State.answered]

@[simp] theorem State.answered_elapsed :
    (s.answered p n h f rest r fields).elapsed = s.elapsed := by
  simp [State.answered]

@[simp] theorem State.answered_chan (x : Nat) :
    (s.answered p n h f rest r fields).chan x = s.chan x := by
  simp [State.answered]

@[simp] theorem State.answered_pin (x : Nat) :
    (s.answered p n h f rest r fields).pin x = s.pin x := by
  simp [State.answered]

@[simp] theorem State.answered_outputAt (x : Nat) :
    (s.answered p n h f rest r fields).outputAt x = s.outputAt x := by
  simp [State.answered, State.outputAt]

@[simp] theorem State.answered_inputAt (x : Nat) :
    (s.answered p n h f rest r fields).inputAt x = s.inputAt x := by
  simp [State.answered, State.inputAt]

@[simp] theorem State.answered_trigger (x : Nat) :
    (s.answered p n h f rest r fields).trigger x = s.trigger x := by
  simp [State.answered]

@[simp] theorem State.answered_triggerList :
    (s.answered p n h f rest r fields).triggerList = s.triggerList := by
  simp [State.answered]

@[simp] theorem State.answered_interlock (x : Nat) :
    (s.answered p n h f rest r fields).interlock x = s.interlock x := by
  simp [State.answered]

@[simp] theorem State.answered_interlockList :
    (s.answered p n h f rest r fields).interlockList = s.interlockList := by
  simp [State.answered]

@[simp] theorem State.answered_slot (x : Nat) :
    (s.answered p n h f rest r fields).slot x = s.slot x := by
  simp [State.answered]

@[simp] theorem State.answered_reportQueue (x : Nat) :
    (s.answered p n h f rest r fields).reportQueue x = s.reportQueue x := by
  simp [State.answered]

@[simp] theorem State.answered_entriesOwned (x : Nat) :
    (s.answered p n h f rest r fields).entriesOwned x = s.entriesOwned x := by
  simp [State.answered, State.entriesOwned]

@[simp] theorem State.answered_stopped :
    (s.answered p n h f rest r fields).stopped = s.stopped := by
  simp [State.answered]

@[simp] theorem State.answered_storeBusy :
    (s.answered p n h f rest r fields).storeBusy = s.storeBusy := by
  simp [State.answered]

end

/-- A body of one number below 256 is read as that number. -/
theorem readIndex_single (c b : Nat) (hc : c < b) (h : c < 256) : readIndex b [BitVec.ofNat 8 c] = some c := by
  have : field [BitVec.ofNat 8 c] 0 1 = c := by
    simp [field, leNat]
    omega
  simp [readIndex, this, hc]

end Sys2Proof.Machine
end

