-- ==== Sys2Proof/Laws/Plans.lean ====
section
/-!
SUPPORT. Laws/Plans.lean: what the operations of replies and of plan loading can do, once each: the records that fit,
the judgement and the application of a plan record, and the partners that a safe-level drive breaks.
-/

namespace Sys2Proof.Machine

/-- The records taken are the longest run from the front that fits (R192). -/
theorem takeFitting_fitsFirst (room : Nat) (rs : List (List Byte)) : fitsFirst room rs (takeFitting room rs) := by
  induction rs generalizing room with
  | nil => exact ⟨[], rfl, by simp [takeFitting], by simp⟩
  | cons r rs ih =>
    unfold takeFitting
    split
    · rename_i h
      obtain ⟨rest, h1, h2, h3⟩ := ih (room - r.length)
      refine ⟨rest, by rw [List.cons_append, ← h1], by simp; omega, ?_⟩
      intro x hx
      have := h3 x hx
      simp
      omega
    · refine ⟨r :: rs, rfl, by simp, ?_⟩
      intro x hx
      cases hx
      simp
      omega

theorem State.guardBound_iff (s : State) (a : Action) :
    s.guardBound a = true ↔ ∀ g, a.grd = some g → (s.inputAt g.channel).isSome = true := by
  unfold State.guardBound State.inputAt
  cases a.grd with
  | none => simp
  | some g => cases hc : s.chan g.channel <;> simp [hc]

theorem State.identical_iff (s : State) (c : Nat) (spec : BindSpec) :
    (s.chan c).identical spec = true ↔ s.boundAs c spec := by
  unfold Channel.identical State.boundAs State.outputAt State.inputAt
  cases hc : s.chan c <;> cases spec <;> simp [and_assoc]

theorem State.roomRefusal_full (s : State) (n : Nat) (h : 512 ≤ s.queue.length) :
    s.roomRefusal n = some .queueFull := by
  have : s.poolHasRoom = false := decide_eq_false (Nat.not_lt.2 h)
  simp [State.roomRefusal, this]

theorem State.roomRefusal_quota (s : State) (n : Nat) (h : s.queue.length < 512) (hn : 384 ≤ s.entriesOwned n) :
    s.roomRefusal n = some .quota := by
  have h1 : s.poolHasRoom = true := decide_eq_true h
  have h2 : s.quotaHasRoom n = false := decide_eq_false (Nat.not_lt.2 hn)
  simp [State.roomRefusal, h1, h2]

theorem State.roomRefusal_none (s : State) (n : Nat) (h : s.queue.length < 512) (hn : s.entriesOwned n < 384) :
    s.roomRefusal n = none := by
  have h1 : s.poolHasRoom = true := decide_eq_true h
  have h2 : s.quotaHasRoom n = true := decide_eq_true hn
  simp [State.roomRefusal, h1, h2]

/-- A plan record is judged by its row of R178. -/
theorem State.judgePlanRecord_judged (s : State) (target : Nat) (x : PlanRecord) :
    s.recordJudged target x (s.judgePlanRecord target x) := by
  cases x with
  | unreadable => rfl
  | bind c spec =>
    unfold State.recordJudged State.judgePlanRecord
    have hb := s.identical_iff c spec
    refine ⟨fun h => ⟨fun g => ?_, fun g => ?_⟩, fun h => ⟨fun g => ?_, fun g => ⟨fun k => ?_, fun k => ?_⟩⟩⟩
    · have : spec.pins.any (fun p => s.pin p != .isolated) = false := by simpa using g
      simp [h, this]
    · have : spec.pins.any (fun p => s.pin p != .isolated) = true := by simpa using g
      simp [h, this]
    all_goals simp_all
  | interlock r =>
    unfold State.recordJudged State.judgePlanRecord
    cases ha : s.outputAt r.a with
    | none => simp [ha]
    | some a =>
      cases hb : s.outputAt r.b with
      | none => simp [ha, hb]
      | some b =>
        simp only [ha, hb]
        refine ⟨by simp, ?_⟩
        rintro _ _ ⟨⟩ ⟨⟩
        refine ⟨fun h => ?_, fun h1 h2 => ⟨fun h => ?_, fun i hi hn => ⟨fun h => ?_, fun h => ?_⟩⟩⟩
        · have : bothOwned a b target = false := by
            unfold bothOwned
            simp
            tauto
          simp [this]
        all_goals have : bothOwned a b target = true := by simp [bothOwned, h1, h2]
        · have hf : s.freeInterlock = none := by
            unfold State.freeInterlock
            simpa using h
          simp [this, hf]
        all_goals
          have hf : s.freeInterlock ≠ none := by
            unfold State.freeInterlock
            simp only [ne_eq, List.find?_eq_none, not_forall]
            exact ⟨i, by simpa using hi, by simp [hn]⟩
        · have hp : pairSafe a b r.dead = true := by
            unfold pairSafe
            obtain ⟨h3, h4, h5⟩ := h
            cases h6 : a.level <;> cases h7 : b.level <;> cases h8 : a.cfg.safe <;> cases h9 : b.cfg.safe <;>
              simp_all
          simp [this, hf, hp]
        · have hp : pairSafe a b r.dead = false := by
            unfold pairSafe
            cases h6 : a.level <;> cases h7 : b.level <;> cases h8 : a.cfg.safe <;> cases h9 : b.cfg.safe <;>
              simp_all
          simp [this, hf, hp]
  | trigger k g =>
    unfold State.recordJudged State.judgePlanRecord State.foreignTrigger
    cases hi : s.inputAt g.source <;> cases ht : s.trigger k <;> simp [hi, ht]
  | action form a =>
    unfold State.recordJudged State.judgePlanRecord
    cases ho : s.outputAt a.target with
    | none => simp [ho]
    | some o =>
      simp only [ho, reduceCtorEq, false_implies, true_and]
      rintro _ ⟨⟩
      have hg := s.guardBound_iff a
      refine ⟨fun h => by simp [h], fun h => ⟨?_, fun h2 => ⟨fun h3 => ?_, fun h3 h4 => ?_, fun h3 h4 => ?_⟩⟩⟩
      · rintro ⟨g, h1, h2⟩
        have : s.guardBound a = false := by
          by_contra hc
          have := hg.1 (by simpa using hc) g h1
          simp [h2] at this
        simp [h, this]
      · simp [h, hg.2 h2, s.roomRefusal_full target h3]
      · simp [h, hg.2 h2, s.roomRefusal_quota target h3 h4]
      · simp [h, hg.2 h2, s.roomRefusal_none target h3 h4]

/-! ### Partners broken by a safe-level drive (R85) -/

theorem State.breakPartner_chan_same (s : State) (x : Nat) :
    (∀ o, s.chan x = .output o → o.level = .active → o.isFaulted = false →
        (s.breakPartner x).chan x = .output (o.drivenTo .inactive s.now s.elapsed)) ∧
      ((∀ o, s.chan x = .output o → ¬(o.level = .active ∧ o.isFaulted = false)) →
        (s.breakPartner x).chan x = s.chan x) := by
  unfold State.breakPartner
  constructor
  · intro o ho h1 h2
    simp only [ho, h1, h2, and_self, if_true]
    rw [State.driveOutput_chan_same _ _ _ _ _ (s.lt_of_bound (by simp [ho]))]
    simp [Output.drivenTo, Output.lastOffAfter]
  · intro h
    split
    · rename_i o ho
      simp [h o ho]
    · rfl

/-- A pin after a list of pins was written: those named, where the part has such a pin, hold the record. -/
theorem State.pin_setPins (s : State) (ps : List Nat) (r : PinRec) (q : Nat) :
    (s.setPins ps r).pin q = if q ∈ ps ∧ q < 24 then r else s.pin q := by
  unfold State.setPins State.pin
  generalize s.pins = v
  induction ps generalizing v with
  | nil => simp
  | cons p ps ih =>
    rw [List.foldl_cons, ih]
    by_cases h : p = q
    · subst h
      by_cases h24 : p < 24
      · simp [h24, tget_tset_same]
      · simp [h24, tget_out _ _ _ (Nat.le_of_not_lt h24)]
    · rw [tget_tset_ne _ _ _ _ _ h]
      have : q ≠ p := fun e => h e.symm
      simp [this]

theorem State.pin_setChan (s : State) (c : Nat) (x : Channel) (q : Nat) : (s.setChan c x).pin q = s.pin q := rfl

theorem State.driveOutput_pin (s : State) (c : Nat) (o : Output) (l : Level) (rel : Option Nat) (q : Nat) :
    (s.driveOutput c o l rel).pin q =
      if q ∈ o.cfg.pins ∧ q < 24 then .driving c (o.cfg.presents l) else s.pin q := by
  unfold State.driveOutput State.putOutput
  rw [State.pin_setPins, State.pin_setChan]

theorem State.breakPartner_pin (s : State) (y q : Nat) :
    (∀ o, s.chan y = .output o → o.level = .active → o.isFaulted = false → q ∈ o.cfg.pins → q < 24 →
        (s.breakPartner y).pin q = .driving y (o.cfg.presents .inactive)) ∧
      ((∀ o, s.chan y = .output o → o.level = .active → o.isFaulted = false → q ∉ o.cfg.pins) →
        (s.breakPartner y).pin q = s.pin q) := by
  unfold State.breakPartner
  constructor
  · intro o ho h1 h2 h3 h4
    simp [ho, h1, h2, State.driveOutput_pin, h3, h4]
  · intro h
    split
    · rename_i o ho
      split
      · rename_i hc
        rw [State.driveOutput_pin, if_neg fun x => h o ho hc.1 hc.2 x.1]
      · rfl
    · rfl

/-- Breaking a list of partners leaves every pin that none of those it drives has. -/
theorem State.foldl_breakPartner_pin_ne (l : List Nat) (s : State) (q : Nat)
    (h : ∀ y ∈ l, ∀ o, s.chan y = .output o → o.level = .active → o.isFaulted = false → q ∉ o.cfg.pins) :
    (l.foldl State.breakPartner s).pin q = s.pin q := by
  induction l generalizing s with
  | nil => rfl
  | cons y l ih =>
    rw [List.foldl_cons, ih, (s.breakPartner_pin y q).2 (h y (List.mem_cons_self ..))]
    intro x hx o ho h1 h2
    by_cases e : y = x
    · subst e
      obtain ⟨k1, k2⟩ := s.breakPartner_chan_same y
      by_cases broken : ∃ o, s.chan y = .output o ∧ o.level = .active ∧ o.isFaulted = false
      · obtain ⟨o', g1, g2, g3⟩ := broken
        rw [k1 o' g1 g2 g3] at ho
        cases ho
        simp [Output.drivenTo] at h1
      · rw [k2 fun o' g1 g2 => broken ⟨o', g1, g2⟩] at ho
        exact absurd ⟨o, ho, h1, h2⟩ broken
    · rw [s.breakPartner_chan_ne y x e] at ho
      exact h x (List.mem_cons_of_mem _ hx) o ho h1 h2

/-- A pin of a partner that is broken, and of no other one, presents the INACTIVE level. -/
theorem State.foldl_breakPartner_pin (l : List Nat) (s : State) (x q : Nat) (o : Output) (hx : x ∈ l)
    (ho : s.chan x = .output o) (hl : o.level = .active) (hf : o.isFaulted = false) (hq : q ∈ o.cfg.pins)
    (h24 : q < 24)
    (h : ∀ y ∈ l, y ≠ x → ∀ o', s.chan y = .output o' → o'.level = .active → o'.isFaulted = false →
      q ∉ o'.cfg.pins) :
    (l.foldl State.breakPartner s).pin q = .driving x (o.cfg.presents .inactive) := by
  induction l generalizing s with
  | nil => cases hx
  | cons y l ih =>
    rw [List.foldl_cons]
    have other : ∀ z ∈ l, z ≠ x → ∀ o', (s.breakPartner y).chan z = .output o' → o'.level = .active →
        o'.isFaulted = false → q ∉ o'.cfg.pins := by
      intro z hz hzx o' ho' h1 h2
      by_cases e : y = z
      · subst e
        obtain ⟨k1, k2⟩ := s.breakPartner_chan_same y
        by_cases broken : ∃ o, s.chan y = .output o ∧ o.level = .active ∧ o.isFaulted = false
        · obtain ⟨b, g1, g2, g3⟩ := broken
          rw [k1 b g1 g2 g3] at ho'
          cases ho'
          simp [Output.drivenTo] at h1
        · rw [k2 fun b g1 g2 => broken ⟨b, g1, g2⟩] at ho'
          exact absurd ⟨o', ho', h1, h2⟩ broken
      · rw [s.breakPartner_chan_ne y z e] at ho'
        exact h z (List.mem_cons_of_mem _ hz) hzx o' ho' h1 h2
    by_cases e : y = x
    · subst e
      rw [State.foldl_breakPartner_pin_ne]
      · exact (s.breakPartner_pin y q).1 o ho hl hf hq h24
      · intro z hz o' ho' h1 h2
        by_cases e : z = y
        · subst e
          rw [(s.breakPartner_chan_same z).1 o ho hl hf] at ho'
          cases ho'
          simp [Output.drivenTo] at h1
        · exact other z hz e o' ho' h1 h2
    · have hm : x ∈ l := (List.mem_cons.1 hx).resolve_left fun h => e h.symm
      exact ih (s.breakPartner y) hm (by rw [s.breakPartner_chan_ne y x e]; exact ho) other

/-- Breaking a list of partners drives its ACTIVE outputs that are not FAULTED to INACTIVE, each once, and leaves
every other channel. -/
theorem State.foldl_breakPartner_chan (l : List Nat) (s : State) (x : Nat) :
    (∀ o, s.chan x = .output o → x ∈ l → o.level = .active → o.isFaulted = false →
        (l.foldl State.breakPartner s).chan x = .output (o.drivenTo .inactive s.now s.elapsed)) ∧
      ((∀ o, s.chan x = .output o → ¬(x ∈ l ∧ o.level = .active ∧ o.isFaulted = false)) →
        (l.foldl State.breakPartner s).chan x = s.chan x) := by
  induction l generalizing s with
  | nil => exact ⟨fun _ _ h => (by cases h), fun _ => rfl⟩
  | cons y l ih =>
    obtain ⟨c1, p1, hf⟩ := s.breakPartner_frame y
    have hn : (s.breakPartner y).now = s.now ∧ (s.breakPartner y).elapsed = s.elapsed := by
      rw [hf]
      exact ⟨rfl, rfl⟩
    have next := ih (s.breakPartner y)
    rw [hn.1, hn.2] at next
    rw [List.foldl_cons]
    by_cases hy : y = x
    · subst hy
      obtain ⟨h1, h2⟩ := s.breakPartner_chan_same y
      constructor
      · intro o ho _ hl hF
        rw [next.2, h1 o ho hl hF]
        intro o2 ho2
        rw [h1 o ho hl hF] at ho2
        cases ho2
        simp [Output.drivenTo]
      · intro hno
        have same := h2 fun o ho h => hno o ho ⟨List.mem_cons_self .., h⟩
        rw [next.2, same]
        intro o ho h
        rw [same] at ho
        exact hno o ho ⟨List.mem_cons_self .., h.2⟩
    · have same := s.breakPartner_chan_ne y x hy
      rw [same] at next
      refine ⟨fun o ho hx => next.1 o ho ((List.mem_cons.1 hx).resolve_left fun h => hy h.symm), fun hno => ?_⟩
      exact next.2 fun o ho h => hno o ho ⟨List.mem_cons_of_mem _ h.1, h.2⟩

theorem State.now_breakPartners (s : State) (c : Nat) : (s.breakPartners c).now = s.now := by
  obtain ⟨c1, p1, h⟩ := s.breakPartners_frame c
  rw [h]
  rfl

theorem State.elapsed_breakPartners (s : State) (c : Nat) : (s.breakPartners c).elapsed = s.elapsed := by
  obtain ⟨c1, p1, h⟩ := s.breakPartners_frame c
  rw [h]
  rfl

/-- A drive to the safe level of an output that is not FAULTED: that channel as R21 states, and of the others those
that it breaks (R85). -/
theorem State.driveSafe_chan (s : State) (c : Nat) (o : Output) (h : s.chan c = .output o)
    (hF : o.isFaulted = false) :
    (s.driveSafe c).chan c = .output (o.drivenTo o.cfg.safe s.now s.elapsed) ∧
      ∀ d, d ≠ c →
        (∀ od, s.chan d = .output od → o.cfg.safe = .active → o.level = .inactive → od.level = .active →
            od.isFaulted = false → d ∈ s.partnersOf c →
            (s.driveSafe c).chan d = .output (od.drivenTo .inactive s.now s.elapsed)) ∧
          ((∀ od, s.chan d = .output od → ¬(o.cfg.safe = .active ∧ o.level = .inactive ∧ od.level = .active ∧
            od.isFaulted = false ∧ d ∈ s.partnersOf c)) → (s.driveSafe c).chan d = s.chan d) := by
  have lt := s.lt_of_bound (c := c) (by simp [h])
  have unfolded : s.driveSafe c =
      (if o.cfg.safe = .active ∧ o.level = .inactive then s.breakPartners c else s).driveOutput c o o.cfg.safe
        none := by
    simp [State.driveSafe, h, hF]
  rw [unfolded]
  refine ⟨?_, fun d hd => ?_⟩
  · rw [State.driveOutput_chan_same _ _ _ _ _ lt]
    split <;>
      simp [Output.drivenTo, Output.lastOffAfter, State.now_breakPartners, State.elapsed_breakPartners]
  · rw [State.driveOutput_chan_ne _ _ _ _ _ _ hd.symm]
    have broken := State.foldl_breakPartner_chan (s.partnersOf c) s d
    refine ⟨fun od hod h1 h2 h3 h4 h5 => ?_, fun hno => ?_⟩
    · simp only [h1, h2, and_self, if_true]
      exact broken.1 od hod h5 h3 h4
    · split
      · rename_i h1
        exact broken.2 fun od hod h2 => hno od hod ⟨h1.1, h1.2, h2.2.1, h2.2.2, h2.1⟩
      · rfl

end Sys2Proof.Machine
end

