-- ==== Sys2Proof/Tests/Slice0.lean ====
section
/-!
SUPPORT. Tests/Slice0.lean: the refusals of WellFormed, the check values of the manual, one-step tests taken from
the manual's worked sequences, and for every statement a concrete state and operands that meet its hypotheses.
-/

namespace Sys2Proof.Machine

/-! ### WellFormed refuses each ill-formed command -/

theorem test_wellFormed_refuses :
    (Instr.pulseRelease 32).wellFormed = false ∧ (Instr.settleEnd 32 0).wellFormed = false ∧
      (Instr.inputSample 32 .high).wellFormed = false ∧ (Instr.holdoffEnd 16).wellFormed = false ∧
      (Instr.keepaliveExpiry 0).wellFormed = false ∧ (Instr.keepaliveExpiry 5).wellFormed = false ∧
      (Instr.graceExpiry 0).wellFormed = false ∧ (Instr.graceExpiry 5).wellFormed = false ∧
      (Instr.hardReset false false .normal [(8, [])]).wellFormed = false ∧
      (Instr.readEnd 3 4).wellFormed = false ∧ (Instr.unknownSpiCommand 0xB2 1).wellFormed = false := by
  decide

theorem test_wellFormed_accepts :
    (Instr.pulseRelease 31).wellFormed = true ∧ (Instr.holdoffEnd 15).wellFormed = true ∧
      (Instr.keepaliveExpiry 1).wellFormed = true ∧ (Instr.graceExpiry 4).wellFormed = true ∧
      (Instr.hardReset false false .normal [(7, [])]).wellFormed = true ∧
      (Instr.readEnd 4 4).wellFormed = true ∧ (Instr.unknownSpiCommand 0xB4 1).wellFormed = true := by
  decide

/-! ### Check values: the ASCII digits 1 to 9 (R158, R192) -/

/-- The nine characters that the manual's check values are computed over. -/
def digits : List Byte := [0x31, 0x32, 0x33, 0x34, 0x35, 0x36, 0x37, 0x38, 0x39]

theorem test_crc16_check_value : crc16 digits = 0x29B1 := by decide +kernel

theorem test_crc32_check_value : crc32 digits = 0xCBF43926 := by decide +kernel

/-! ### The manual's worked sequences, one step each -/

/-- Two trim windows: +4 over 10 s corrects at 25,000 to 100,000, -3 over 1 s at 3,333, 6,666 and 10,000 (R9). -/
theorem test_tick_correction_points :
    carriesCorrection 4 100000 25000 = true ∧ carriesCorrection 4 100000 100000 = true ∧
      carriesCorrection 4 100000 25001 = false ∧ carriesCorrection (-3) 10000 3333 = true ∧
      carriesCorrection (-3) 10000 6666 = true ∧ carriesCorrection (-3) 10000 10000 = true ∧
      carriesCorrection (-3) 10000 3334 = false ∧ tickAmount 4 true = 2 ∧ tickAmount (-3) true = 0 := by
  decide +kernel

/-- A jump in each direction: 50,000 to 40,000 and 50,000 to 60,000 (R6). -/
theorem test_timeSet_shifts :
    shiftTime 50000 40000 52000 = 42000 ∧ shiftTime 50000 40000 49500 = 39500 ∧
      shiftTime 50000 40000 58000 = 48000 ∧ shiftTime 50000 60000 53000 = 63000 ∧
      shiftTime 50000 40000 300 = 0 := by
  decide +kernel

/-- Forward jump: the occurrence at 56,000 is skipped at 60,000. A stop and a resume: 202,000 and 203,000 are passed
over at 203,500 (R68, R71). -/
theorem test_entryDue_skips :
    advance 56000 none 5000 60000 0 = .queued 61000 none 1 ∧
      advance 202000 none 1000 203500 0 = .queued 204000 none 2 ∧
      advance 202000 (some 1) 1000 203500 0 = .ended 203000 2 := by
  decide +kernel

/-- A stuck coil on a two-pin output: P5 reads HIGH, P6 reads LOW, and P6 is the fault pin (R25). -/
theorem test_settleEnd_stuck_coil :
    (Output.mismatches ⟨⟨[5, 6], .activeHigh, .pushPull, .inactive, 50⟩, some 1, .active, .settling 20050, false,
      some 20300, some 9300⟩ 0x20) = [6] := by
  decide +kernel

/-- A contact that bounces: the third HIGH in a row qualifies C12, dated to the first (R30, R32). -/
theorem test_inputSample_qualifies :
    ((⟨9, 10, 3, some 2, .low, some ⟨.high, 2, 60030⟩, none, [2], 60050⟩ : Input).count .high 60050) =
      some ⟨.high, 3, 60030⟩ ∧
      ((⟨9, 10, 3, some 2, .low, some ⟨.high, 1, 60010⟩, none, [2], 60020⟩ : Input).count .low 60020) = none := by
  decide

/-- A reject gate behind a photo-eye: t = 80,000 taken at 80,015 with holdoff 2,000 (R95). -/
theorem test_triggerEdge_holdoff :
    (TriggerSpec.stateAfter ⟨20, .rising, 7, .every, 2000⟩ 80000 80015) = .holdoff 82000 ∧
      (TriggerSpec.stateAfter ⟨20, .rising, 7, .every, 15⟩ 80000 80015) = .ready ∧
      (TriggerSpec.stateAfter ⟨20, .rising, 7, .once, 2000⟩ 80000 80015) = .spent := by
  decide

/-- A slow host and a full queue: acknowledging 43 of 40 to 71, then 60 with 44 the oldest (R149). -/
theorem test_reportAck_distance :
    (ReportQueue.distance ⟨[⟨40, 0, 0, .sessionNotice 0⟩], 72, 0, 1⟩ 43) = 3 ∧
      (ReportQueue.distance ⟨[⟨44, 0, 0, .sessionNotice 0⟩], 73, 0, 1⟩ 60) = 16 ∧
      (ReportQueue.distance ⟨[], 5, 0, 0⟩ 4) = 65535 := by
  decide +kernel

/-- A READ cut short: the frame of an INPUT_EDGE is 24 bytes from LEN to CRC, and LEN is 23 (R157, R193). -/
theorem test_read_inputEdge_frame :
    (reportFrame 3 ⟨10, 0, 5, .inputEdge 12 true 4⟩).bytes.length = 24 ∧
      (reportFrame 3 ⟨10, 0, 5, .inputEdge 12 true 4⟩).body =
        [10, 0, 0, 0x05, 5, 0, 0, 0, 0, 0, 12, 0, 4, 0, 0, 0, 0, 0] ∧
      (reportFrame 3 ⟨10, 0, 5, .inputEdge 12 true 4⟩).bytes.take 4 = [23, 3, 0, 0xF0] := by
  decide +kernel

/-- Building a plan: three records of 8 bytes, three ACTION and two ACTION with repeat come to 120 bytes (R160). -/
theorem test_planPut_sizes :
    ([0x10, 0x10, 0x20, 0x40, 0x40, 0x40, 0x41, 0x41].map recordSize).sum = 120 ∧
      ([0x10, 0x10, 0x10, 0x20, 0x30, 0x40, 0x40].map recordSize).sum = 76 ∧ recordSize 0x44 = 0 := by
  decide

/-- The BIND record of C0 on P0, ACTIVE_HIGH, PUSH_PULL, safe INACTIVE, settle 0, written out from R193. -/
theorem test_planLoad_bind_record :
    readRecord [0x10, 0, 0, 0, 0xFF, 0xFF, 0, 0] =
      some (.bind 0 (.output ⟨[0], .activeHigh, .pushPull, .inactive, 50⟩)) ∧
      readRecord [0x10, 8, 1, 8, 0xFF, 0xFF, 10, 3] = some (.bind 8 (.input 8 10 3)) ∧
      readRecord [0x20, 0, 1, 1, 200, 0, 0, 0] = some (.interlock ⟨0, 1, 200, .breakFirst⟩) ∧
      readRecord [0x30, 0, 8, 0, 2, 1, 0, 0, 0, 0, 0, 0] = some (.trigger 0 ⟨8, .rising, 2, .every, 0⟩) := by
  decide +kernel

/-- The ACTION records of the same plan: SET C0 at offset 5,000, and the template PULSE C1 of width 500 (R193). -/
theorem test_planLoad_action_record :
    readRecord [0x40, 0, 0, 0, 0, 0, 0, 0, 0x88, 0x13, 0, 0, 0, 0, 0, 0] =
      some (.action (.relative 5000) ⟨0, .set, 0, none, none, false, false⟩) ∧
      readRecord [0x40, 1, 1, 3, 2, 0xF4, 1, 0, 100, 0, 0, 0, 0, 0, 0, 0] =
        some (.action (.armed 100) ⟨1, .pulse 500, 2, none, none, false, false⟩) := by
  decide +kernel

/-- The check of a plan of size 0 is 0x00000000 (R158). -/
theorem test_programmingPhaseEnd_empty_check : crc32 [] = 0 := by decide

/-! ### A bench: a small state with something in every table -/

/-- An output on pin `pin`: ACTIVE_HIGH, PUSH_PULL, safe level INACTIVE, settle time 50. -/
def anOutput (pin : Nat) (owner : Option Nat) (level : Level) (condition : Condition)
    (release lastOff : Option Nat) : Output :=
  ⟨⟨[pin], .activeHigh, .pushPull, .inactive, 50⟩, owner, level, condition, false, release, lastOff⟩

/-- An input on pin `pin`: interval 10, qualify count 3. -/
def anInput (pin : Nat) (owner : Option Nat) (level : QLevel) (candidate : Option Candidate) : Input :=
  ⟨pin, 10, 3, owner, level, candidate, none, [], 100⟩

/-- An action on channel 0 with group tag 3. -/
def anAction (kind : ActionKind) (rep : Option Repetition) (grd : Option Guard) : Action :=
  ⟨0, kind, 3, rep, grd, true, false⟩

/-- A waiting entry, due at 50. -/
def anEntry (kind : ActionKind) (rep : Option Repetition) (grd : Option Guard) : Entry :=
  ⟨1, 1, 0, .waitingTime 50, anAction kind rep grd, .request, 0⟩

/-- A template with offset 20 behind it. -/
def aTemplate : Entry := ⟨2, 1, 1, .template 20, anAction .set none none, .request, 0⟩

/-- A host session of port A. -/
def aHost (cls : SessionClass) : HostSession := ⟨.a, cls, 7, 1000, .opened 1000, 5, none⟩

/-- The bench at device time 100. C0 and C1 are interlocked outputs of session 1, C3 is FAULTED, C4 is session 2's
and ACTIVE with a release time, C6 is unowned; C2 and C7 are inputs; slot 0 holds an empty plan. -/
def bench : State :=
  { State.reset with
    time := ⟨100, true, ⟨0, 3600⟩, 100, none, 100⟩
    channels := Vector.ofFn fun c : Fin 32 =>
      match c.val with
      | 0 => .output (anOutput 0 (some 1) .inactive .ready none none)
      | 1 => .output (anOutput 1 (some 1) .inactive .ready none (some 90))
      | 2 => .input (anInput 2 (some 1) .high (some ⟨.low, 1, 80⟩))
      | 3 => .output (anOutput 3 (some 1) .inactive (.faulted [3]) none none)
      | 4 => .output (anOutput 4 (some 2) .active (.settling 100) (some 100) none)
      | 6 => .output (anOutput 6 none .inactive .ready none none)
      | 7 => .input (anInput 7 (some 5) .unknown none)
      | _ => .unbound
    queue := [anEntry .set none none, aTemplate]
    handleCounter := 3
    nextAdmission := 2
    interlocks := (Vector.replicate 12 none).setIfInBounds 0 (some ⟨0, 1, 10, .refuse⟩)
    triggers := ((Vector.replicate 16 none).setIfInBounds 0
      (some ⟨1, ⟨2, .either, 3, .once, 0⟩, .ready, none⟩)).setIfInBounds 1
      (some ⟨2, ⟨2, .rising, 3, .every, 0⟩, .holdoff 100, some 50⟩)
    sessions := ((Vector.replicate 5 .free).setIfInBounds 0 (.host (aHost .operator))).setIfInBounds 1
      (.host { aHost .operator with port := .b })
    slots := (Vector.replicate 8 Slot.factory).setIfInBounds 0
      ⟨.valid, some [0x41], true, 1, 0, some (crc32 []), []⟩
    stop := { State.reset.stop with gateOpen := true, level := .released } }

/-- `s` with session 1 of class `cls` and the request of `kind` and `body`, in sequence, at the head of Port A's
FIFO. -/
def served (s : State) (cls : SessionClass) (kind : Byte) (body : List Byte) : State :=
  { s with
    sessions := s.sessions.setIfInBounds 0 (.host (aHost cls))
    linkA := { s.linkA with fifo := [⟨1, 5, kind, body⟩] }
    stop := { s.stop with gateOpen := true } }

/-- That request is received, whatever its kind, its body and the session's class. -/
theorem served_receives (s : State) (cls : SessionClass) (kind : Byte) (body : List Byte)
    (h1 : s.deviceReset = none) (h2 : s.linkA.replies = []) :
    (served s cls kind body).receives .a 1 (aHost cls) ⟨1, 5, kind, body⟩ [] kind := by
  refine ⟨⟨?_, rfl, rfl, rfl, ?_, rfl, 1000, rfl⟩, rfl⟩
  · simp [State.canTake, served, State.link, h1, h2, Config.replyCapacity]
  · simp [State.session, served, tget]

theorem bench_receives (cls : SessionClass) (kind : Byte) (body : List Byte) :
    (served bench cls kind body).receives .a 1 (aHost cls) ⟨1, 5, kind, body⟩ [] kind :=
  served_receives bench cls kind body rfl rfl

/-- A property of all outputs is one of the outputs of the 32 channels. -/
theorem of_outputs {s : State} {P : Nat → Output → Prop}
    (h : ∀ c, c < 32 → ∀ o ∈ s.outputAt c, P c o) (c : Nat) (o : Output) (e : s.outputAt c = some o) :
    P c o :=
  h c (s.lt_of_bound (by simp [State.chan_of_outputAt e])) o e

theorem bench_queueLawful : bench.queueLawful := by
  refine ⟨by decide, by decide, by decide, by decide, by decide, by decide, by decide, by decide, ?_⟩
  intro n
  exact Nat.le_trans (List.length_filter_le _ _) (by decide)

theorem bench_pairsKept : bench.pairsKept := by
  refine ⟨of_outputs (by decide), ?_⟩
  intro i r h
  have table : ∀ j, j < 12 → j ≠ 0 → bench.interlock j = none := by decide
  have hi : i = 0 := by
    by_contra hc
    have : bench.interlock i = none := by
      by_cases h12 : i < 12
      · exact table i h12 hc
      · exact tget_out _ _ _ (by omega)
    rw [this] at h
    cases h
  subst hi
  cases h
  exact ⟨by decide, _, _, rfl, rfl, by decide, by decide, by decide⟩

theorem bench_lastOffPast : bench.lastOffPast := by
  have h : ∀ c, c < 32 → ∀ o ∈ bench.outputAt c, ∀ t ∈ o.lastOff, t ≤ bench.now := by decide
  exact fun c o t e => of_outputs h c o e t

theorem bench_stop_lawful : bench.stop.lawful := by
  refine ⟨rfl, fun _ => ⟨rfl, rfl⟩, by decide, by decide, by decide, ?_⟩
  intro k h
  cases h

/-! ### Witnesses: requests -/

theorem witness_StepRunsFrontCommand :
    ({ bench with pending := [.tick, .read] } : State).pending = .tick :: [.read] ∧
      State.reset.pending = [] := ⟨rfl, rfl⟩

theorem witness_EveryCommandAnswers : Instr.read ≠ .tick ∧ ∀ a b l x, Instr.read ≠ .hardReset a b l x := by
  refine ⟨by decide, ?_⟩
  intro a b l x h
  cases h

theorem witness_HandlerWaits :
    requestOf (.halt .a) = some (.a, 0x38) ∧ State.reset.stop.gateOpen = false ∧
      ({ bench with deviceReset := some ⟨.a, 0⟩ } : State).deviceReset.isSome = true ∧
      4 ≤ ({ bench with linkA := { bench.linkA with
        replies := List.replicate 4 ⟨⟨1, 0, 0x85, [0]⟩, false⟩ } }.link .a).replies.length := by
  refine ⟨rfl, rfl, rfl, by decide⟩

/-- The bench with one frame at the head of Port A's FIFO. -/
def withFrame (f : Frame) : State := { bench with linkA := { bench.linkA with fifo := [f] } }

theorem witness_UnroutedFrameRefused :
    requestOf (.halt .a) = some (.a, 0x38) ∧ (withFrame ⟨3, 0, 0x38, []⟩).canTake .a = true ∧
      ((withFrame ⟨3, 0, 0x38, []⟩).link .a).fifo = ⟨3, 0, 0x38, []⟩ :: [] ∧
      (∀ h, (withFrame ⟨3, 0, 0x38, []⟩).session 3 = .host h → h.port ≠ .a) ∧
      (∀ h, (withFrame ⟨2, 0, 0x38, []⟩).session 2 = .host h → h.port ≠ .a) ∧
      (withFrame ⟨0, 0, 0x38, []⟩).session 0 = .free := by
  refine ⟨rfl, rfl, rfl, ?_, ?_, rfl⟩
  · intro h e
    cases e
  · intro h e
    cases e
    decide

/-- Session 1 with a cached reply, and a frame of sequence `seq`. -/
def repeated (last : Option (Nat × Frame)) (seq : Byte) : State :=
  { bench with
    sessions := bench.sessions.setIfInBounds 0 (.host { aHost .operator with last := last })
    linkA := { bench.linkA with fifo := [⟨1, seq, 0x38, []⟩] } }

theorem repeated_hears (last : Option (Nat × Frame)) (seq : Byte) :
    (repeated last seq).hears .a 1 { aHost .operator with last := last } ⟨1, seq, 0x38, []⟩ [] 0x38 :=
  ⟨rfl, rfl, rfl, rfl, rfl, rfl, 1000, rfl⟩

theorem witness_OutOfSequenceNotExecuted :
    requestOf (.halt .a) = some (.a, 0x38) ∧
      (repeated (some (4, ⟨1, 4, 0x85, [0]⟩)) 4).hears .a 1
        { aHost .operator with last := some (4, ⟨1, 4, 0x85, [0]⟩) } ⟨1, 4, 0x38, []⟩ [] 0x38 ∧
      (repeated none 6).hears .a 1 { aHost .operator with last := none } ⟨1, 6, 0x38, []⟩ [] 0x38 :=
  ⟨rfl, repeated_hears _ _, repeated_hears _ _⟩

theorem witness_ClassJudgedFirst :
    (served bench .observer 0x09 []).receives .a 1 (aHost .observer) ⟨1, 5, 0x09, []⟩ [] 0x09 ∧
      needsOperator (.timeSet .a) = true ∧
      (served bench .operator 0x48 []).receives .a 1 (aHost .operator) ⟨1, 5, 0x48, []⟩ [] 0x48 ∧
      needsService (.planBegin .a true) = true ∧
      (served bench .service 0x50 []).receives .a 1 (aHost .service) ⟨1, 5, 0x50, []⟩ [] 0x50 :=
  ⟨bench_receives _ _ _, rfl, bench_receives _ _ _, rfl, bench_receives _ _ _⟩

theorem witness_QueriesReply :
    (served bench .observer 0x08 []).receives .a 1 (aHost .observer) ⟨1, 5, 0x08, []⟩ [] 0x08 ∧
      (served bench .observer 0x14 [31, 32]).receives .a 1 (aHost .observer) ⟨1, 5, 0x14, [31, 32]⟩ [] 0x14 ∧
      [31, 32] = [BitVec.ofNat 8 31, BitVec.ofNat 8 32] ∧
      (served bench .observer 0x32 [15, 1]).receives .a 1 (aHost .observer) ⟨1, 5, 0x32, [15, 1]⟩ [] 0x32 ∧
      (served bench .observer 0x23 [0xFF, 1, 0, 2, 5]).receives .a 1 (aHost .observer)
        ⟨1, 5, 0x23, [0xFF, 1, 0, 2, 5]⟩ [] 0x23 ∧
      [0xFF, 1, 0, 2, 5] = leBytes 2 511 ++ leBytes 2 512 ++ [BitVec.ofNat 8 5] ∧
      (withFrame ⟨0, 9, 0x02, []⟩).canTake .a = true :=
  ⟨bench_receives _ _ _, bench_receives _ _ _, rfl, bench_receives _ _ _, bench_receives _ _ _, rfl, rfl⟩

theorem witness_RecordRepliesFit :
    (∃ tell : List Byte → List Byte, ∀ b, tell b = BitVec.ofNat 8 b.length :: b) ∧
      (∀ ps, (anOutput 3 (some 1) .inactive (.faulted [3]) none none).condition = .faulted ps ↔
        some [3] = some ps) ∧
      (∀ ps, (anOutput 3 (some 1) .inactive .ready none none).condition = .faulted ps ↔ none = some ps) ∧
      (∀ k, (⟨2, ⟨2, .rising, 3, .every, 0⟩, .holdoff 100, some 50⟩ : Trigger).state = .holdoff k ↔
        some 100 = some k) := by
  refine ⟨⟨_, fun _ => rfl⟩, ?_, ?_, ?_⟩ <;> simp [anOutput]

/-- R165, R193: the requesting session of an operation whose session has ended. -/
theorem test_planList_ended_session :
    storeRecord (.reading 3 none .now) = [5, 7, 1, 3, 2, 0xFF] ∧ storeRecord .idle = [2, 0, 0] := by
  decide +kernel

theorem witness_UnknownKindAnswered :
    unknownKind 0x60 = true ∧ (withFrame ⟨0, 9, 0x60, []⟩).canTake .a = true ∧
      (served bench .observer 0x60 []).receives .a 1 (aHost .observer) ⟨1, 5, 0x60, []⟩ [] 0x60 :=
  ⟨rfl, rfl, bench_receives _ _ _⟩

/-- An OPEN of class SERVICE, interval 600,000, with tag `tag`. -/
def anOpen (tag : Byte) : Frame := ⟨0, 0, 0x01, [2, 0xC0, 0x27, 0x09, 0x00, tag, 0]⟩

theorem witness_OpenMakesOrFinds :
    (withFrame (anOpen 8)).canTake .a = true ∧
      (anOpen 8).body = u8 SessionClass.service.code ++ leBytes 4 600000 ++ leBytes 2 8 ∧
      (∀ m h, 1 ≤ m → m ≤ 4 → (withFrame (anOpen 8)).session m = .host h → h.port = .a → h.tag ≠ 8) ∧
      (∀ m, ((withFrame (anOpen 8)).session m).live = true →
        (withFrame (anOpen 8)).classOf m ≠ .service) ∧
      (withFrame (anOpen 8)).session 3 = .free ∧
      (∀ m, 1 ≤ m → m < 3 → ((withFrame (anOpen 8)).session m).live = true) ∧
      (anOpen 7).body = u8 SessionClass.service.code ++ leBytes 4 600000 ++ leBytes 2 (aHost .operator).tag ∧
      (withFrame (anOpen 7)).session 1 = .host (aHost .operator) := by
  refine ⟨rfl, by decide +kernel, ?_, ?_, rfl, by decide, by decide +kernel, rfl⟩
  · intro m h h1 h4 e
    have : m = 1 ∨ m = 2 ∨ m = 3 ∨ m = 4 := by omega
    rcases this with rfl | rfl | rfl | rfl <;> cases e <;> decide
  · intro m
    by_cases hm : m = 0 ∨ 5 < m
    · simp [State.session_free_out _ m hm, Session.live]
    · have : m = 1 ∨ m = 2 ∨ m = 3 ∨ m = 4 ∨ m = 5 := by omega
      rcases this with rfl | rfl | rfl | rfl | rfl <;> decide

theorem witness_bench_sessionsLawful : bench.sessionsLawful := by
  have hosts : ∀ n h, bench.session n = .host h →
      n = 1 ∧ h = aHost .operator ∨ n = 2 ∧ h = { aHost .operator with port := .b } := by
    intro n h e
    have := State.session_ne_zero e
    have : n = 1 ∨ n = 2 ∨ n = 3 ∨ n = 4 ∨ n = 5 := by omega
    rcases this with rfl | rfl | rfl | rfl | rfl <;> cases e <;> simp
  refine ⟨?_, ?_, ?_, ?_⟩
  · intro n h e
    rcases hosts n h e with ⟨rfl, rfl⟩ | ⟨rfl, rfl⟩ <;> decide
  · intro n e
    by_cases hm : n = 0 ∨ 5 < n
    · rw [State.session_free_out _ n hm] at e
      cases e
    · have : n = 1 ∨ n = 2 ∨ n = 3 ∨ n = 4 ∨ n = 5 := by omega
      rcases this with rfl | rfl | rfl | rfl | rfl <;> cases e
  · intro n m h g e1 e2
    rcases hosts n h e1 with ⟨rfl, rfl⟩ | ⟨rfl, rfl⟩ <;> rcases hosts m g e2 with ⟨rfl, rfl⟩ | ⟨rfl, rfl⟩ <;>
      decide
  · intro n m h g e1 e2
    rcases hosts n h e1 with ⟨rfl, rfl⟩ | ⟨rfl, rfl⟩ <;> rcases hosts m g e2 with ⟨rfl, rfl⟩ | ⟨rfl, rfl⟩ <;>
      decide

theorem witness_TrimPendsThenRules :
    (served bench .service 0x0A [0x81, 0xFF, 0xFF]).receives .a 1 (aHost .service)
        ⟨1, 5, 0x0A, [0x81, 0xFF, 0xFF]⟩ [] 0x0A ∧
      [0x81, 0xFF, 0xFF] = BitVec.ofInt 8 (-127) :: leBytes 2 65535 ∧
      ([0x7F, 1, 0] : List Byte) = BitVec.ofInt 8 127 :: leBytes 2 1 ∧
      ({ bench with time := ⟨0, false, ⟨-1, 1⟩, 10000, some ⟨127, 1⟩, 0⟩ } : State).time.trim.window * 10000 ≤
        10000 :=
  ⟨bench_receives _ _ _, by decide, by decide, by decide⟩

theorem witness_TimeSetMovesHeldTimes :
    (served bench .operator 0x09 (leBytes 6 40)).receives .a 1 (aHost .operator)
        ⟨1, 5, 0x09, leBytes 6 40⟩ [] 0x09 ∧ (leBytes 6 40).length = 6 :=
  ⟨bench_receives _ _ _, rfl⟩

theorem witness_TickAdvances :
    bench.time.position < bench.time.trim.window * 10000 ∧
      ({ bench with time := ⟨5, true, ⟨3, 1⟩, 9999, none, 0⟩ } : State).time.position < 1 * 10000 := by
  decide

/-! ### Witnesses: channels -/

/-- The BIND of output C5 to P5, and of input C5 to P5. -/
def bindOut : List Byte := [5, 1, 5, 0xFF, 0xFF, 0, 0, 1, 0, 0]

/-- The BIND of an input, at the limits of its ranges. -/
def bindIn : List Byte := [31, 2, 23, 0xFF, 0xFF, 250, 16]

theorem witness_BindsOrRefuses :
    BindSpec.bodyFor (.output ⟨[5], .activeHigh, .pushPull, .inactive, 50⟩) 5 bindOut ∧
      (served bench .operator 0x10 bindOut).chan 5 = .unbound ∧
      (∀ q ∈ [5], (served bench .operator 0x10 bindOut).pin q = .isolated) ∧
      BindSpec.bodyFor (.input 23 250 16) 31 bindIn ∧
      (served bench .operator 0x10 bindIn).chan 31 = .unbound ∧
      (served bench .operator 0x10 bindIn).pin 23 = .isolated ∧
      BindSpec.bodyFor (.input 23 1 2) 0 [0, 2, 23, 0xFF, 0xFF, 1, 2] ∧ bench.chan 0 ≠ .unbound ∧
      (bench.setPins [5] (.sensing 9)).chan 5 = .unbound ∧
      (bench.setPins [5] (.sensing 9)).pin 5 ≠ .isolated ∧
      ∀ c (spec : BindSpec), ¬spec.bodyFor c [0, 2, 23, 0xFF, 0xFF, 0, 2] := by
  refine ⟨(readBind_eq_some ..).mp (by decide +kernel), by decide +kernel, by decide +kernel,
    (readBind_eq_some ..).mp (by decide +kernel), by decide +kernel, by decide +kernel,
    (readBind_eq_some ..).mp (by decide +kernel), by decide +kernel, by decide +kernel, by decide +kernel, ?_⟩
  intro c spec h
  have e : readBind [0, 2, 23, 0xFF, 0xFF, 0, 2] = none := by decide +kernel
  rw [(readBind_eq_some ..).mpr h] at e
  cases e

theorem witness_UnbindIsolates :
    bench.chan 6 ≠ .unbound ∧ (bench.chan 6).owner = none ∧
      (∀ e ∈ bench.queue, e.act.target ≠ 6 ∧ ∀ g, e.act.grd = some g → g.channel ≠ 6) ∧
      (∀ t r, bench.trigger t = some r → r.spec.source ≠ 6) ∧
      (∀ i r, bench.interlock i = some r → r.a ≠ 6 ∧ r.b ≠ 6) ∧
      (∃ e ∈ bench.queue, e.act.target = 0) ∧ (∃ t r, bench.trigger t = some r ∧ r.spec.source = 2) ∧
      ∃ i r, bench.interlock i = some r ∧ (r.a = 1 ∨ r.b = 1) := by
  have free : bench.inUse 6 = false := by decide
  have h := fun x => (Bool.eq_false_iff.1 free) ((bench.inUse_iff 6).2 x)
  refine ⟨by decide, rfl, ?_, ?_, ?_, ⟨_, List.mem_cons_self .., rfl⟩, ⟨0, _, rfl, rfl⟩, ⟨0, _, rfl, .inr rfl⟩⟩
  · exact fun e he => ⟨fun x => h (.inl ⟨e, he, .inl x⟩), fun g hg x => h (.inl ⟨e, he, .inr ⟨g, hg, x⟩⟩)⟩
  · exact fun t r ht x => h (.inr (.inl ⟨t, r, ht, x⟩))
  · exact fun i r hi => ⟨fun x => h (.inr (.inr ⟨i, r, hi, .inl x⟩)), fun x => h (.inr (.inr ⟨i, r, hi, .inr x⟩))⟩

theorem witness_ClearFaultStartsWindow :
    (served bench .operator 0x12 [3]).receives .a 1 (aHost .operator) ⟨1, 5, 0x12, [3]⟩ [] 0x12 ∧
      bench.outputAt 3 = some (anOutput 3 (some 1) .inactive (.faulted [3]) none none) ∧
      bench.outputAt 0 = some (anOutput 0 (some 1) .inactive .ready none none) ∧
      (served bench .service 0x12 [4]).receives .a 1 (aHost .service) ⟨1, 5, 0x12, [4]⟩ [] 0x12 ∧
      bench.outputAt 4 = some (anOutput 4 (some 2) .active (.settling 100) (some 100) none) :=
  ⟨bench_receives _ _ _, rfl, rfl, bench_receives _ _ _, rfl⟩

theorem witness_InputRequestsWrite :
    (served bench .operator 0x13 [2, 250, 16]).receives .a 1 (aHost .operator) ⟨1, 5, 0x13, [2, 250, 16]⟩ []
        0x13 ∧
      bench.inputAt 2 = some (anInput 2 (some 1) .high (some ⟨.low, 1, 80⟩)) ∧
      bench.inputAt 7 = some (anInput 7 (some 5) .unknown none) ∧
      (served bench .observer 0x15 [2]).receives .a 1 (aHost .observer) ⟨1, 5, 0x15, [2]⟩ [] 0x15 ∧
      (served bench .observer 0x16 [2]).receives .a 1 (aHost .observer) ⟨1, 5, 0x16, [2]⟩ [] 0x16 :=
  ⟨bench_receives _ _ _, rfl, rfl, bench_receives _ _ _, bench_receives _ _ _⟩

theorem witness_ClaimAndRelease :
    (served bench .operator 0x18 [6, 0]).receives .a 1 (aHost .operator) ⟨1, 5, 0x18, [6, 0]⟩ [] 0x18 ∧
      (bench.chan 6).owner = none ∧ bench.chan 6 ≠ .unbound ∧ (bench.chan 0).owner = some 1 ∧
      (bench.chan 4).owner = some 2 ∧
      (served bench .operator 0x19 [1]).receives .a 1 (aHost .operator) ⟨1, 5, 0x19, [1]⟩ [] 0x19 ∧
      (∀ e ∈ bench.queue, e.owner = 1 → e.act.target ≠ 1) ∧
      ∃ e ∈ bench.queue, e.owner = 1 ∧ e.act.target = 0 :=
  ⟨bench_receives _ _ _, rfl, by decide, rfl, rfl, bench_receives _ _ _, by decide, by decide⟩

theorem witness_ForcedClaimMovesOutput :
    (served bench .service 0x18 [4, 1]).queueLawful ∧
      (served bench .service 0x18 [4, 1]).receives .a 1 (aHost .service) ⟨1, 5, 0x18, [4, 1]⟩ [] 0x18 ∧
      bench.outputAt 4 = some (anOutput 4 (some 2) .active (.settling 100) (some 100) none) ∧
      (bench.session 2).live = true ∧ (bench.reportQueue 2).records.length +
        (bench.queue.countP fun e => e.owner == 2 && e.act.target == 4) < 32 ∧
      (served bench .service 0x18 [7, 1]).receives .a 1 (aHost .service) ⟨1, 5, 0x18, [7, 1]⟩ [] 0x18 ∧
      bench.inputAt 7 = some (anInput 7 (some 5) .unknown none) :=
  ⟨bench_queueLawful, bench_receives _ _ _, rfl, rfl, by decide, bench_receives _ _ _, rfl⟩

/-! ### Witnesses: the queue, interlocks and triggers -/

/-- An ACTION_ADD body: SET of C0 at 70, or with flag bit 3 after 70 ticks, or with bit 0 armed with offset 70. -/
def addBody (flags : Byte) : List Byte := [0x40, flags, 0, 0, 3, 0, 0, 0, 70, 0, 0, 0, 0, 0, 0, 0]

/-- No action is spelled by bytes whose first is 0x44: the action codes end at 0x43. -/
theorem addBody_otherRequirement (form : ActionForm) (a : Action) :
    ¬a.bytesFor true form (0x44 :: addBody 0) := by
  intro h
  have e : readAction true (0x44 :: addBody 0) = none := by decide +kernel
  rw [(readAction_eq_some ..).mpr h] at e
  cases e

theorem witness_ActionAddAdmits :
    (served bench .operator 0x20 (addBody 0)).queueLawful ∧
      (served bench .operator 0x20 (addBody 0)).receives .a 1 (aHost .operator) ⟨1, 5, 0x20, addBody 0⟩ []
        0x20 ∧
      (⟨0, .set, 3, none, none, false, false⟩ : Action).bytesFor true (.absolute 70) (addBody 0) ∧
      (⟨0, .set, 3, none, none, false, false⟩ : Action).bytesFor true (.relative 70) (addBody 8) ∧
      (⟨0, .set, 3, none, none, false, false⟩ : Action).bytesFor true (.armed 70) (addBody 1) ∧
      (⟨0, .pulse 1, 3, none, some ⟨2, .low, .wait 1⟩, true, true⟩ : Action).bytesFor true (.absolute 70)
        [0x42, 6, 0, 3, 3, 1, 0, 0, 70, 0, 0, 0, 0, 0, 0, 0, 2, 1, 1, 0, 1, 0, 0, 0] ∧
      (⟨0, .set, 3, some ⟨10, none⟩, some ⟨2, .high, .skip⟩, false, false⟩ : Action).bytesFor true (.absolute 70)
        [0x43, 0, 0, 0, 3, 0, 0, 0, 70, 0, 0, 0, 0, 0, 0, 0, 10, 0, 0, 0, 0, 0, 0, 0, 2, 0, 0, 0, 0, 0, 0, 0] ∧
      (∀ form (a : Action), ¬a.bytesFor true form (0x44 :: addBody 0)) ∧
      bench.outputAt 0 = some (anOutput 0 (some 1) .inactive .ready none none) ∧ bench.queue.length < 512 ∧
      bench.entriesOwned 1 < 384 :=
  ⟨bench_queueLawful, bench_receives _ _ _, (readAction_eq_some ..).mp (by decide +kernel),
    (readAction_eq_some ..).mp (by decide +kernel), (readAction_eq_some ..).mp (by decide +kernel),
    (readAction_eq_some ..).mp (by decide +kernel), (readAction_eq_some ..).mp (by decide +kernel),
    addBody_otherRequirement, rfl, by decide, by decide⟩

theorem witness_CancelsRemoveExactly :
    (served bench .operator 0x21 [2, 0]).queueLawful ∧ aTemplate ∈ bench.queue ∧
      [2, 0] = leBytes 2 aTemplate.handle ∧ aTemplate.owner = 1 ∧ (∀ e ∈ bench.queue, e.handle ≠ 65535) ∧
      (served bench .operator 0x22 [3]).receives .a 1 (aHost .operator) ⟨1, 5, 0x22, [3]⟩ [] 0x22 :=
  ⟨bench_queueLawful, by decide, by decide, rfl, by decide, bench_receives _ _ _⟩

theorem witness_InterlockTableWritten :
    (served bench .operator 0x28 [0xFF, 0, 1, 0xFF, 0xFF, 1]).receives .a 1 (aHost .operator)
        ⟨1, 5, 0x28, [0xFF, 0, 1, 0xFF, 0xFF, 1]⟩ [] 0x28 ∧
      [0xFF, 0, 1, 0xFF, 0xFF, 1] =
        u8 255 ++ u8 0 ++ u8 1 ++ leBytes 2 65535 ++ u8 InterlockMode.breakFirst.code ∧
      bench.interlock 1 = none ∧ (∀ j, j < 1 → bench.interlock j ≠ none) ∧ bench.interlock 11 = none ∧
      bench.outputAt 0 = some (anOutput 0 (some 1) .inactive .ready none none) ∧
      bench.outputAt 1 = some (anOutput 1 (some 1) .inactive .ready none (some 90)) ∧
      ((bench.setChan 0 (.output (anOutput 0 (some 1) .active .ready none none))).setChan 1
        (.output (anOutput 1 (some 1) .active .ready none none))).outputAt 1 =
          some (anOutput 1 (some 1) .active .ready none none) ∧
      (served bench .service 0x29 [11]).receives .a 1 (aHost .service) ⟨1, 5, 0x29, [11]⟩ [] 0x29 ∧
      (served bench .service 0x29 [12]).receives .a 1 (aHost .service) ⟨1, 5, 0x29, [12]⟩ [] 0x29 ∧
      (served bench .operator 0x29 [0]).receives .a 1 (aHost .operator) ⟨1, 5, 0x29, [0]⟩ [] 0x29 :=
  ⟨bench_receives _ _ _, by decide, rfl, by decide, rfl, rfl, rfl, rfl, bench_receives _ _ _,
    bench_receives _ _ _, bench_receives _ _ _⟩

theorem witness_TriggerTableWritten :
    (served bench .operator 0x30 [15, 2, 2, 255, 1, 0xFF, 0xFF, 0xFF]).receives .a 1 (aHost .operator)
        ⟨1, 5, 0x30, [15, 2, 2, 255, 1, 0xFF, 0xFF, 0xFF]⟩ [] 0x30 ∧
      [15, 2, 2, 255, 1, 0xFF, 0xFF, 0xFF] = u8 15 ++ u8 2 ++ u8 EdgeSel.either.code ++ u8 255 ++
        u8 TriggerMode.every.code ++ leBytes 3 16777215 ∧
      (bench.inputAt 2).isSome = true ∧ bench.trigger 15 = none ∧
      (∃ r, bench.trigger 1 = some r ∧ r.owner ≠ 1) ∧
      (served bench .service 0x31 [1]).receives .a 1 (aHost .service) ⟨1, 5, 0x31, [1]⟩ [] 0x31 :=
  ⟨bench_receives _ _ _, by decide, rfl, rfl, ⟨_, rfl, by decide⟩, bench_receives _ _ _⟩

theorem witness_HeldTimesReached :
    bench.trigger 1 = some ⟨2, ⟨2, .rising, 3, .every, 0⟩, .holdoff 100, some 50⟩ ∧ 100 ≤ bench.now ∧
      bench.outputAt 4 = some (anOutput 4 (some 2) .active (.settling 100) (some 100) none) ∧
      ({ bench with time := { bench.time with device := 99 } } : State).now < 100 :=
  ⟨rfl, by decide, rfl, by decide⟩

theorem witness_TriggerEdgeFires :
    ({ bench with edges := [⟨2, true, 90⟩] } : State).edges = ⟨2, true, 90⟩ :: [] ∧
      bench.trigger 0 = some ⟨1, ⟨2, .either, 3, .once, 0⟩, .ready, none⟩ ∧
      (bench.session 1).isOpen = true ∧ bench.stop.run = .running :=
  ⟨rfl, rfl, rfl, rfl⟩

theorem witness_FireRequestSchedules :
    ({ bench with fireRequests := [⟨0, 1, 2, true, 3, .once, 90⟩] } : State).queueLawful ∧
      ({ bench with fireRequests := [⟨0, 1, 2, true, 3, .every, 90⟩] } : State).queueLawful ∧
      (∃ selects : Entry → Bool,
        (∀ e, selects e = true ↔ e.owner = 1 ∧ e.act.tag = 3 ∧ e.phase.isTemplate = true) ∧
          bench.queue.filter selects = [aTemplate]) ∧
      ∃ due : Entry → Nat, ∀ e k, e.phase = .template k → due e = min (90 + k) (2 ^ 48 - 1) :=
  ⟨bench_queueLawful, bench_queueLawful,
    ⟨fun e => decide (e.owner = 1 ∧ e.act.tag = 3 ∧ e.phase.isTemplate = true), fun e => decide_eq_true_iff,
      by decide⟩,
    ⟨fun e => min (90 + (e.phase.offset?).getD 0) (2 ^ 48 - 1), fun e k h => by simp [h, Phase.offset?]⟩⟩

/-- R97: with the quota of 384 reached, a template gives no copy, but QUEUE_FULL and then 0 scheduled, 1 failed. -/
theorem test_fireRequest_no_room : ∃ t, exec .fireRequest
      { bench with
        queue := List.replicate 383 (anEntry .set none none) ++ [aTemplate]
        fireRequests := [⟨0, 1, 2, true, 3, .every, 60⟩] } = .next t ∧
    (t.reportQueue 1).records.map Report.body =
      [.actionFailed ⟨2, 0, .set, 80, true, 0⟩ .queueFull, .triggerFired 0 2 true 60 0 1] :=
  ⟨_, rfl, by decide +kernel⟩

/-! ### Witnesses: Stop Control, sessions and reports -/

/-- The bench STOPPED by a request. -/
def stoppedBench : State :=
  { State.reset with
    sessions := bench.sessions
    stop := ⟨.stopped, false, true, .released, none, some 60, true, true, 0⟩ }

theorem reset_pairsKept : State.reset.pairsKept := by
  refine ⟨of_outputs (by decide), ?_⟩
  intro i r h
  rw [show State.reset.interlock i = none from tget_replicate _ _ _] at h
  cases h

theorem witness_HaltStops :
    (served bench .observer 0x38 []).pairsKept ∧
      (served bench .observer 0x38 []).receives .a 1 (aHost .observer) ⟨1, 5, 0x38, []⟩ [] 0x38 ∧
      bench.stop.run = .running ∧ stoppedBench.pairsKept ∧ stoppedBench.stop.request = true ∧
      (served stoppedBench .observer 0x38 []).receives .a 1 (aHost .observer) ⟨1, 5, 0x38, []⟩ [] 0x38 ∧
      ({ stoppedBench with stop := { stoppedBench.stop with request := false, line := true } } :
        State).pairsKept :=
  ⟨bench_pairsKept, bench_receives _ _ _, rfl, ⟨of_outputs (by decide), reset_pairsKept.2⟩, rfl,
    served_receives _ _ _ _ rfl rfl, ⟨of_outputs (by decide), reset_pairsKept.2⟩⟩

theorem witness_ResumeReturns :
    (served bench .operator 0x39 []).queueLawful ∧
      (served { bench with stop := stoppedBench.stop } .operator 0x39 []).receives .a 1 (aHost .operator)
        ⟨1, 5, 0x39, []⟩ [] 0x39 ∧
      stoppedBench.stop.run = .stopped ∧ stoppedBench.stop.line = false ∧
      anEntry .set none none ∈ bench.queue ∧ aTemplate.phase.isTemplate = true ∧
      (anEntry .set none none).act.carry = false ∧ (anEntry .set none none).phase.key? = some 50 ∧
      (bench.session 1).isOpen = true :=
  ⟨bench_queueLawful, served_receives _ _ _ _ rfl rfl, rfl, rfl, by decide, rfl, rfl, rfl, rfl⟩

/-- A stop and a resume, H7 and H8, at 203,500: the one-shot with CARRY of 200,000 fires late and leaves; the
repeating one of 201,000 expires with 2 more passed over, and is next due at 204,000 (R70, R71). -/
theorem test_resume_disposes : ∃ t, exec (.resume .a) (served
      { bench with
        time := { bench.time with device := 203500 }
        stop := stoppedBench.stop
        queue := [{ anEntry .set none none with
            phase := .waitingTime 200000, act := { anAction .set none none with carry := true } },
          { anEntry .set none none with
            handle := 2, adm := 1, phase := .waitingTime 201000, act := anAction .set (some ⟨1000, none⟩) none }] }
      .operator 0x39 []) = .next t ∧
    t.queue.map (fun e => (e.handle, e.phase)) = [(2, .waitingTime 204000)] ∧
      (t.reportQueue 1).records.map Report.body =
        [.stopChange ⟨.resumed, false, .running, false, false, 1, none, some 60⟩,
          .actionDone ⟨1, 0, .set, 200000, true, 0⟩, .actionExpired 2 0 .set 201000 2 true] :=
  ⟨_, rfl, by decide +kernel, by decide +kernel⟩

/-- Stop Control after three ASSERTED samples from `level`. -/
def counted (level : StopLevel) (asserted : Bool) : StopControl :=
  { State.reset.stop with
    level := level, gateOpen := decide (level ≠ .unknown), candidate := some ⟨asserted, 3, 97⟩ }

theorem witness_StopSampleQualifies :
    (counted .released true).lawful ∧ (counted .unknown true).lawful ∧ (counted .unknown false).lawful ∧
      ({ bench with stop := counted .released true } : State).pairsKept ∧
      (counted .released true).nextSample ≤ bench.elapsed ∧ (bench.slot 0).state = .valid ∧
      (bench.slot 0).autostart = true := by
  refine ⟨?_, ?_, ?_, bench_pairsKept, by decide, rfl, rfl⟩ <;>
  · refine ⟨rfl, fun _ => ⟨rfl, rfl⟩, by decide, by decide, by decide, ?_⟩
    intro k h
    cases h
    decide

/-- The bench with session 1 LAPSED, its outputs held, the part STOPPED and a KEEPALIVE waiting. -/
def lapsedBench : State :=
  { (served bench .operator 0x05 []).setHeld 0 true with
    sessions := bench.sessions.setIfInBounds 0 (.host { aHost .operator with life := .lapsed 5000 })
    stop := { bench.stop with run := .stopped, gateOpen := true } }

theorem witness_ExpiryLapses :
    bench.pairsKept ∧ bench.session 1 = .host (aHost .operator) ∧ (aHost .operator).life = .opened 1000 ∧
      1000 ≤ ({ bench with time := { bench.time with elapsed := 1000 } } : State).elapsed ∧
      lapsedBench.canTake .a = true ∧ (lapsedBench.link .a).fifo = [⟨1, 5, 0x05, []⟩] ∧
      lapsedBench.session 1 = .host { aHost .operator with life := .lapsed 5000 } ∧
      lapsedBench.stop.run = .stopped ∧
      ({ lapsedBench with stop := bench.stop } : State).canTake .a = true ∧ bench.stop.run = .running :=
  ⟨bench_pairsKept, rfl, rfl, by decide, by decide, rfl, rfl, rfl, by decide, rfl⟩

/-- R128: the return removes the mark of C0 and says so. -/
theorem test_keepalive_returns : ∃ t, exec (.keepalive .a) lapsedBench = .next t ∧
    (t.outputAt 0).map Output.held = some false ∧
      (t.reportQueue 1).records.map Report.body = [.sessionNotice 1] :=
  ⟨_, rfl, by decide, by decide⟩

theorem witness_SessionEnds :
    (served bench .observer 0x04 []).pairsKept ∧
      (served bench .observer 0x04 []).receives .a 1 (aHost .observer) ⟨1, 5, 0x04, []⟩ [] 0x04 ∧
      (bench.setSession 1 (.host { aHost .operator with life := .lapsed 100 })).session 1 =
        .host { aHost .operator with life := .lapsed 100 } ∧ 100 ≤ bench.elapsed :=
  ⟨bench_pairsKept, bench_receives _ _ _, rfl, by decide⟩

/-- The bench with the LOCAL session. -/
def withLocal : State := { bench with sessions := bench.sessions.setIfInBounds 4 .localSession }

theorem witness_TakeoverConditions :
    (served withLocal .operator 0x1A []).receives .a 1 (aHost .operator) ⟨1, 5, 0x1A, []⟩ [] 0x1A ∧
      withLocal.session 5 = .localSession ∧ bench.session 5 = .free ∧
      withLocal.entriesOwned 1 + withLocal.entriesOwned 5 ≤ 384 ∧
      (served withLocal .observer 0x1A [0]).receives .a 1 (aHost .observer) ⟨1, 5, 0x1A, [0]⟩ [] 0x1A ∧
      384 < ({ withLocal with queue := List.replicate 385 (anEntry .set none none) } : State).entriesOwned 1 :=
  ⟨served_receives _ _ _ _ rfl rfl, rfl, rfl, by decide, served_receives _ _ _ _ rfl rfl,
    by decide +kernel⟩

theorem witness_TakeoverMovesLocal :
    (served withLocal .operator 0x1A []).receives .a 1 (aHost .operator) ⟨1, 5, 0x1A, []⟩ [] 0x1A ∧
      withLocal.session 5 = .localSession ∧ (∀ k start, withLocal.store ≠ .reading k (some 5) start) := by
  refine ⟨served_receives _ _ _ _ rfl rfl, rfl, ?_⟩
  intro k start h
  cases h

/-- A report queue of three records, two of them sent, numbered round the end of the sequence. -/
def someReports : ReportQueue :=
  ⟨[⟨65535, 0, 1, .sessionNotice 0⟩, ⟨0, 0, 2, .sessionNotice 1⟩, ⟨1, 0, 3, .sessionNotice 2⟩], 2, 0, 2⟩

theorem someReports_lawful : someReports.lawful := by
  refine ⟨by decide, by decide, by decide, by decide, by decide, ?_⟩
  intro i r h
  have : i = 0 ∨ i = 1 ∨ i = 2 ∨ 3 ≤ i := by omega
  rcases this with rfl | rfl | rfl | h3
  · cases h
    decide
  · cases h
    decide
  · cases h
    decide
  · rw [List.getElem?_eq_none (by simpa [someReports] using h3)] at h
    cases h

/-- Distance 1 is sent, 2 is not, and 32768 lies before the oldest. -/
theorem witness_ReportAckRemoves :
    (served (bench.setReportQueue 1 someReports) .observer 0x40 [0, 0]).receives .a 1 (aHost .observer)
        ⟨1, 5, 0x40, [0, 0]⟩ [] 0x40 ∧
      ((served (bench.setReportQueue 1 someReports) .observer 0x40 [0, 0]).reportQueue 1).lawful ∧
      [0, 0] = leBytes 2 0 ∧ (65535 + 1) % 65536 = 0 ∧ 1 < someReports.sent ∧ (65535 + 2) % 65536 = 1 ∧
      someReports.sent ≤ 2 ∧ (65535 + 32767) % 65536 = 32766 ∧ (65535 + 32768) % 65536 = 32767 :=
  ⟨served_receives _ _ _ _ rfl rfl, someReports_lawful, by decide, by decide, by decide, by decide,
    by decide, by decide, by decide⟩

theorem witness_ReportsAddedAndResent :
    (served (bench.setReportQueue 1 someReports) .observer 0x41 []).receives .a 1 (aHost .observer)
        ⟨1, 5, 0x41, []⟩ [] 0x41 ∧
      ({ bench with handed := [⟨1, 90, .sessionNotice 0⟩] } : State).handed = ⟨1, 90, .sessionNotice 0⟩ :: [] ∧
      (bench.session 1).live = true ∧ (bench.session 3).live = false ∧
      (bench.reportQueue 1).records.length < 32 ∧
      32 ≤ ((bench.setReportQueue 1
        ⟨List.replicate 32 ⟨0, 0, 0, .sessionNotice 0⟩, 0, 255, 0⟩).reportQueue 1).records.length :=
  ⟨served_receives _ _ _ _ rfl rfl, rfl, rfl, rfl, by decide, by decide⟩

/-! ### Witnesses: the Schedule Engine and the Channel Matrix -/

/-- The bench with one entry of session 1 in its queue. -/
def queued (e : Entry) : State := { bench with queue := [e] }

theorem attends (s : State) (e : Entry) (k : Nat) (h1 : s.inFlight = none) (h2 : s.stop.run = .running)
    (h3 : (s.session e.owner).isOpen = true) (h4 : e.phase.key? = some k) (h5 : k ≤ s.now)
    (h6 : s.queue = [e]) : s.attendsTo e :=
  ⟨h1, h2, h3, ⟨k, h4, h5⟩, [], [], by simpa using h6, fun x hx => by cases hx⟩

/-- A guard on C2, which reads HIGH. -/
def aGuard (level : PinLevel) (mode : GuardMode) : Guard := ⟨2, level, mode⟩

/-- C1 ACTIVE, for session 1. -/
def activePartner (mode : InterlockMode) : State :=
  { (queued (anEntry .set none none)).setChan 1 (.output (anOutput 1 (some 1) .active .ready none none)) with
    interlocks := (Vector.replicate 12 none).setIfInBounds 0 (some ⟨0, 1, 10, mode⟩) }

theorem witness_EntryDueFires :
    (queued (anEntry .set none none)).attendsTo (anEntry .set none none) ∧
      (activePartner .refuse).attendsTo (anEntry .set none none) ∧
      (activePartner .breakFirst).attendsTo (anEntry .set none none) ∧
      (activePartner .refuse).interlock 0 = some ⟨0, 1, 10, .refuse⟩ ∧
      (activePartner .refuse).outputAt 1 = some (anOutput 1 (some 1) .active .ready none none) ∧
      bench.outputAt 1 = some (anOutput 1 (some 1) .inactive .ready none (some 90)) ∧
      (({ queued (anEntry .set none none) with time := { bench.time with device := 99 } } : State).now < 90 + 10) ∧
      (queued { anEntry .set none none with act := { anAction .set none none with target := 3 } }).attendsTo
        { anEntry .set none none with act := { anAction .set none none with target := 3 } } ∧
      (queued (anEntry .set none (some (aGuard .high .skip)))).attendsTo
        (anEntry .set none (some (aGuard .high .skip))) :=
  ⟨attends _ _ 50 rfl rfl rfl rfl (by decide) rfl, attends _ _ 50 rfl rfl rfl rfl (by decide) rfl,
    attends _ _ 50 rfl rfl rfl rfl (by decide) rfl, rfl, rfl, rfl, by decide,
    attends _ _ 50 rfl rfl rfl rfl (by decide) rfl, attends _ _ 50 rfl rfl rfl rfl (by decide) rfl⟩

/-- An entry waiting for its guard until 100. -/
def waitingEntry (kind : ActionKind) (level : PinLevel) : Entry :=
  { anEntry kind none (some (aGuard level (.wait 16777215))) with phase := .waitingGuard 50 100 }

/-- An entry of session 2 that waits for C2 to be LOW, until 110. -/
def laterEntry : Entry :=
  { waitingEntry .set .low with handle := 2, owner := 2, adm := 3, phase := .waitingGuard 50 110 }

/-- Session 1 is LAPSED. Its entry and that of session 2 wait on C2, whose two level changes are not yet taken. -/
def passing : State :=
  { (queued laterEntry).setSession 1 (.host { aHost .operator with life := .lapsed 5000 }) with
    queue := [waitingEntry .set .high, laterEntry], levelChanges := [⟨2, [0, 3]⟩, ⟨2, [0]⟩] }

theorem witness_GuardsHoldEntries :
    (queued (anEntry .set none (some (aGuard .low .skip)))).attendsTo
        (anEntry .set none (some (aGuard .low .skip))) ∧
      (queued (anEntry .set none (some (aGuard .low (.wait 1))))).attendsTo
        (anEntry .set none (some (aGuard .low (.wait 1)))) ∧
      (∀ i, bench.inputAt 2 = some i → i.level ≠ .low) ∧
      (queued (waitingEntry .set .low)).attendsTo (waitingEntry .set .low) ∧
      ({ queued (waitingEntry .set .high) with levelChanges := [⟨2, [0]⟩] } : State).levelChanges =
        ⟨2, [0]⟩ :: [] ∧
      (waitingEntry .set .high).adm ∈ [0] ∧ bench.meets (aGuard .high (.wait 16777215)) ∧
      ([0].filter fun m => m != (waitingEntry .set .high).adm) = [] ∧
      ([0, 1].filter fun m => m != (waitingEntry .set .high).adm) ≠ [] ∧
      (∀ x ∈ bench.queue, x.adm ∉ [0] ∨ x.phase.isWaitingGuard = false) ∧ bench.levelChanges = [] ∧
      passing.levelChanges = ⟨2, [0, 3]⟩ :: [⟨2, [0]⟩] ∧ (passing.session 1).isOpen = false ∧
      passing.queue = [waitingEntry .set .high] ++ laterEntry :: [] ∧ laterEntry.adm ∈ [0, 3] ∧
      (passing.session laterEntry.owner).isOpen = true ∧ passing.stop.run = .running := by
  refine ⟨attends _ _ 50 rfl rfl rfl rfl (by decide) rfl, attends _ _ 50 rfl rfl rfl rfl (by decide) rfl, ?_,
    attends _ _ 100 rfl rfl rfl rfl (by decide) rfl, rfl, by decide, ⟨_, rfl, rfl⟩, by decide, by decide, by decide, rfl,
    rfl, by decide, rfl, by decide, by decide, rfl⟩
  intro i h
  cases h
  decide

/-- R57: the entry of the LAPSED session is passed over, and neither level change is stored for it. -/
theorem test_changes_pass_over_withheld :
    ∃ t, exec .guardReevaluation passing = .next t ∧ t.levelChanges = [] ∧ t.queue = passing.queue :=
  ⟨_, rfl, by decide +kernel, by decide +kernel⟩

/-- R57: an entry into STOPPED passes over every entry. -/
theorem test_stop_passes_over : (passing.enterStopped false 1 none).levelChanges = [] := by
  decide +kernel

/-- One entry in the queue: due again at 100, which is now, and due again at 70, which is past. -/
theorem witness_OccurrenceEnds :
    bench.queueLawful ∧ anEntry .set none none ∈ bench.queue ∧
      (queued (anEntry .set (some ⟨50, some 1⟩) none)).queueLawful ∧
      (queued (anEntry .set (some ⟨50, some 1⟩) none)).now ≤ (anEntry .set (some ⟨50, some 1⟩) none).due + 50 ∧
      (anEntry .set (some ⟨50, some 1⟩) none).due + 50 ≤ 2 ^ 48 - 1 ∧
      (queued (anEntry .set (some ⟨20, some 1⟩) none)).queueLawful ∧
      (anEntry .set (some ⟨20, some 1⟩) none).due + 20 <
        (queued (anEntry .set (some ⟨20, some 1⟩) none)).now := by
  refine ⟨bench_queueLawful, by decide, ?_, by decide, by decide, ?_, by decide⟩ <;>
  · refine ⟨by decide, by decide, by decide, by decide, by decide, by decide, by decide, by decide, ?_⟩
    intro n
    exact Nat.le_trans (List.length_filter_le _ _) (by decide)

/-- The bench with a drive request for C0 on its way. -/
def flying (target : Nat) (level : Level) : State :=
  { bench with inFlight := some ⟨0, some 1, target, level, none, 100⟩ }

theorem witness_ActionDriveTaken :
    (flying 0 .active).inFlight = some ⟨0, some 1, 0, .active, none, 100⟩ ∧
      (flying 0 .active).outputAt 0 = some (anOutput 0 (some 1) .inactive .ready none none) ∧
      (flying 0 .active).stop.run = .running ∧
      (∀ i r, (flying 0 .active).interlock i = some r → (flying 0 .active).clearOf 0 r) ∧
      (flying 3 .active).outputAt 3 = some (anOutput 3 (some 1) .inactive (.faulted [3]) none none) ∧
      (∃ i r, (activePartner .refuse).interlock i = some r ∧ r.a ≠ r.b ∧
        ¬(activePartner .refuse).clearOf 0 r) := by
  refine ⟨rfl, rfl, rfl, ?_, rfl, 0, _, rfl, by decide, ?_⟩
  · intro i r h y hy
    obtain ⟨-, a, b, ha, hb, -⟩ := bench_pairsKept.2 i r h
    have hi : i = 0 := by
      by_contra hc
      have table : ∀ j, j < 12 → j ≠ 0 → bench.interlock j = none := by decide
      have h' : bench.interlock i = some r := h
      by_cases h12 : i < 12
      · rw [table i h12 hc] at h'
        cases h'
      · rw [State.interlock, tget_out _ _ _ (by omega)] at h'
        cases h'
    subst hi
    cases h
    rcases hy with ⟨-, rfl⟩ | ⟨h1, -⟩
    · exact ⟨_, rfl, rfl, fun k hk => by cases hk; decide⟩
    · cases h1
  · intro h
    obtain ⟨o, ho, hl, -⟩ := h 1 (.inl ⟨rfl, rfl⟩)
    cases ho
    cases hl

theorem witness_SettleEndJudgesPins :
    bench.outputAt 4 = some (anOutput 4 (some 2) .active (.settling 100) (some 100) none) ∧
      100 ≤ bench.elapsed ∧ ([4].filter fun q => (0x10 : BitVec 24).getLsbD q != true) = [] ∧
      ([4].filter fun q => (0 : BitVec 24).getLsbD q != true) ≠ [] :=
  ⟨rfl, by decide, by decide, by decide⟩

/-- The bench with C0 at INACTIVE, its safe level ACTIVE and its window at its end, and C1 ACTIVE. -/
def breaking : State :=
  { (bench.setChan 0 (.output { anOutput 0 (some 1) .inactive (.settling 100) none none with
      cfg := ⟨[0], .activeHigh, .pushPull, .active, 50⟩ })).setChan 1
        (.output (anOutput 1 (some 1) .active .ready none none)) with
    interlocks := (Vector.replicate 12 none).setIfInBounds 0 (some ⟨1, 0, 0, .refuse⟩) }

theorem witness_FaultEntered :
    bench.outputAt 4 = some (anOutput 4 (some 2) .active (.settling 100) (some 100) none) ∧
      (anOutput 4 (some 2) .active (.settling 100) (some 100) none).mismatches 0 ≠ [] ∧
      ({ bench with time := { bench.time with elapsed := 99 } } : State).elapsed < 100 ∧
      (anOutput 0 (some 1) .inactive .ready none none).isFaulted = false ∧
      breaking.outputAt 1 = some (anOutput 1 (some 1) .active .ready none none) ∧
      breaking.interlock 0 = some ⟨1, 0, 0, .refuse⟩ ∧
      breaking.outputAt 0 = some { anOutput 0 (some 1) .inactive (.settling 100) none none with
        cfg := ⟨[0], .activeHigh, .pushPull, .active, 50⟩ } :=
  ⟨rfl, by decide, by decide, rfl, rfl, rfl, rfl⟩

/-- R85: C0, whose safe level is ACTIVE, enters FAULTED from INACTIVE and breaks C1. -/
theorem test_settleEnd_breaks_partner : ∃ t o, exec (.settleEnd 0 1) breaking = .next t ∧
    t.outputAt 1 = some o ∧ o.level = .inactive ∧ o.lastOff = some 100 ∧ t.pin 1 = .driving 1 .low :=
  ⟨_, _, rfl, rfl, rfl, rfl, by decide +kernel⟩

theorem witness_InputSampleQualifies :
    bench.inputAt 2 = some (anInput 2 (some 1) .high (some ⟨.low, 1, 80⟩)) ∧
      (anInput 2 (some 1) .high (some ⟨.low, 1, 80⟩)).nextSample ≤ bench.elapsed ∧
      bench.inputAt 7 = some (anInput 7 (some 5) .unknown none) ∧
      (anInput 2 (some 1) .high (some ⟨.low, 2, 80⟩)).qualify ≤ 2 + 1 :=
  ⟨rfl, by decide, rfl, by decide⟩

/-! ### Witnesses: plans -/

/-- A BIND record of C5 to P5, and an interlock record. -/
def bindRecord : List Byte := [0x10, 5, 0, 5, 0xFF, 0xFF, 0, 0]

/-- The bench with a build of session 1 for slot 7. -/
def building (records : List (List Byte)) : State :=
  { bench with build := some ⟨1, 7, [0x41], true, records⟩ }

theorem witness_BuildGrows :
    planBeginBody 7 [0x41] true [7, 1, 0x41, 1] ∧ (∀ k name auto, ¬planBeginBody k name auto [7, 0, 1]) ∧
      bench.build = none ∧ (∀ b, bench.build = some b → b.owner ≠ 1) ∧
      (∀ b, (building []).build = some b → b.owner ≠ 2) ∧
      (PlanRecord.bind 5 (.output ⟨[5], .activeHigh, .pushPull, .inactive, 50⟩)).recordBytes bindRecord ∧
      (building []).build.isSome = true ∧ recordSize (field bindRecord 0 1) = bindRecord.length ∧
      (readRecord bindRecord).isSome = true ∧ ([0, 0].Pairwise (· ≤ ·)) ∧
      readRecord [0x10, 32, 0, 5, 0xFF, 0xFF, 0, 0] = none ∧
      (served (building []) .service 0x49 bindRecord).receives .a 1 (aHost .service)
        ⟨1, 5, 0x49, bindRecord⟩ [] 0x49 := by
  refine ⟨⟨by decide, by decide, by decide, by decide, rfl⟩, ?_, rfl, ?_, ?_,
    (readRecord_eq_some _ _ (by decide +kernel)).mp (by decide +kernel), rfl, by decide +kernel, by decide +kernel,
    by decide, by decide +kernel, served_receives _ _ _ _ rfl rfl⟩
  · intro k name auto h
    have e : readPlanBegin [7, 0, 1] = none := by decide +kernel
    rw [(readPlanBegin_eq_some ..).mpr h] at e
    cases e
  · intro b h
    cases h
  · intro b h
    cases h
    decide

theorem witness_StoreOperationsBegin :
    (served (building [bindRecord]) .service 0x4B []).receives .a 1 (aHost .service) ⟨1, 5, 0x4B, []⟩ [] 0x4B ∧
      bench.store = .idle ∧ bench.supply = .normal ∧
      (served bench .service 0x4C [0]).receives .a 1 (aHost .service) ⟨1, 5, 0x4C, [0]⟩ [] 0x4C ∧
      (served bench .operator 0x4E [0, 0]).receives .a 1 (aHost .operator) ⟨1, 5, 0x4E, [0, 0]⟩ [] 0x4E ∧
      (bench.slot 0).state = .valid ∧ (bench.slot 7).state ≠ .valid ∧
      (∀ b, bench.build = some b → b.owner ≠ 1) ∧
      (served bench .service 0x4B [1]).receives .a 1 (aHost .service) ⟨1, 5, 0x4B, [1]⟩ [] 0x4B :=
  ⟨served_receives _ _ _ _ rfl rfl, rfl, rfl, bench_receives _ _ _, bench_receives _ _ _, rfl, by decide,
    fun b h => (by cases h), bench_receives _ _ _⟩

theorem witness_StoreOperationsEnd :
    ({ bench with store := .commitErasing 1 (some 1) [] } : State).store = .commitErasing 1 (some 1) [] ∧
      ({ bench with store := .commitProgramming 1 none bindRecord } : State).store =
        .commitProgramming 1 none bindRecord ∧ bindRecord ≠ [] ∧ ([] : List Byte) ≠ bindRecord ∧
      ({ bench with store := .erasing 1 none } : State).store = .erasing 1 none ∧
      bench.supply = .normal ∧ ({ bench with supply := .low } : State).supply = .low :=
  ⟨rfl, rfl, by decide, by decide, rfl, rfl, rfl⟩

theorem witness_ReadCompletes :
    [bindRecord].map readRecord =
        [PlanRecord.bind 5 (.output ⟨[5], .activeHigh, .pushPull, .inactive, 50⟩)].map some ∧
      bindRecord ≠ [] ∧ recordSize (field bindRecord 0 1) = bindRecord.length ∧
      recordSize (field [0x44] 0 1) = 0 ∧ [0x10, 5].length < recordSize (field [0x10, 5] 0 1) ∧
      ({ bench with store := .reading 0 (some 1) .now } : State).store = .reading 0 (some 1) .now ∧
      ({ bench with store := .reading 0 none .now } : State).store = .reading 0 none .now ∧
      ({ bench with store := .reading 0 (some 5) (.after 1) } : State).pairsKept ∧
      (bench.slot 0).contents = [] ∧ (bench.slot 0).check = some (crc32 []) ∧
      (bench.slot 0).check ≠ some (crc32 [0]) := by
  refine ⟨by decide +kernel, by decide, by decide +kernel, by decide +kernel, by decide +kernel, rfl, rfl,
    bench_pairsKept, rfl, rfl, by decide +kernel⟩

/-- R178: a BIND of a bound channel with other pins fails as record 0, with ALREADY_BOUND. -/
theorem test_readCompletion_judges :
    bench.recordJudged 1 (.bind 0 (.input 9 1 2)) (some .alreadyBound) ∧
      State.runPlan 1 100 0 [.bind 0 (.input 9 1 2)] bench = .error (0, .alreadyBound) := by
  refine ⟨⟨fun h => absurd h (by decide), fun _ => ⟨fun _ => rfl, ?_⟩⟩, rfl⟩
  rintro ⟨i, h, -⟩
  cases h

/-- R159, R177: bytes that match the check leave the slot VALID, whatever they hold. -/
theorem test_readCompletion_keeps_valid : ∃ t, exec (.readCompletion none)
      ({ bench with store := .reading 0 none .now }.setSlot 0
        ⟨.valid, some [0x41], true, 1, 1, some (crc32 [0]), [0]⟩) = .next t ∧
    (t.slot 0).state = .valid ∧ t.store = .idle :=
  ⟨_, rfl, by decide +kernel, by decide +kernel⟩

/-! ### Witnesses: ports and resets -/

theorem witness_DeviceResetAccepted :
    (served bench .service 0x50 []).receives .a 1 (aHost .service) ⟨1, 5, 0x50, []⟩ [] 0x50 ∧
      bench.store = .idle ∧
      ({ bench with deviceReset := some ⟨.b, 100⟩ } : State).deviceReset = some ⟨.b, 100⟩ ∧
      100 ≤ bench.elapsed :=
  ⟨bench_receives _ _ _, rfl, rfl, by decide⟩

theorem witness_ResetsClear :
    ({ bench with sendingA := some ⟨⟨1, 5, 0xD0, [0]⟩, true⟩ } : State).sendingA =
        some ⟨⟨1, 5, 0xD0, [0]⟩, true⟩ ∧
      ({ bench with reading := some ⟨[6, 1], true, false⟩ } : State).reading = some ⟨[6, 1], true, false⟩ ∧
      bench.sendingA = none ∧ bench.reading = none := ⟨rfl, rfl, rfl, rfl⟩

theorem witness_PortAReceives :
    bench.rxA.phase = .hunt ∧ (List.replicate 248 (0 : Byte)).length ≤ 248 ∧ bench.linkA.fifo.length < 4 ∧
      (4 : Byte).toNat < 5 ∧ 253 < (254 : Byte).toNat ∧
      ([0, 0, 0, 0, 0] : List Byte).drop 3 ≠ leBytes 2 (crc16 (5 :: [0, 0, 0, 0, 0].take 3)).toNat ∧
      ({ bench with rxA := ⟨.header, 79⟩ } : State).rxA.lastByte + 20 < bench.elapsed ∧
      bench.elapsed ≤ ({ bench with rxA := ⟨.header, 80⟩ } : State).rxA.lastByte + 20 ∧
      ({ bench with rxA := ⟨.body 5 [1, 2, 3], 80⟩ } : State).rxA.phase = .body 5 [1, 2, 3] ∧
      [1, 2, 3].length + 1 < 5 ∧ (⟨0xA6, true⟩ : RxByte).value ≠ 0xA7 ∧ (⟨0xA7, false⟩ : RxByte).stopOk = false := by
  refine ⟨rfl, Nat.le_of_eq List.length_replicate, by decide, by decide, by decide, by decide +kernel,
    by decide, by decide, rfl, by decide, by decide, rfl⟩

/-- The bench with a report to send to session 1, and one sent reply. -/
def reporting : State := bench.setReportQueue 1 someReports

theorem witness_PortATransmits :
    reporting.sendingA = none ∧ reporting.linkA.replies = [] ∧ reporting.deviceReset = none ∧
      1 = (reporting.linkA.lastServed + 0) % 4 + 1 ∧ (reporting.routed .a 1).isSome = true ∧
      someReports.sent < 8 ∧
      (reporting.reportQueue 1).records[2]? = some ⟨1, 0, 3, .sessionNotice 2⟩ ∧
      ({ bench with sendingA := some ⟨⟨1, 5, 0xD0, [0]⟩, true⟩ } : State).sendingA =
        some ⟨⟨1, 5, 0xD0, [0]⟩, true⟩ :=
  ⟨rfl, rfl, rfl, by decide, rfl, by decide, rfl, rfl⟩

/-- The bench with a report to send to session 2, of Port B. -/
def reportingB : State := bench.setReportQueue 2 someReports

theorem witness_PortBTransacts :
    bench.reading = none ∧ bench.linkB.fifo.length < 4 ∧ bench.outboundCount = 0 ∧
      ({ bench with
          reading := some ⟨(⟨1, 5, 0x85, [0]⟩ : Frame).bytes, true, false⟩
          offered := some ⟨⟨1, 5, 0x85, [0]⟩, false⟩ } : State).offered = some ⟨⟨1, 5, 0x85, [0]⟩, false⟩ ∧
      (⟨1, 5, 0x85, [0]⟩ : Frame).bytes.length = 7 ∧
      reportingB.offered = none ∧ reportingB.linkB.replies = [] ∧ reportingB.deviceReset = none ∧
      (∀ i, i < 1 → reportingB.readyOn .b ((reportingB.linkB.lastServed + i) % 4 + 1) = false) ∧
      2 = (reportingB.linkB.lastServed + 1) % 4 + 1 ∧ (reportingB.routed .b 2).isSome = true ∧
      someReports.sent < 8 ∧ (reportingB.reportQueue 2).records[2]? = some ⟨1, 0, 3, .sessionNotice 2⟩ ∧
      ({ bench with reading := some ⟨[0x00], false, false⟩ } : State).reading = some ⟨[0x00], false, false⟩ ∧
      ({ bench with reading := some ⟨[6, 1], true, true⟩ } : State).reading = some ⟨[6, 1], true, true⟩ := by
  refine ⟨rfl, by decide, by decide, rfl, by decide +kernel, rfl, rfl, rfl, by decide, by decide, rfl, by decide,
    rfl, rfl, rfl⟩

/-- R185: with a report ready for session 2 the count is 1 and ATTN_N asserted; with none, 0 and released. -/
theorem test_level_outbound :
    reportingB.outboundCount = 1 ∧ reportingB.attnAsserted = true ∧ bench.attnAsserted = false ∧
      ({ reportingB with deviceReset := some ⟨.a, 200⟩ } : State).outboundCount = 0 := by
  decide

/-- R185, R190: the zero-length marker, and a READ cut after two of its bytes. -/
theorem test_readEnd_fills :
    (∃ t, exec (.readEnd 3 3) { bench with reading := some ⟨[0x00], false, false⟩ } = .next t ∧
      t.miso = [0x00, 0x00, 0xFF, 0xFF]) ∧
    ∃ t, exec (.readEnd 4 2) { bench with reading := some ⟨[6, 1, 2, 3], true, true⟩ } = .next t ∧
      t.miso = [0x00, 6, 1, 0xFF, 0xFF] :=
  ⟨⟨_, rfl, by decide⟩, _, rfl, by decide⟩

/-! ### Witnesses: the laws -/

theorem witness_StopLawKept :
    bench.stop.lawful ∧ step { bench with pending := [.tick] } =
      .next { bench with time := bench.time.advance } := ⟨bench_stop_lawful, rfl⟩

theorem witness_PairsStayKept :
    ({ flying 0 .active with pending := [.actionDrive] } : State).pairsKept ∧
      ∃ t, step { flying 0 .active with pending := [.actionDrive] } = .next t :=
  ⟨bench_pairsKept, _, rfl⟩

/-- C0 becomes ACTIVE at 100, exactly the dead time of 10 after C1 became INACTIVE. -/
theorem witness_DeadTimeKept :
    ({ flying 0 .active with pending := [.actionDrive] } : State).pairsKept ∧
      ({ flying 0 .active with pending := [.actionDrive] } : State).lastOffPast ∧
      ∃ t ox, step { flying 0 .active with pending := [.actionDrive] } = .next t ∧
        t.interlock 0 = some ⟨0, 1, 10, .refuse⟩ ∧ t.outputAt 0 = some ox ∧ ox.level = .active :=
  ⟨bench_pairsKept, bench_lastOffPast, _, _, rfl, rfl, rfl, rfl⟩

theorem witness_PinsStayAgreed :
    State.reset.pinsAgree ∧ ∃ t, step { State.reset with pending := [.tick] } = .next t := by
  have none1 : ∀ c, State.reset.chan c = .unbound := fun c => tget_replicate _ _ _
  have none2 : ∀ q, State.reset.pin q = .isolated := fun q => tget_replicate _ _ _
  refine ⟨⟨?_, ?_, ?_⟩, _, rfl⟩
  · intro p c x
    simp [none2, State.outputAt, none1]
  · intro p c
    simp [none2, State.inputAt, none1]
  · intro c o h
    simp [State.outputAt, none1] at h

theorem witness_QueueLawKept :
    ({ bench with pending := [.entryDue] } : State).queueLawful ∧
      ∃ t, step { bench with pending := [.entryDue] } = .next t :=
  ⟨bench_queueLawful, _, rfl⟩

theorem bench_resetLawful : bench.resetLawful := by
  refine ⟨fun h => absurd h (by decide), fun h => absurd h (by decide), ?_⟩
  intro f hf h
  have links : bench.linkA.replies = [] ∧ bench.linkB.replies = [] ∧ bench.sendingA = none ∧
      bench.offered = none := ⟨rfl, rfl, rfl, rfl⟩
  simp [links] at h

/-- The bench without C7, which session 5 would own. -/
def ownedBench : State := bench.setChan 7 .unbound

theorem ownedBench_lawful : ownedBench.ownershipLawful := by
  have trig : ∀ t, t < 16 → ∀ r ∈ ownedBench.trigger t,
      (ownedBench.session r.owner).live = true ∧ (ownedBench.inputAt r.spec.source).isSome = true := by decide
  have owners : ∀ c, c < 32 → ∀ m ∈ (ownedBench.chan c).owner, (ownedBench.session m).live = true := by decide
  have subs : ∀ c, c < 32 → ∀ i ∈ ownedBench.inputAt c, i.subscribers = [] := by decide
  refine ⟨?_, ?_, ?_, ?_, ?_, ?_, ?_⟩
  · intro e he
    have : e = anEntry .set none none ∨ e = aTemplate := by simpa [ownedBench, bench] using he
    rcases this with rfl | rfl <;> exact ⟨rfl, ⟨_, rfl, rfl⟩, fun g hg => by cases hg⟩
  · intro t r h
    have : t < 16 := by
      by_contra hc
      rw [State.trigger, tget_out _ _ _ (by omega)] at h
      cases h
    exact trig t this r h
  · intro c m h
    exact owners c (ownedBench.lt_of_bound (by intro hc; rw [hc] at h; cases h)) m h
  · intro c i m h hm
    rw [subs c (ownedBench.lt_of_bound (by simp [State.chan_of_inputAt h])) i h] at hm
    cases hm
  · intro b h
    cases h
  · intro m h
    cases h
  · intro h
    cases h

theorem witness_EntriesStayOwned :
    bench.sessionsLawful ∧ (∀ m, bench.store.session? = some m → (bench.session m).live = true) ∧
      (∀ e ∈ bench.queue, bench.entryLawful e) ∧ ownedBench.sessionsLawful ∧ ownedBench.resetLawful ∧
      ownedBench.ownershipLawful ∧ ∃ t, step { ownedBench with pending := [.entryDue] } = .next t := by
  refine ⟨witness_bench_sessionsLawful, ?_, ?_, witness_bench_sessionsLawful, bench_resetLawful,
    ownedBench_lawful, _, rfl⟩
  · intro m h
    cases h
  · intro e he
    have : e = anEntry .set none none ∨ e = aTemplate := by simpa [bench] using he
    rcases this with rfl | rfl <;> exact ⟨rfl, ⟨_, rfl, rfl⟩, fun g hg => by cases hg⟩

theorem witness_LimitsKept :
    State.reset.time.lawful ∧ bench.lastOffPast ∧ bench.linkA.lawful ∧ bench.linkB.lawful ∧
      State.reset.reportsLawful := by
  refine ⟨⟨by decide, by decide, by decide, by decide, ?_⟩, bench_lastOffPast,
    by unfold Link.lawful; decide, by unfold Link.lawful; decide, ?_, ?_, rfl⟩
  · intro r h
    cases h
  · intro n
    have : State.reset.reportQueue n = ReportQueue.fresh := by
      unfold State.reportQueue
      split
      · rfl
      · exact tget_replicate _ _ _
    rw [this]
    refine ⟨by decide, by decide, by decide, by decide, by decide, ?_⟩
    intro i r h
    simp [ReportQueue.fresh] at h
  · intro n _
    unfold State.reportQueue
    split
    · rfl
    · exact tget_replicate _ _ _

theorem witness_StoreLawKept :
    bench.stop.lawful ∧ bench.resetLawful ∧ bench.storeLawful := by
  refine ⟨bench_stop_lawful, bench_resetLawful, ?_⟩
  · have table : ∀ k, k < 8 →
        bench.slot k = Slot.factory ∨
          k = 0 ∧ bench.slot k = ⟨.valid, some [0x41], true, 1, 0, some (crc32 []), []⟩ := by
      intro k hk
      have : k = 0 ∨ k = 1 ∨ k = 2 ∨ k = 3 ∨ k = 4 ∨ k = 5 ∨ k = 6 ∨ k = 7 := by omega
      rcases this with rfl | rfl | rfl | rfl | rfl | rfl | rfl | rfl
      · exact .inr ⟨rfl, rfl⟩
      all_goals exact .inl rfl
    intro k hk
    rcases table k hk with h | ⟨rfl, h⟩
    · refine ⟨?_, ?_⟩
      · show (bench.slot k).state ≠ _ ∧ (bench.slot k).state ≠ _
        rw [h]
        decide
      · rw [h]
        unfold Slot.lawful
        decide
    · refine ⟨?_, ?_⟩
      · show (bench.slot 0).state ≠ _ ∧ (bench.slot 0).state ≠ _
        rw [h]
        decide
      · rw [h]
        exact ⟨fun _ => rfl, fun x => absurd rfl x, fun x => (by cases x), by decide⟩

end Sys2Proof.Machine
end

section
/-!
Device time, trims, report queues and ports: what keeps them within their limits (R2, R9, R10, R143 to R148, R183 to
R189), operation by operation, and the statement LimitsKept.
-/

namespace Sys2Proof.Machine

/-! ### Reading after writing, for every number -/

theorem State.session_setSession (s : State) (n x : Nat) (r : Session) :
    (s.setSession n r).session x = if x = n ∧ 1 ≤ n ∧ n ≤ 5 then r else s.session x := by
  split
  · rename_i h
    obtain ⟨rfl, h1, h5⟩ := h
    exact s.session_setSession_same x r h1 h5
  · rename_i h
    by_cases e : x = n
    · subst e
      have out : x = 0 ∨ 5 < x := by omega
      rw [State.session_free_out _ _ out, State.session_free_out _ _ out]
    · exact s.session_setSession_ne n x r (Ne.symm e)

theorem State.reportQueue_fresh_out (s : State) (n : Nat) (h : n = 0 ∨ 5 < n) :
    s.reportQueue n = ReportQueue.fresh := by
  unfold State.reportQueue
  split
  · rfl
  · exact tget_out _ _ _ (by omega)

theorem State.reportQueue_setReportQueue (s : State) (n x : Nat) (q : ReportQueue) :
    (s.setReportQueue n q).reportQueue x = if x = n ∧ 1 ≤ n ∧ n ≤ 5 then q else s.reportQueue x := by
  split
  · rename_i h
    obtain ⟨rfl, h1, h5⟩ := h
    exact s.reportQueue_setReportQueue_same x q h1 h5
  · rename_i h
    by_cases e : x = n
    · subst e
      have out : x = 0 ∨ 5 < x := by omega
      rw [State.reportQueue_fresh_out _ _ out, State.reportQueue_fresh_out _ _ out]
    · exact s.reportQueue_setReportQueue_ne n x q (Ne.symm e)

theorem State.chan_setChan (s : State) (c x : Nat) (r : Channel) :
    (s.setChan c r).chan x = if c = x ∧ x < 32 then r else s.chan x := by
  split
  · rename_i h
    obtain ⟨rfl, h⟩ := h
    exact s.chan_setChan_same c r h
  · rename_i h
    by_cases e : c = x
    · subst e
      rw [State.chan_out _ _ (by omega), State.chan_out _ _ (by omega)]
    · exact s.chan_setChan_ne c x r e

/-! ### Report queues -/

theorem ReportQueue.fresh_lawful : ReportQueue.fresh.lawful := by
  simp [ReportQueue.lawful, ReportQueue.fresh]

/-- A record appended at the next sequence keeps the queue numbered without a gap (R145). -/
theorem ReportQueue.append_lawful {q : ReportQueue} (h : q.lawful) (room : q.records.length < Config.reportCapacity)
    (time : Nat) (body : ReportBody) :
    ReportQueue.lawful
      { q with
        records := q.records ++ [⟨q.next, q.missed, time, body⟩]
        next := (q.next + 1) % 65536
        missed := 0 } := by
  obtain ⟨hcap, hwin, hsent, hmissed, hnext, hnum⟩ := h
  refine ⟨by simpa using room, hwin, by simp; omega, by simp, Nat.mod_lt _ (by decide), ?_⟩
  intro i r hr
  rcases Nat.lt_or_ge i q.records.length with hi | hi
  · simp only [List.getElem?_append_left hi] at hr
    obtain ⟨hseq, hm⟩ := hnum i r hr
    refine ⟨?_, hm⟩
    simp only [List.length_append, List.length_singleton]
    omega
  · simp only [List.getElem?_append_right hi, List.getElem?_singleton] at hr
    split at hr
    · cases hr
      simp only [List.length_append, List.length_singleton]
      exact ⟨by omega, hmissed⟩
    · cases hr

/-- A queue without its oldest records is numbered as before (R149). -/
theorem ReportQueue.drop_lawful {q : ReportQueue} (h : q.lawful) (k : Nat) : (q.drop k).lawful := by
  obtain ⟨hcap, hwin, hsent, hmissed, hnext, hnum⟩ := h
  simp only [ReportQueue.lawful, ReportQueue.drop, List.length_drop, List.getElem?_drop]
  refine ⟨by omega, by omega, by omega, hmissed, hnext, fun i r hr => ?_⟩
  obtain ⟨hseq, hm⟩ := hnum (k + i) r hr
  refine ⟨?_, hm⟩
  rw [← hseq, Nat.sub_sub]

/-- Fewer records sent, or one more where the queue is ready (R146, R151). -/
theorem ReportQueue.sent_lawful {q : ReportQueue} (h : q.lawful) {k : Nat} (hw : k ≤ Config.reportWindow)
    (hk : k ≤ q.records.length) : ReportQueue.lawful { q with sent := k } := by
  obtain ⟨hcap, -, -, hmissed, hnext, hnum⟩ := h
  exact ⟨hcap, hw, hk, hmissed, hnext, hnum⟩

theorem ReportQueue.missed_lawful {q : ReportQueue} (h : q.lawful) {k : Nat} (hk : k ≤ 255) :
    ReportQueue.lawful { q with missed := k } := by
  obtain ⟨hcap, hwin, hsent, -, hnext, hnum⟩ := h
  exact ⟨hcap, hwin, hsent, hk, hnext, hnum⟩

/-! ### Last-off times -/

/-- The last-off time of the channel, if it has one, does not lie after `now` (R21). -/
def Channel.offBy (r : Channel) (now : Nat) : Prop :=
  match r with
  | .output o => ∀ k, o.lastOff = some k → k ≤ now
  | _ => True

theorem State.lastOffPast_iff (s : State) : s.lastOffPast ↔ ∀ c, (s.chan c).offBy s.now := by
  refine forall_congr' fun c => ?_
  unfold State.outputAt Channel.offBy
  cases s.chan c with
  | output o => exact ⟨fun h k => h o k rfl, fun h o' k e => by cases e; exact h k⟩
  | _ => simp

theorem Output.lastOffAfter_le {o : Output} {now : Nat} (h : (Channel.output o).offBy now) (l : Level) :
    ∀ k, o.lastOffAfter l now = some k → k ≤ now := by
  intro k hk
  unfold Output.lastOffAfter at hk
  split at hk
  · cases hk
    exact Nat.le_refl _
  · exact h k hk

/-! ### Work that stays within the limits -/

/-- From `s` to `t` no law of LimitsKept is lost, the ports stand as they are, and no command is queued and no tick
counted. Everything between the arrival of a request and its reply does this. -/
structure State.keepsLimits (s t : State) : Prop where
  pending : t.pending = s.pending
  elapsed : t.elapsed = s.elapsed
  link : ∀ p, t.link p = s.link p
  time : s.time.lawful → t.time.lawful
  lastOff : s.lastOffPast → t.lastOffPast
  reports : s.reportsLawful → t.reportsLawful

@[refl] theorem State.keepsLimits.refl (s : State) : s.keepsLimits s :=
  ⟨rfl, rfl, fun _ => rfl, id, id, id⟩

@[trans] theorem State.keepsLimits.trans {s t u : State} (h : s.keepsLimits t) (k : t.keepsLimits u) :
    s.keepsLimits u :=
  ⟨k.pending.trans h.pending, k.elapsed.trans h.elapsed, fun p => (k.link p).trans (h.link p),
    k.time ∘ h.time, k.lastOff ∘ h.lastOff, k.reports ∘ h.reports⟩

theorem State.reportsLawful_congr {s t : State} (hs : t.sessions = s.sessions) (hr : t.reports = s.reports) :
    t.reportsLawful ↔ s.reportsLawful := by
  simp only [State.reportsLawful, State.reportQueue, State.session, hs, hr]

theorem State.link_congr {s t : State} (ha : t.linkA = s.linkA) (hb : t.linkB = s.linkB) (p : Port) :
    t.link p = s.link p := by
  cases p
  · exact ha
  · exact hb

/-- Work that leaves time, ports, channels, sessions and report queues as they are. -/
theorem State.keepsLimits.of_same {s t : State} (ht : t.time = s.time := by rfl)
    (hp : t.pending = s.pending := by rfl) (ha : t.linkA = s.linkA := by rfl) (hb : t.linkB = s.linkB := by rfl)
    (hc : t.channels = s.channels := by rfl) (hs : t.sessions = s.sessions := by rfl)
    (hr : t.reports = s.reports := by rfl) : s.keepsLimits t where
  pending := hp
  elapsed := congrArg Timebase.elapsed ht
  link := State.link_congr ha hb
  time := by rw [ht]; exact id
  lastOff := by
    simp only [State.lastOffPast, State.outputAt, State.chan, State.now, hc, ht]
    exact id
  reports := (State.reportsLawful_congr hs hr).2

/-- Work that writes channels, none with a last-off time after now. -/
theorem State.keepsLimits.of_channels {s t : State} (h : s.lastOffPast → ∀ c, (t.chan c).offBy s.now)
    (ht : t.time = s.time := by rfl) (hp : t.pending = s.pending := by rfl) (ha : t.linkA = s.linkA := by rfl)
    (hb : t.linkB = s.linkB := by rfl) (hs : t.sessions = s.sessions := by rfl)
    (hr : t.reports = s.reports := by rfl) : s.keepsLimits t where
  pending := hp
  elapsed := congrArg Timebase.elapsed ht
  link := State.link_congr ha hb
  time := by rw [ht]; exact id
  lastOff := by
    intro hl
    rw [State.lastOffPast_iff, State.now, ht]
    exact h hl
  reports := (State.reportsLawful_congr hs hr).2

theorem State.keepsLimits.foldl {α : Type} {f : State → α → State} (hf : ∀ (s : State) a, s.keepsLimits (f s a)) (l : List α)
    (s : State) : s.keepsLimits (l.foldl f s) := by
  induction l generalizing s with
  | nil => exact .refl s
  | cons a l ih => exact (hf s a).trans (ih (f s a))

/-! ### Sessions and report queues -/

/-- A session record is written: only a session that becomes FREE needs an empty report queue (R143). -/
theorem State.keepsLimits_setSession (s : State) (n : Nat) (r : Session)
    (h : r = .free → s.reportQueue n = ReportQueue.fresh) : s.keepsLimits (s.setSession n r) where
  pending := by simp
  elapsed := by simp
  link := by simp
  time := by simp
  lastOff := by simp [State.lastOffPast_iff]
  reports := by
    rintro ⟨hlaw, hfree, hlocal⟩
    refine ⟨by simpa using hlaw, fun m hm => ?_, by simpa using hlocal⟩
    rw [State.session_setSession] at hm
    rw [State.setSession_reportQueue]
    split at hm
    · rename_i e
      exact e.1 ▸ h hm
    · exact hfree m hm

theorem State.keepsLimits_setHost (s : State) (n : Nat) (h : HostSession) :
    s.keepsLimits (s.setSession n (.host h)) :=
  s.keepsLimits_setSession n _ fun e => nomatch e

/-- A report queue is written with a lawful one, empty for a FREE session and with none sent for LOCAL. -/
theorem State.keepsLimits_setReportQueue (s : State) (n : Nat) (q : ReportQueue)
    (h : s.reportsLawful → q.lawful ∧ (s.session n = .free → q = ReportQueue.fresh) ∧ (n = 5 → q.sent = 0)) :
    s.keepsLimits (s.setReportQueue n q) where
  pending := by simp
  elapsed := by simp
  link := by simp
  time := by simp
  lastOff := by simp [State.lastOffPast_iff]
  reports := by
    intro hs
    obtain ⟨hq, hqfree, hqlocal⟩ := h hs
    obtain ⟨hlaw, hfree, hlocal⟩ := hs
    refine ⟨fun m => ?_, fun m hm => ?_, ?_⟩ <;> rw [State.reportQueue_setReportQueue]
    · split
      · exact hq
      · exact hlaw m
    · rw [State.setReportQueue_session] at hm
      split
      · rename_i e
        exact hqfree (e.1 ▸ hm)
      · exact hfree m hm
    · split
      · rename_i e
        exact hqlocal e.1.symm
      · exact hlocal

theorem State.keepsLimits_freshQueue (s : State) (n : Nat) : s.keepsLimits (s.setReportQueue n ReportQueue.fresh) :=
  s.keepsLimits_setReportQueue n _ fun _ => ⟨ReportQueue.fresh_lawful, fun _ => rfl, fun _ => rfl⟩

/-- A report for a live session joins a queue with room, and is counted as missed by a full one (R145). -/
theorem State.keepsLimits_addReport (s : State) (n time : Nat) (body : ReportBody) :
    s.keepsLimits (s.addReport n time body) := by
  unfold State.addReport
  dsimp only
  split
  · rename_i live
    have notFree : s.session n ≠ .free := fun e => by simp [e, Session.live] at live
    split
    · exact s.keepsLimits_setReportQueue n _ fun ⟨hlaw, _, hlocal⟩ =>
        ⟨ReportQueue.missed_lawful (hlaw n) (Nat.min_le_right _ _), fun e => absurd e notFree, fun e => e ▸ hlocal⟩
    · rename_i room
      exact s.keepsLimits_setReportQueue n _ fun ⟨hlaw, _, hlocal⟩ =>
        ⟨ReportQueue.append_lawful (hlaw n) (Nat.lt_of_not_le room) time body, fun e => absurd e notFree,
          fun e => e ▸ hlocal⟩
  · exact .refl s

theorem State.keepsLimits_reportTo (s : State) (n : Option Nat) (body : ReportBody) :
    s.keepsLimits (s.reportTo n body) := by
  cases n with
  | none => exact .refl s
  | some m => exact s.keepsLimits_addReport m s.now body

theorem State.keepsLimits_reportStop (s : State) (change : StopChange) (byLine : Bool) (n : Nat)
    (first : Option Nat) : s.keepsLimits (s.reportStop change byLine n first) :=
  .foldl (fun t m => t.keepsLimits_addReport m _ _) _ s

/-! ### Outputs and inputs -/

theorem State.keepsLimits_setChan (s : State) (c : Nat) (r : Channel) (h : s.lastOffPast → r.offBy s.now) :
    s.keepsLimits (s.setChan c r) :=
  .of_channels fun hl x => by
    rw [State.chan_setChan]
    split
    · exact h hl
    · exact s.lastOffPast_iff.1 hl x

theorem State.keepsLimits_setInput (s : State) (c : Nat) (i : Input) : s.keepsLimits (s.setChan c (.input i)) :=
  s.keepsLimits_setChan c _ fun _ => trivial

theorem State.keepsLimits_setPins (s : State) (ps : List Nat) (r : PinRec) : s.keepsLimits (s.setPins ps r) := .of_same

theorem State.keepsLimits_putOutput (s : State) (c : Nat) (o : Output)
    (h : s.lastOffPast → (Channel.output o).offBy s.now) : s.keepsLimits (s.putOutput c o) :=
  (s.keepsLimits_setChan c _ h).trans (State.keepsLimits_setPins _ _ _)

/-- A drive sets a last-off time to now at the most (R21). -/
theorem State.keepsLimits_driveOutput (s : State) (c : Nat) (o : Output) (l : Level) (release : Option Nat)
    (h : s.lastOffPast → (Channel.output o).offBy s.now) : s.keepsLimits (s.driveOutput c o l release) :=
  s.keepsLimits_putOutput c _ fun hl => Output.lastOffAfter_le (h hl) l

theorem State.offBy_of_chan {s : State} {c : Nat} {r : Channel} (e : s.chan c = r) (hl : s.lastOffPast) :
    r.offBy s.now := e ▸ s.lastOffPast_iff.1 hl c

theorem State.keepsLimits_breakPartner (s : State) (y : Nat) : s.keepsLimits (s.breakPartner y) := by
  unfold State.breakPartner
  split
  · rename_i o e
    split
    · exact s.keepsLimits_driveOutput y o _ _ (State.offBy_of_chan e)
    · exact .refl s
  · exact .refl s

theorem State.keepsLimits_breakPartners (s : State) (x : Nat) : s.keepsLimits (s.breakPartners x) :=
  .foldl State.keepsLimits_breakPartner _ s

/-- An output is written after its partners have been broken, where they are (R26, R85). -/
theorem State.keepsLimits_breakThenPut (s : State) (c : Nat) (o : Output) (breaks : Prop) [Decidable breaks]
    (h : s.lastOffPast → (Channel.output o).offBy s.now) :
    s.keepsLimits ((if breaks then s.breakPartners c else s).putOutput c o) := by
  split
  · obtain ⟨_, _, e⟩ := s.breakPartners_frame c
    have kept := s.keepsLimits_breakPartners c
    have sameNow := s.now_breakPartners c
    rw [e] at kept sameNow ⊢
    exact .of_channels fun hl x => by
      rw [State.putOutput, State.setPins_chan, State.chan_setChan]
      split
      · exact h hl
      · exact sameNow ▸ (State.lastOffPast_iff _).1 (kept.lastOff hl) x
  · exact s.keepsLimits_putOutput c o h

/-- A drive to the safe level, with the partners that it breaks (R21, R23, R85). -/
theorem State.keepsLimits_driveSafe (s : State) (c : Nat) : s.keepsLimits (s.driveSafe c) := by
  unfold State.driveSafe
  split
  · rename_i o e
    split
    · exact .refl s
    · refine s.keepsLimits_breakThenPut c _ _ fun hl => ?_
      have sameNow : (if o.cfg.safe = .active ∧ o.level = .inactive then s.breakPartners c else s).now = s.now := by
        split
        · exact s.now_breakPartners c
        · rfl
      rw [sameNow]
      exact Output.lastOffAfter_le (State.offBy_of_chan e hl) _
  · exact .refl s

theorem State.keepsLimits_setHeld (s : State) (c : Nat) (held : Bool) : s.keepsLimits (s.setHeld c held) := by
  unfold State.setHeld
  split
  · rename_i o e
    exact s.keepsLimits_setChan c _ fun hl => (State.offBy_of_chan e hl : (Channel.output o).offBy s.now)
  · exact .refl s

end Sys2Proof.Machine
end

section
/-!
Occurrences, the overdue disposition, sessions and Stop Control stay within the limits of LimitsKept.
-/

namespace Sys2Proof.Machine

/-! ### Occurrences, verdicts and the overdue disposition -/

theorem State.keepsLimits_removeEntry (s : State) (adm : Nat) : s.keepsLimits (s.removeEntry adm) := .of_same

theorem State.keepsLimits_rephase (s : State) (e : Entry) (ph : Phase) : s.keepsLimits (s.rephase e ph) := .of_same

theorem State.keepsLimits_requeue (s : State) (e : Entry) : s.keepsLimits (s.requeue e) := .of_same

theorem State.keepsLimits_admitEntry (s : State) (n : Nat) (ph : Phase) (a : Action) (origin : Origin) :
    s.keepsLimits (s.admitEntry n ph a origin) := .of_same

theorem State.keepsLimits_passOver (s : State) : s.keepsLimits s.passOver := .of_same

theorem State.keepsLimits_repeatStep (s : State) (e : Entry) : s.keepsLimits (s.repeatStep e) := by
  unfold State.repeatStep
  split
  · exact s.keepsLimits_removeEntry e.adm
  · split
    · exact s.keepsLimits_requeue _
    · exact (s.keepsLimits_removeEntry e.adm).trans (State.keepsLimits_addReport _ _ _ _)

theorem State.keepsLimits_succeed (s : State) (e : Entry) (time : Nat) : s.keepsLimits (s.succeed e time) := by
  unfold State.succeed
  split
  · exact (s.keepsLimits_addReport _ _ _).trans (State.keepsLimits_repeatStep _ _)
  · exact s.keepsLimits_repeatStep e

theorem State.keepsLimits_failOccurrence (s : State) (e : Entry) (reason : FailReason) (time : Nat) :
    s.keepsLimits (s.failOccurrence e reason time) :=
  (s.keepsLimits_addReport _ _ _).trans (State.keepsLimits_repeatStep _ _)

theorem State.keepsLimits_deferral (s : State) (e : Entry) (broken : Option Nat) (ph : Phase) :
    s.keepsLimits ((s.breakFor broken).rephase e ph) := by
  cases broken with
  | none => exact s.keepsLimits_rephase e ph
  | some y => exact (s.keepsLimits_breakPartner y).trans (State.keepsLimits_rephase _ e ph)

theorem State.keepsLimits_applyVerdict (s : State) (e : Entry) (v : Verdict) : s.keepsLimits (s.applyVerdict e v) := by
  cases v with
  | fail reason => exact s.keepsLimits_failOccurrence e reason s.now
  | waitGuard k => exact s.keepsLimits_rephase e _
  | defer k broken => exact s.keepsLimits_deferral e broken _
  | drive l release => exact .of_same

theorem State.keepsLimits_driveAction (s : State) (f : InFlight) : s.keepsLimits (s.driveAction f) := by
  unfold State.driveAction
  split
  · rename_i o e
    split
    · exact .refl s
    · exact s.keepsLimits_driveOutput f.target o _ _ (State.offBy_of_chan e)
  · exact .refl s

theorem State.keepsLimits_settleDrive (s : State) (f : InFlight) : s.keepsLimits (s.settleDrive f) := by
  unfold State.settleDrive
  split
  · have driven := s.keepsLimits_driveAction f
    dsimp only
    split
    · exact driven.trans (State.keepsLimits_succeed _ _ _)
    · exact driven
  · exact .refl s
  all_goals
    split
    · exact s.keepsLimits_failOccurrence _ _ _
    · exact .refl s

theorem State.keepsLimits_applyVerdictNow (s : State) (e : Entry) (v : Verdict) :
    s.keepsLimits (s.applyVerdictNow e v) := by
  cases v with
  | fail reason => exact s.keepsLimits_failOccurrence e reason s.now
  | waitGuard k => exact s.keepsLimits_rephase e _
  | defer k broken => exact s.keepsLimits_deferral e broken _
  | drive l release => exact s.keepsLimits_settleDrive _

theorem State.keepsLimits_expire (s : State) (e : Entry) : s.keepsLimits (s.expire e) := by
  unfold State.expire
  dsimp only
  split
  · exact (s.keepsLimits_removeEntry _).trans (State.keepsLimits_addReport _ _ _ _)
  · split
    · exact (s.keepsLimits_requeue _).trans (State.keepsLimits_addReport _ _ _ _)
    · exact (s.keepsLimits_removeEntry _).trans (State.keepsLimits_addReport _ _ _ _)

theorem State.keepsLimits_disposeEntry (s : State) (e : Entry) : s.keepsLimits (s.disposeEntry e) := by
  have overdue : ∀ key, s.keepsLimits
      (if key < s.now then if e.act.carry then s.applyVerdictNow e (s.judge e) else s.expire e else s) := by
    intro key
    split
    · split
      · exact s.keepsLimits_applyVerdictNow e _
      · exact s.keepsLimits_expire e
    · exact .refl s
  unfold State.disposeEntry
  split
  · split
    · exact s.keepsLimits_failOccurrence e _ _
    · split
      · split
        · exact s.keepsLimits_applyVerdictNow e _
        · exact .refl s
      · exact .refl s
  · exact .refl s
  · exact overdue _
  · exact overdue _

theorem State.keepsLimits_visitOverdue (s : State) (adm : Nat) : s.keepsLimits (s.visitOverdue adm) := by
  unfold State.visitOverdue
  split
  · exact .refl s
  · split
    · split
      · exact .refl s
      · exact s.keepsLimits_disposeEntry _
    · exact s.keepsLimits_disposeEntry _

theorem State.keepsLimits_dispose (s : State) (owners : Nat → Bool) : s.keepsLimits (s.dispose owners) :=
  .foldl State.keepsLimits_visitOverdue _ s

/-! ### Sessions -/

theorem State.keepsLimits_returnSession (s : State) (n : Nat) (h : HostSession) :
    s.keepsLimits (s.returnSession n h) := by
  have opened := s.keepsLimits_setHost n { h with life := .opened (s.elapsed + h.interval) }
  have released := opened.trans
    (.foldl (fun (t : State) c => t.keepsLimits_setHeld c false) (s.heldOutputs n) _)
  have noticed := released.trans
    (State.keepsLimits_addReport _ n s.now (.sessionNotice (s.heldOutputs n).length))
  unfold State.returnSession
  dsimp only
  split
  · exact noticed
  · exact noticed.trans (State.keepsLimits_dispose _ _)

theorem State.keepsLimits_arrive (s : State) (n : Nat) (h : HostSession) : s.keepsLimits (s.arrive n h) := by
  unfold State.arrive
  split
  · exact s.keepsLimits_setHost n _
  · exact s.keepsLimits_returnSession n h

theorem State.keepsLimits_noteReply (s : State) (n seq : Nat) (r : Frame) (cached : Bool) :
    s.keepsLimits (s.noteReply n seq r cached) := by
  unfold State.noteReply
  split
  · exact s.keepsLimits_setHost n _
  · exact .refl s

/-- A change of every channel record that makes no last-off time later (R6, R131, R141). -/
theorem State.keepsLimits_mapChannels {s t : State} (g : Channel → Channel) (hg : ∀ r k, r.offBy k → (g r).offBy k)
    (unbound : g .unbound = .unbound) (hc : t.channels = s.channels.map g) (ht : t.time = s.time := by rfl)
    (hp : t.pending = s.pending := by rfl) (ha : t.linkA = s.linkA := by rfl) (hb : t.linkB = s.linkB := by rfl)
    (hs : t.sessions = s.sessions := by rfl) (hr : t.reports = s.reports := by rfl) : s.keepsLimits t := by
  refine .of_channels (fun hl c => ?_) ht hp ha hb hs hr
  have : t.chan c = g (s.chan c) := by
    rw [State.chan, hc]
    conv_lhs => rw [← unbound]
    exact tget_map g s.channels c .unbound
  rw [this]
  exact hg _ _ (s.lastOffPast_iff.1 hl c)

theorem Channel.disown_offBy (n : Nat) (r : Channel) (k : Nat) (h : r.offBy k) : (r.disown n).offBy k := by
  cases r with
  | unbound => trivial
  | input i => trivial
  | output o =>
    unfold Channel.disown
    dsimp only
    split <;> exact h

theorem Channel.takenOver_offBy (n : Nat) (r : Channel) (k : Nat) (h : r.offBy k) : (r.takenOver n).offBy k := by
  cases r <;> exact h

theorem State.keepsLimits_driveOwnedSafe (s : State) (n : Nat) : s.keepsLimits (s.driveOwnedSafe n) :=
  .foldl State.keepsLimits_driveSafe _ s

/-- A session whose report queue is discarded becomes FREE (R131, R141). -/
theorem State.keepsLimits_discardThenFree (s : State) (n : Nat) :
    s.keepsLimits ((s.setReportQueue n ReportQueue.fresh).setSession n .free) := by
  refine (s.keepsLimits_freshQueue n).trans (State.keepsLimits_setSession _ n .free fun _ => ?_)
  rw [State.reportQueue_setReportQueue]
  split
  · rfl
  · exact s.reportQueue_fresh_out n (by omega)

theorem State.keepsLimits_teardown (s : State) (n : Nat) : s.keepsLimits (s.teardown n) := by
  unfold State.teardown
  extract_lets s1 s2 s3
  have removed : s.keepsLimits s1 := .of_same
  have driven : s1.keepsLimits s2 := s1.keepsLimits_driveOwnedSafe n
  have disowned : s2.keepsLimits s3 :=
    State.keepsLimits_mapChannels (Channel.disown n) (Channel.disown_offBy n) rfl rfl
  exact ((removed.trans driven).trans disowned).trans (s3.keepsLimits_discardThenFree n)

theorem State.keepsLimits_takeOver (s : State) (n : Nat) : s.keepsLimits (s.takeOver n) := by
  unfold State.takeOver
  extract_lets s1
  have moved : s.keepsLimits s1 :=
    State.keepsLimits_mapChannels (Channel.takenOver n) (Channel.takenOver_offBy n) rfl rfl
  exact moved.trans (s1.keepsLimits_discardThenFree 5)

theorem State.keepsLimits_lapse (s : State) (n : Nat) (h : HostSession) : s.keepsLimits (s.lapse n h) := by
  unfold State.lapse
  extract_lets s1 owned
  have lapsed : s.keepsLimits s1 := (s.keepsLimits_setHost n _).trans (State.keepsLimits_passOver _)
  have driven : s1.keepsLimits (owned.foldl State.driveSafe s1) := .foldl State.keepsLimits_driveSafe owned s1
  exact (lapsed.trans driven).trans (.foldl (fun t c => t.keepsLimits_setHeld c true) owned _)

theorem Channel.claimed_offBy (n : Nat) (r : Channel) (k : Nat) (h : r.offBy k) : (r.claimed n).offBy k := by
  cases r <;> exact h

theorem State.keepsLimits_cancelClaimed (s : State) (e : Entry) : s.keepsLimits (s.cancelClaimed e) :=
  (s.keepsLimits_removeEntry e.adm).trans (State.keepsLimits_addReport _ _ _ _)

theorem State.keepsLimits_forceClaim (s : State) (c m n : Nat) : s.keepsLimits (s.forceClaim c m n) := by
  unfold State.forceClaim
  extract_lets gone s1 s2
  have cancelled : s.keepsLimits s1 :=
    .foldl State.keepsLimits_cancelClaimed gone s
  have claimed : s1.keepsLimits s2 :=
    s1.keepsLimits_setChan c _ fun hl => Channel.claimed_offBy n _ _ (State.offBy_of_chan rfl hl)
  exact (cancelled.trans claimed).trans (s2.keepsLimits_addReport _ _ _)

/-! ### Stop Control -/

theorem State.keepsLimits_withStop (s : State) (c : StopControl) : s.keepsLimits { s with stop := c } := .of_same

theorem State.keepsLimits_enterStopped (s : State) (byLine : Bool) (n : Nat) (first : Option Nat) :
    s.keepsLimits (s.enterStopped byLine n first) := by
  unfold State.enterStopped
  extract_lets cause s1 s2 raised s3
  have stopped : s.keepsLimits s1.passOver := (s.keepsLimits_withStop _).trans s1.keepsLimits_passOver
  have driven : s.keepsLimits s2 := stopped.trans (.foldl State.keepsLimits_driveSafe channelNumbers _)
  exact (driven.trans (s2.keepsLimits_withStop _)).trans (s3.keepsLimits_reportStop _ _ _ _)

theorem State.keepsLimits_addCause (s : State) (byLine : Bool) (n : Nat) (first : Option Nat) :
    s.keepsLimits (s.addCause byLine n first) :=
  (s.keepsLimits_withStop _).trans (State.keepsLimits_reportStop _ _ _ _ _)

theorem State.keepsLimits_haltBy (s : State) (n : Nat) : s.keepsLimits (s.haltBy n) := by
  unfold State.haltBy
  split
  · exact s.keepsLimits_enterStopped _ _ _
  · split
    · exact .refl s
    · exact s.keepsLimits_addCause _ _ _

theorem State.keepsLimits_resumeBy (s : State) (n : Nat) : s.keepsLimits (s.resumeBy n) := by
  unfold State.resumeBy
  extract_lets before s1 s2
  have reported : s1.keepsLimits s2 := s1.keepsLimits_reportStop _ _ _ _
  exact ((s.keepsLimits_withStop _).trans reported).trans (s2.keepsLimits_dispose _)

theorem State.keepsLimits_lineChange (s : State) (asserted : Bool) (first : Nat) :
    s.keepsLimits (s.lineChange asserted first) := by
  unfold State.lineChange
  split
  · split
    · exact s.keepsLimits_enterStopped _ _ _
    · exact s.keepsLimits_addCause _ _ _
  · exact (s.keepsLimits_withStop _).trans (State.keepsLimits_reportStop _ _ _ _ _)

theorem State.keepsLimits_withStore (s : State) (op : StoreOp) : s.keepsLimits { s with store := op } := .of_same

theorem State.keepsLimits_beginStartup (s : State) : s.keepsLimits s.beginStartup := by
  unfold State.beginStartup
  split
  · have created := s.keepsLimits_setSession 5 .localSession fun e => nomatch e
    exact (created.trans (State.keepsLimits_freshQueue _ 5)).trans (State.keepsLimits_withStore _ _)
  · exact .refl s

theorem State.keepsLimits_qualifyStop (s : State) (k : StopCandidate) : s.keepsLimits (s.qualifyStop k) := by
  unfold State.qualifyStop
  extract_lets firstTime before s1 s2
  have qualified : s.keepsLimits s1 := s.keepsLimits_withStop _
  have changed : s.keepsLimits s2 := by
    unfold s2
    split
    · exact qualified
    · exact qualified.trans (s1.keepsLimits_lineChange _ _)
  split
  · exact changed.trans s2.keepsLimits_beginStartup
  · exact changed

theorem State.keepsLimits_sampleStop (s : State) (asserted : Bool) : s.keepsLimits (s.sampleStop asserted) := by
  unfold State.sampleStop
  extract_lets before s1
  have sampled : s.keepsLimits s1 := s.keepsLimits_withStop _
  split
  · exact sampled.trans (s1.keepsLimits_withStop _)
  · split
    · exact sampled.trans (s1.keepsLimits_withStop _)
    · exact sampled.trans (s1.keepsLimits_qualifyStop _)

end Sys2Proof.Machine
end

section
/-!
The rule of every request stays within the limits of LimitsKept; TIME_SET and TIME_TRIM keep the Timebase in range
(R5, R6, R10).
-/

namespace Sys2Proof.Machine

/-! ### The rules of the requests -/

/-- The rule of a request stays within the limits, whatever the session, the body and the state. -/
def Service.keepsLimits (serve : Service) : Prop := ∀ n body (s : State), s.keepsLimits (serve n body s).1

theorem State.keepsLimits_asOperator (s : State) (n : Nat) {act : State × Answer} (h : s.keepsLimits act.1) :
    s.keepsLimits (asOperator s n act).1 := by
  unfold asOperator
  split
  · exact .refl s
  · exact h

theorem State.keepsLimits_asService (s : State) (n : Nat) (key : Bool) {act : State × Answer}
    (h : s.keepsLimits act.1) : s.keepsLimits (asService s n key act).1 := by
  unfold asService
  split
  · exact h
  · exact .refl s

theorem State.keepsLimits_emptyQuery (s : State) (body fields : List Byte) :
    s.keepsLimits (emptyQuery body s fields).1 := by
  unfold emptyQuery
  split <;> exact .refl s

theorem State.keepsLimits_withBuild (s : State) (n : Nat) (key : Bool) {act : Build → State × Answer}
    (h : ∀ b, s.keepsLimits (act b).1) : s.keepsLimits (withBuild s n key act).1 := by
  unfold withBuild
  split
  · exact .refl s
  split
  · exact .refl s
  split
  · exact .refl s
  split
  · exact .refl s
  · exact h _

theorem serveActionAdd_keepsLimits : Service.keepsLimits serveActionAdd := by
  intro n body s
  refine s.keepsLimits_asOperator n ?_
  split
  · exact .refl s
  split
  · split
    · exact .refl s
    split
    · exact .refl s
    split
    · exact .refl s
    split
    · exact .refl s
    · exact s.keepsLimits_admitEntry _ _ _ _
  · exact .refl s

theorem serveActionCancel_keepsLimits (key : Bool) : Service.keepsLimits (serveActionCancel key) := by
  intro n body s
  refine s.keepsLimits_asOperator n ?_
  split
  · exact .refl s
  split
  · exact .refl s
  split
  · exact .refl s
  · exact s.keepsLimits_removeEntry _

theorem serveGroupCancel_keepsLimits : Service.keepsLimits serveGroupCancel := by
  intro n body s
  refine s.keepsLimits_asOperator n ?_
  split
  · exact .refl s
  · exact .of_same

theorem serveQueueQuery_keepsLimits : Service.keepsLimits serveQueueQuery := by
  intro n body s
  unfold serveQueueQuery
  split <;> exact .refl s

theorem State.keepsLimits_bindChannel (s : State) (c n : Nat) (spec : BindSpec) :
    s.keepsLimits (s.bindChannel c n spec) := by
  cases spec with
  | output g => exact s.keepsLimits_driveOutput c _ _ _ fun _ k hk => nomatch hk
  | input pin interval qualify => exact (s.keepsLimits_setInput c _).trans (State.keepsLimits_setPins _ _ _)

theorem serveBind_keepsLimits : Service.keepsLimits serveBind := by
  intro n body s
  refine s.keepsLimits_asOperator n ?_
  split
  · exact .refl s
  split
  · exact .refl s
  split
  · exact .refl s
  · exact s.keepsLimits_bindChannel _ n _

theorem serveUnbind_keepsLimits (key : Bool) : Service.keepsLimits (serveUnbind key) := by
  intro n body s
  refine s.keepsLimits_asOperator n ?_
  split
  · exact .refl s
  split
  · exact .refl s
  split
  · exact .refl s
  split
  · exact .refl s
  · exact (s.keepsLimits_setPins _ _).trans (State.keepsLimits_setChan _ _ .unbound fun _ => trivial)

theorem serveClearFault_keepsLimits (key : Bool) : Service.keepsLimits (serveClearFault key) := by
  intro n body s
  refine s.keepsLimits_asOperator n ?_
  split
  · exact .refl s
  split
  · rename_i o e
    split
    · exact .refl s
    split
    · exact s.keepsLimits_driveOutput _ o _ _ (State.offBy_of_chan e)
    · exact .refl s
  · exact .refl s

theorem serveRequalify_keepsLimits : Service.keepsLimits serveRequalify := by
  intro n body s
  refine s.keepsLimits_asOperator n ?_
  split
  · exact .refl s
  split
  · split
    · exact s.keepsLimits_setInput _ _
    · exact .refl s
  · exact .refl s

theorem serveSubscribers_keepsLimits (change : List Nat → List Nat) (body : List Byte) (s : State) :
    s.keepsLimits (serveSubscribers change body s).1 := by
  unfold serveSubscribers
  split
  · exact .refl s
  split
  · exact s.keepsLimits_setInput _ _
  · exact .refl s

theorem serveChannelQuery_keepsLimits : Service.keepsLimits serveChannelQuery := by
  intro n body s
  unfold serveChannelQuery
  split <;> exact .refl s

theorem State.keepsLimits_setInterlock (s : State) (i : Nat) (r : Option Interlock) :
    s.keepsLimits (s.setInterlock i r) := .of_same

theorem serveInterlockSet_keepsLimits (key : Bool) : Service.keepsLimits (serveInterlockSet key) := by
  intro n body s
  refine s.keepsLimits_asOperator n ?_
  split
  · exact .refl s
  split
  · split
    · exact .refl s
    split
    · exact .refl s
    split
    · exact s.keepsLimits_setInterlock _ _
    · exact .refl s
  · exact .refl s

theorem serveInterlockClear_keepsLimits (key : Bool) : Service.keepsLimits (serveInterlockClear key) := by
  intro n body s
  refine s.keepsLimits_asService n key ?_
  split
  · exact .refl s
  · exact s.keepsLimits_setInterlock _ _

theorem servePlanBegin_keepsLimits (key : Bool) : Service.keepsLimits (servePlanBegin key) := by
  intro n body s
  refine s.keepsLimits_asService n key ?_
  split
  · exact .refl s
  split
  · exact .refl s
  · exact .of_same

theorem servePlanPut_keepsLimits (key : Bool) : Service.keepsLimits (servePlanPut key) := by
  intro n body s
  refine s.keepsLimits_withBuild n key fun b => ?_
  split
  · exact .refl s
  split
  · exact .refl s
  · exact .of_same

theorem servePlanAbandon_keepsLimits (key : Bool) : Service.keepsLimits (servePlanAbandon key) := by
  intro n body s
  refine s.keepsLimits_withBuild n key fun b => ?_
  split
  · exact .of_same
  · exact .refl s

theorem servePlanCommit_keepsLimits (key prot : Bool) : Service.keepsLimits (servePlanCommit key prot) := by
  intro n body s
  refine s.keepsLimits_withBuild n key fun b => ?_
  split
  · exact .refl s
  split
  · exact .refl s
  · exact .of_same

theorem servePlanErase_keepsLimits (key prot : Bool) : Service.keepsLimits (servePlanErase key prot) := by
  intro n body s
  refine s.keepsLimits_asService n key ?_
  split
  · exact .refl s
  split
  · exact .refl s
  · exact .of_same

theorem servePlanLoad_keepsLimits : Service.keepsLimits servePlanLoad := by
  intro n body s
  refine s.keepsLimits_asOperator n ?_
  split
  · exact .refl s
  split
  · exact .refl s
  split
  · exact .refl s
  · exact s.keepsLimits_withStore _

theorem serveDeviceReset_keepsLimits (p : Port) (key : Bool) : Service.keepsLimits (serveDeviceReset p key) := by
  intro n body s
  refine s.keepsLimits_asService n key ?_
  split
  · exact .refl s
  split
  · exact .refl s
  · exact .of_same

theorem serveOpen_keepsLimits (p : Port) (key : Bool) (body : List Byte) (s : State) :
    s.keepsLimits (serveOpen p key body s).1 := by
  unfold serveOpen
  split
  · exact .refl s
  split
  · exact .refl s
  split
  · exact .refl s
  split
  · exact .refl s
  split
  · exact .refl s
  · exact (s.keepsLimits_setHost _ _).trans (State.keepsLimits_freshQueue _ _)

theorem serveClose_keepsLimits : Service.keepsLimits serveClose := by
  intro n body s
  unfold serveClose
  split
  · exact s.keepsLimits_teardown n
  · exact .refl s

theorem Channel.withOwner_offBy (m : Option Nat) (r : Channel) (k : Nat) (h : r.offBy k) :
    (r.withOwner m).offBy k := by
  cases r <;> exact h

theorem State.keepsLimits_setOwner (s : State) (c : Nat) (m : Option Nat) :
    s.keepsLimits (s.setChan c ((s.chan c).withOwner m)) :=
  s.keepsLimits_setChan c _ fun hl => Channel.withOwner_offBy m _ _ (State.offBy_of_chan rfl hl)

theorem serveClaim_keepsLimits (key : Bool) : Service.keepsLimits (serveClaim key) := by
  intro n body s
  refine s.keepsLimits_asOperator n ?_
  split
  · exact .refl s
  split
  · exact .refl s
  split
  · exact s.keepsLimits_setOwner _ _
  split
  · exact .refl s
  split
  · exact .refl s
  split
  · exact s.keepsLimits_forceClaim _ _ n
  · exact .refl s

theorem serveRelease_keepsLimits : Service.keepsLimits serveRelease := by
  intro n body s
  refine s.keepsLimits_asOperator n ?_
  split
  · exact .refl s
  split
  · exact .refl s
  split
  · exact .refl s
  split
  · exact .refl s
  · exact s.keepsLimits_setOwner _ _

theorem serveTakeover_keepsLimits : Service.keepsLimits serveTakeover := by
  intro n body s
  refine s.keepsLimits_asOperator n ?_
  split
  · exact .refl s
  split
  · exact .refl s
  split
  · exact .refl s
  split
  · exact .refl s
  · exact s.keepsLimits_takeOver n

theorem State.keepsLimits_setTrigger (s : State) (t : Nat) (r : Option Trigger) : s.keepsLimits (s.setTrigger t r) :=
  .of_same

theorem serveTriggerSet_keepsLimits : Service.keepsLimits serveTriggerSet := by
  intro n body s
  refine s.keepsLimits_asOperator n ?_
  split
  · exact .refl s
  split
  · split
    · exact .refl s
    · exact s.keepsLimits_setTrigger _ _
  · exact .refl s

theorem serveTriggerClear_keepsLimits (key : Bool) : Service.keepsLimits (serveTriggerClear key) := by
  intro n body s
  refine s.keepsLimits_asOperator n ?_
  split
  · exact .refl s
  split
  · exact .refl s
  · exact s.keepsLimits_setTrigger _ _

theorem serveTriggerQuery_keepsLimits : Service.keepsLimits serveTriggerQuery := by
  intro n body s
  unfold serveTriggerQuery
  split <;> exact .refl s

theorem serveHalt_keepsLimits : Service.keepsLimits serveHalt := by
  intro n body s
  unfold serveHalt
  split
  · exact s.keepsLimits_haltBy n
  · exact .refl s

theorem serveResume_keepsLimits : Service.keepsLimits serveResume := by
  intro n body s
  refine s.keepsLimits_asOperator n ?_
  split
  · exact .refl s
  split
  · exact .refl s
  split
  · exact .refl s
  · exact s.keepsLimits_resumeBy n

/-- Reports are acknowledged only where some have been sent, so no empty queue is touched (R149). -/
theorem serveReportAck_keepsLimits : Service.keepsLimits serveReportAck := by
  intro n body s
  unfold serveReportAck
  split
  · exact .refl s
  dsimp only
  split
  · rename_i sent
    refine s.keepsLimits_setReportQueue n _ fun ⟨hlaw, hfree, hlocal⟩ =>
      ⟨ReportQueue.drop_lawful (hlaw n) _, fun e => ?_, fun e => ?_⟩
    · have none_sent : (s.reportQueue n).sent = 0 := by rw [hfree n e]; rfl
      exact absurd (none_sent ▸ sent) (Nat.not_lt_zero _)
    · simp [ReportQueue.drop, e, hlocal]
  split
  · exact .refl s
  · exact .refl s

theorem serveReportResend_keepsLimits : Service.keepsLimits serveReportResend := by
  intro n body s
  unfold serveReportResend
  split
  · exact s.keepsLimits_setReportQueue n _ fun ⟨hlaw, hfree, _⟩ =>
      ⟨ReportQueue.sent_lawful (hlaw n) (Nat.zero_le _) (Nat.zero_le _), fun e => by rw [hfree n e]; rfl, fun _ => rfl⟩
  · exact .refl s

/-! ### The rules that write the Timebase -/

theorem readTimeSet_eq {body : List Byte} (h : body.length = 6) : readTimeSet body = some (leNat body) := by
  rw [readTimeSet, if_pos h, field, List.drop_zero, ← h, List.take_length]

theorem readTimeSet_le {body : List Byte} {new : Nat} (h : readTimeSet body = some new) : new ≤ Config.maxTime := by
  have six : body.length = 6 := by
    unfold readTimeSet at h
    split at h
    · assumption
    · cases h
  rw [readTimeSet_eq six] at h
  cases h
  have bound := leNat_lt body
  rw [six] at bound
  exact Nat.le_of_lt_succ bound

theorem readTimeTrim_range {body : List Byte} {r : Trim} (h : readTimeTrim body = some r) :
    1 ≤ r.window ∧ r.value.natAbs ≤ 127 := by
  unfold readTimeTrim at h
  dsimp only at h
  split at h
  · rename_i inRange
    obtain ⟨-, low, window⟩ := inRange
    cases h
    have high : trimOf (field body 0 1) < 128 := BitVec.toInt_lt (x := toByte (field body 0 1))
    exact ⟨Nat.one_le_iff_ne_zero.2 window, show (trimOf (field body 0 1)).natAbs ≤ 127 by omega⟩
  · cases h

theorem serveTimeTrim_keepsLimits (key : Bool) : Service.keepsLimits (serveTimeTrim key) := by
  intro n body s
  refine s.keepsLimits_asService n key ?_
  split
  · exact .refl s
  · rename_i r e
    refine ⟨rfl, rfl, fun p => by cases p <;> rfl, ?_, id, id⟩
    rintro ⟨hdevice, hposition, hwindow, hvalue, -⟩
    refine ⟨hdevice, hposition, hwindow, hvalue, ?_⟩
    rintro _ ⟨⟩
    exact readTimeTrim_range e

/-- A last-off time that has passed lies before the new time once it is shifted with it (R6). -/
theorem shiftTime_le {old new t : Nat} (h : t ≤ old) : shiftTime old new t ≤ new := by
  unfold shiftTime clampTime
  omega

theorem Channel.shift_offBy {old new : Nat} {r : Channel} (h : r.offBy old) :
    (r.shift (shiftTime old new)).offBy new := by
  cases r with
  | unbound => trivial
  | input i => trivial
  | output o =>
    intro k hk
    obtain ⟨t, ht, rfl⟩ := Option.map_eq_some_iff.1 hk
    exact shiftTime_le (h t ht)

theorem State.setTime_chan (s : State) (new c : Nat) :
    (s.setTime new).chan c = (s.chan c).shift (shiftTime s.now new) :=
  tget_map (Channel.shift (shiftTime s.now new)) s.channels c .unbound

theorem State.keepsLimits_setTime (s : State) {new : Nat} (h : new ≤ Config.maxTime) :
    s.keepsLimits (s.setTime new) where
  pending := rfl
  elapsed := rfl
  link := fun p => by cases p <;> rfl
  time := fun ⟨_, hrest⟩ => ⟨h, hrest⟩
  lastOff := fun hl => (State.lastOffPast_iff _).2 fun c => by
    rw [State.setTime_chan]
    exact Channel.shift_offBy (s.lastOffPast_iff.1 hl c)
  reports := (State.reportsLawful_congr rfl rfl).2

theorem serveTimeSet_keepsLimits : Service.keepsLimits serveTimeSet := by
  intro n body s
  refine s.keepsLimits_asOperator n ?_
  split
  · exact .refl s
  · rename_i new e
    exact s.keepsLimits_setTime (readTimeSet_le e)

end Sys2Proof.Machine
end

section
/-!
Requests and their replies, resets, receivers and transmitters keep the laws of LimitsKept (R183 to R191).
-/

namespace Sys2Proof.Machine

/-! ### Whole commands -/

/-- From `s` to `t` no law of LimitsKept is lost, no command is queued and no tick counted. Every command but TICK
and HARD_RESET does this. -/
structure State.abides (s t : State) : Prop where
  pending : t.pending = s.pending
  elapsed : t.elapsed = s.elapsed
  time : s.time.lawful → t.time.lawful
  lastOff : s.lastOffPast → t.lastOffPast
  reports : s.reportsLawful → t.reportsLawful
  link : ∀ p, (s.link p).lawful → (t.link p).lawful

theorem State.keepsLimits.abides {s t : State} (h : s.keepsLimits t) : s.abides t :=
  ⟨h.pending, h.elapsed, h.time, h.lastOff, h.reports, fun p hp => by rw [h.link p]; exact hp⟩

@[refl] theorem State.abides.refl (s : State) : s.abides s := (State.keepsLimits.refl s).abides

@[trans] theorem State.abides.trans {s t u : State} (h : s.abides t) (k : t.abides u) : s.abides u :=
  ⟨k.pending.trans h.pending, k.elapsed.trans h.elapsed, k.time ∘ h.time, k.lastOff ∘ h.lastOff,
    k.reports ∘ h.reports, fun p => k.link p ∘ h.link p⟩

/-- The command ends in a next state that abides. -/
def State.answersWithin (s : State) (o : Host.Outcome State Fault Refusal) : Prop := ∃ t, o = .next t ∧ s.abides t

theorem State.answersWithin_next {s t : State} (h : s.abides t) : s.answersWithin (.next t) := ⟨t, rfl, h⟩

theorem State.answersWithin_idle (s : State) : s.answersWithin (.next s) := State.answersWithin_next (.refl s)

theorem State.answersWithin_kept {s t : State} (h : s.keepsLimits t) : s.answersWithin (.next t) :=
  State.answersWithin_next h.abides

/-! ### Ports -/

theorem State.abides_setLink (s : State) (p : Port) (l : Link) (h : (s.link p).lawful → l.lawful) :
    s.abides (s.setLink p l) where
  pending := by simp
  elapsed := by simp
  time := by simp
  lastOff := by simp [State.lastOffPast_iff]
  reports := (State.reportsLawful_congr (by simp) (by simp)).2
  link := by
    intro x hx
    by_cases e : p = x
    · subst e
      rw [State.link_setLink_same]
      exact h hx
    · rw [State.link_setLink_ne _ _ _ _ e]
      exact hx

theorem Link.cleared_lawful {l : Link} (h : l.lawful) : l.cleared.lawful := by
  obtain ⟨-, -, herr, hover, -, -⟩ := h
  exact ⟨Nat.zero_le _, Nat.zero_le _, herr, hover, (by decide : 1 ≤ 4), Nat.le_refl 4⟩

theorem State.takeFrame_eq_some {s s1 : State} {p : Port} {sel : Byte → Bool} {f : Frame}
    (h : s.takeFrame p sel = some (f, s1)) :
    ∃ rest, s.canTake p = true ∧ (s.link p).fifo = f :: rest ∧ s1 = s.setLink p { s.link p with fifo := rest } := by
  unfold State.takeFrame at h
  dsimp only at h
  split at h
  · cases h
  · rename_i f' rest hfifo
    split at h
    · rename_i can
      cases h
      exact ⟨rest, (Bool.and_eq_true_iff.1 can).1, hfifo, rfl⟩
    · cases h

/-- A frame taken and answered: the reply finds one of the four places, since the handler waits for it (R186). -/
theorem State.abides_taken {s s1 t : State} {p : Port} {sel : Byte → Bool} {f : Frame}
    (taken : s.takeFrame p sel = some (f, s1)) (h : s1.keepsLimits t) (r : Frame) (resets : Bool) :
    s.abides (t.placeReply p r resets) := by
  obtain ⟨rest, can, hfifo, rfl⟩ := State.takeFrame_eq_some taken
  have room : (s.link p).replies.length < Config.replyCapacity := by
    simp only [State.canTake, Bool.and_eq_true, decide_eq_true_eq] at can
    exact can.2
  have atPort : t.link p = { s.link p with fifo := rest } := by rw [h.link p, State.link_setLink_same]
  refine (State.abides_setLink s p _ ?_).trans (h.abides.trans (State.abides_setLink t p _ ?_))
  · rintro ⟨hf, hrest⟩
    rw [hfifo, List.length_cons] at hf
    exact ⟨Nat.le_of_succ_le hf, hrest⟩
  · rw [atPort]
    rintro ⟨hf, -, hrest⟩
    exact ⟨hf, by simpa using room, hrest⟩

/-- Whatever becomes of a frame that names a session, it is answered once (R122, R123). -/
theorem State.routeFrame_replies (s : State) (p : Port) (f : Frame) {serve : Service} (h : serve.keepsLimits) :
    ∃ t r resets, s.keepsLimits t ∧ s.routeFrame p f serve = t.placeReply p r resets := by
  unfold State.routeFrame
  split
  · rename_i x _
    have arrived := s.keepsLimits_arrive f.ses.toNat x
    unfold State.frameForSession
    dsimp only
    split
    · exact ⟨_, _, _, (arrived.trans (h _ _ _)).trans (State.keepsLimits_noteReply _ _ _ _ _), rfl⟩
    · split
      · split <;> exact ⟨_, _, _, arrived, rfl⟩
      · exact ⟨_, _, _, arrived, rfl⟩
  · exact ⟨_, _, _, .refl s, rfl⟩

theorem State.abides_takeRequest (s : State) (p : Port) (code : Byte) {serve : Service} (h : serve.keepsLimits) :
    s.abides (s.takeRequest p code serve) := by
  unfold State.takeRequest
  split
  · exact .refl s
  · rename_i f s1 taken
    obtain ⟨t, r, resets, kept, e⟩ := s1.routeFrame_replies p f h
    rw [e]
    exact State.abides_taken taken kept r resets

theorem State.abides_takeSessionless (s : State) (p : Port) (code : Byte) {bare : List Byte → State → State × Answer}
    {serve : Service} (hb : ∀ body (t : State), t.keepsLimits (bare body t).1) (h : serve.keepsLimits) :
    s.abides (s.takeSessionless p code bare serve) := by
  unfold State.takeSessionless
  split
  · exact .refl s
  · rename_i f s1 taken
    split
    · exact State.abides_taken taken (hb f.body s1) _ _
    · obtain ⟨t, r, resets, kept, e⟩ := s1.routeFrame_replies p f h
      rw [e]
      exact State.abides_taken taken kept r resets

theorem execUnknownRequestKind_answers (p : Port) (s : State) : s.answersWithin (execUnknownRequestKind p s) := by
  unfold execUnknownRequestKind
  split
  · exact s.answersWithin_idle
  · rename_i f s1 taken
    split
    · exact State.answersWithin_next (State.abides_taken taken (.refl s1) _ _)
    · obtain ⟨t, r, resets, kept, e⟩ := s1.routeFrame_replies p f (serve := serveUnknown) fun _ _ t => .refl t
      rw [e]
      exact State.answersWithin_next (State.abides_taken taken kept r resets)

/-! ### Resets -/

theorem State.reset_chan (c : Nat) : State.reset.chan c = .unbound := tget_replicate _ _ _

theorem State.reset_session (n : Nat) : State.reset.session n = .free := by
  unfold State.session
  split
  · rfl
  · exact tget_replicate _ _ _

theorem State.reset_reportQueue (n : Nat) : State.reset.reportQueue n = ReportQueue.fresh := by
  unfold State.reportQueue
  split
  · rfl
  · exact tget_replicate _ _ _

theorem State.reset_reportsLawful : State.reset.reportsLawful :=
  ⟨fun n => by rw [State.reset_reportQueue]; exact ReportQueue.fresh_lawful, fun n _ => State.reset_reportQueue n,
    by rw [State.reset_reportQueue]; rfl⟩

/-- With no channel bound there is no last-off time. -/
theorem State.lastOffPast_of_unbound {s : State} (h : s.channels = State.reset.channels) : s.lastOffPast := by
  rw [State.lastOffPast_iff]
  intro c
  have : s.chan c = .unbound := by
    rw [State.chan, h]
    exact State.reset_chan c
  rw [this]
  trivial

theorem State.abides_softReset (s : State) : s.abides s.softReset where
  pending := rfl
  elapsed := rfl
  time := id
  lastOff := fun _ => State.lastOffPast_of_unbound rfl
  reports := fun _ => (State.reportsLawful_congr rfl rfl).2 State.reset_reportsLawful
  link := by
    intro p
    cases p <;> exact Link.cleared_lawful

theorem State.abides_transmitted (s : State) (f : OutFrame) : s.abides (s.transmitted f) := by
  unfold State.transmitted
  split
  · exact s.abides_softReset
  · exact .refl s

/-! ### Receiving -/

theorem saturate_le (n : Nat) : saturate n ≤ 65535 := Nat.min_le_right _ _

theorem State.abides_countError (s : State) (p : Port) : s.abides (s.countError p) :=
  s.abides_setLink p _ fun ⟨hf, hr, _, hrest⟩ => ⟨hf, hr, saturate_le _, hrest⟩

/-- A frame finds a free place, or is counted as an overflow (R183, R184). -/
theorem State.abides_receive (s : State) (p : Port) (f : Frame) : s.abides (s.receive p f) := by
  unfold State.receive
  dsimp only
  split
  · rename_i room
    exact s.abides_setLink p _ fun ⟨_, hrest⟩ => ⟨by simpa using room, hrest⟩
  · exact s.abides_setLink p _ fun ⟨hf, hr, he, _, hrest⟩ => ⟨hf, hr, he, saturate_le _, hrest⟩

theorem State.keepsLimits_rxPhase (s : State) (ph : RxPhase) : s.keepsLimits (s.rxPhase ph) := .of_same

theorem State.abides_discard (s : State) : s.abides s.discard :=
  (s.abides_countError .a).trans (State.keepsLimits_rxPhase _ _).abides

theorem State.abides_checkFrame (s : State) (len : Nat) (kept : List Byte) : s.abides (s.checkFrame len kept) := by
  unfold State.checkFrame
  split
  · exact (s.abides_receive .a _).trans (State.keepsLimits_rxPhase _ _).abides
  · exact s.abides_discard

theorem State.abides_gapTimeout (s : State) : s.abides s.gapTimeout := by
  unfold State.gapTimeout
  split
  · exact s.abides_discard
  · exact .refl s

theorem State.abides_judgeByte (s : State) (b : RxByte) : s.abides (s.judgeByte b) := by
  unfold State.judgeByte
  split
  · split
    · exact (s.keepsLimits_rxPhase _).abides
    · exact .refl s
  · split
    · exact (s.keepsLimits_rxPhase _).abides
    · exact s.abides_discard
  · split
    · exact s.abides_discard
    split
    · exact s.abides_checkFrame _ _
    · exact (s.keepsLimits_rxPhase _).abides

theorem State.keepsLimits_withRx (s : State) (rx : Receiver) : s.keepsLimits { s with rxA := rx } := .of_same

theorem State.abides_takeByte (s : State) (b : RxByte) : s.abides (s.takeByte b) :=
  (s.abides_gapTimeout.trans (State.keepsLimits_withRx _ _).abides).trans (State.abides_judgeByte _ b)

theorem State.abides_takeBytes (s : State) (bytes : List RxByte) : s.abides (bytes.foldl State.takeByte s) := by
  induction bytes generalizing s with
  | nil => exact .refl s
  | cons b bytes ih => exact (s.abides_takeByte b).trans (ih _)

theorem State.abides_judgeWrite (s : State) (bytes : List Byte) : s.abides (s.judgeWrite bytes) := by
  unfold State.judgeWrite
  split
  · exact s.abides_countError .b
  · split
    · exact s.abides_receive .b _
    · exact s.abides_countError .b

/-! ### Transmitting -/

theorem State.nextReady_range {s : State} {p : Port} {n : Nat} (h : s.nextReady p = some n) :
    1 ≤ n ∧ n ≤ 4 ∧ s.readyOn p n = true := by
  have ready := List.find?_some h
  obtain ⟨i, -, rfl⟩ := List.mem_map.1 (List.mem_of_find?_eq_some h)
  exact ⟨by omega, by omega, ready⟩

/-- A report handed to the transmitter: fewer than 8 of the queue were sent, and it is not LOCAL's (R146, R148). -/
theorem State.abides_handOver {s s1 : State} {p : Port} {n : Nat} {f : OutFrame} (hn : 1 ≤ n ∧ n ≤ 4)
    (ready : s.readyOn p n = true) (h : s.handOver p n = some (f, s1)) : s.abides s1 := by
  simp only [State.readyOn, ReportQueue.ready, Bool.and_eq_true, decide_eq_true_eq] at ready
  obtain ⟨routed, unsent, window⟩ := ready
  have notFree : s.session n ≠ .free := fun e => by simp [State.routed, e] at routed
  unfold State.handOver at h
  dsimp only at h
  split at h
  · cases h
  · cases h
    have sent : s.keepsLimits (s.setReportQueue n { s.reportQueue n with sent := (s.reportQueue n).sent + 1 }) :=
      s.keepsLimits_setReportQueue n _ fun ⟨hlaw, _, _⟩ =>
        ⟨ReportQueue.sent_lawful (hlaw n) window unsent, fun e => absurd e notFree, fun e => by omega⟩
    refine sent.abides.trans (State.abides_setLink _ p _ ?_)
    rw [sent.link p]
    rintro ⟨hf, hr, he, ho, -, -⟩
    exact ⟨hf, hr, he, ho, hn.1, hn.2⟩

theorem State.abides_choose {s s1 : State} {p : Port} {f : OutFrame} (h : s.choose p = some (f, s1)) :
    s.abides s1 := by
  unfold State.choose at h
  split at h
  · rename_i r rest hreplies
    cases h
    refine s.abides_setLink p _ ?_
    rintro ⟨hf, hr, hrest⟩
    rw [hreplies, List.length_cons] at hr
    exact ⟨hf, Nat.le_of_succ_le hr, hrest⟩
  · split at h
    · cases h
    · split at h
      · cases h
      · rename_i n next
        obtain ⟨h1, h4, ready⟩ := State.nextReady_range next
        exact State.abides_handOver ⟨h1, h4⟩ ready h

theorem execPortATransmit_answers (s : State) : s.answersWithin (execPortATransmit s) := by
  unfold execPortATransmit
  split
  · exact s.answersWithin_idle
  · split
    · exact s.answersWithin_idle
    · rename_i f s1 chosen
      exact State.answersWithin_next ((State.abides_choose chosen).trans (State.keepsLimits.of_same).abides)

theorem execPortAFrameSent_answers (s : State) : s.answersWithin (execPortAFrameSent s) := by
  unfold execPortAFrameSent
  split
  · exact s.answersWithin_idle
  · exact State.answersWithin_next ((State.keepsLimits.of_same).abides.trans (State.abides_transmitted _ _))

theorem execDeviceResetTimeout_answers (s : State) : s.answersWithin (execDeviceResetTimeout s) := by
  unfold execDeviceResetTimeout
  split
  · split
    · exact State.answersWithin_next s.abides_softReset
    · exact s.answersWithin_idle
  · exact s.answersWithin_idle

theorem State.keepsLimits_withMiso (s : State) (bytes : List Byte) : s.keepsLimits { s with miso := bytes } := .of_same

theorem execWrite_answers (bytes : List Byte) (cut : Bool) (s : State) :
    s.answersWithin (execWrite bytes cut s) := by
  unfold execWrite
  split
  · exact s.answersWithin_idle
  · have written : s.abides (if cut then s.countError .b else s.judgeWrite bytes) := by
      split
      · exact s.abides_countError .b
      · exact s.abides_judgeWrite bytes
    exact State.answersWithin_next (written.trans (State.keepsLimits_withMiso _ _).abides)

theorem execLevel_answers (clocked : Nat) (s : State) : s.answersWithin (execLevel clocked s) := by
  unfold execLevel
  split
  · exact s.answersWithin_idle
  · exact State.answersWithin_kept (s.keepsLimits_withMiso _)

theorem State.abides_offer {s s1 : State} {f : OutFrame} (h : s.offer = some (f, s1)) : s.abides s1 := by
  unfold State.offer at h
  split at h
  · cases h
    exact .refl s
  · obtain ⟨⟨f', t⟩, chosen, e⟩ := Option.map_eq_some_iff.1 h
    cases e
    exact (State.abides_choose chosen).trans (State.keepsLimits.of_same).abides

theorem execRead_answers (s : State) : s.answersWithin (execRead s) := by
  unfold execRead
  split
  · exact s.answersWithin_idle
  · split
    · rename_i f s1 offered
      exact State.answersWithin_next ((State.abides_offer offered).trans (State.keepsLimits.of_same).abides)
    · exact State.answersWithin_kept .of_same

theorem State.abides_finishRead (s : State) (r : ReadTxn) (clocked : Nat) : s.abides (s.finishRead r clocked) := by
  unfold State.finishRead
  split
  · split
    · exact (State.keepsLimits.of_same).abides.trans (State.abides_transmitted _ _)
    · exact .refl s
  · exact .refl s

theorem execReadEnd_answers (clocked before : Nat) (s : State) : s.answersWithin (execReadEnd clocked before s) := by
  unfold execReadEnd
  split
  · exact s.answersWithin_idle
  · split
    · exact State.answersWithin_kept .of_same
    · exact State.answersWithin_next ((State.keepsLimits.of_same).abides.trans (State.abides_finishRead _ _ _))

theorem execUnknownSpiCommand_answers (command : Byte) (clocked : Nat) (s : State) :
    s.answersWithin (execUnknownSpiCommand command clocked s) := by
  unfold execUnknownSpiCommand
  split
  · exact s.answersWithin_idle
  · split
    · exact s.answersWithin_idle
    · exact State.answersWithin_next ((s.abides_countError .b).trans (State.keepsLimits_withMiso _ _).abides)

end Sys2Proof.Machine
end

section
/-!
Every command keeps the laws of LimitsKept, and all but TICK and HARD_RESET leave the elapsed count: O59 and O2.
-/

namespace Sys2Proof.Machine

/-! ### Events -/

theorem execEntryDue_answers (s : State) : s.answersWithin (execEntryDue s) := by
  unfold execEntryDue
  split
  · exact s.answersWithin_idle
  · split
    · exact s.answersWithin_idle
    · exact State.answersWithin_kept (s.keepsLimits_applyVerdict _ _)

theorem execGuardDeadline_answers (s : State) : s.answersWithin (execGuardDeadline s) := by
  unfold execGuardDeadline
  split
  · exact s.answersWithin_idle
  · split
    · exact State.answersWithin_kept (s.keepsLimits_failOccurrence _ _ _)
    · exact s.answersWithin_idle

theorem State.keepsLimits_reevaluate (s : State) (e : Entry) : s.keepsLimits (s.reevaluate e) := by
  unfold State.reevaluate
  split
  · exact .refl s
  · split
    · exact s.keepsLimits_applyVerdict e _
    · exact .refl s

theorem State.keepsLimits_withLevelChanges (s : State) (ls : List LevelChange) :
    s.keepsLimits { s with levelChanges := ls } := .of_same

theorem execGuardReevaluation_answers (s : State) : s.answersWithin (execGuardReevaluation s) := by
  unfold execGuardReevaluation
  split
  · exact s.answersWithin_idle
  · split
    · exact State.answersWithin_kept s.keepsLimits_passOver
    · exact State.answersWithin_kept ((s.keepsLimits_withLevelChanges _).trans (State.keepsLimits_reevaluate _ _))

theorem execActionDrive_answers (s : State) : s.answersWithin (execActionDrive s) := by
  unfold execActionDrive
  split
  · exact s.answersWithin_idle
  · exact State.answersWithin_kept (.trans .of_same (State.keepsLimits_settleDrive _ _))

theorem execPulseRelease_answers (c : Nat) (s : State) : s.answersWithin (execPulseRelease c s) := by
  unfold execPulseRelease
  split
  · rename_i o e
    split
    · split
      · exact State.answersWithin_kept (s.keepsLimits_driveOutput c o _ _ (State.offBy_of_chan e))
      · exact s.answersWithin_idle
    · exact s.answersWithin_idle
  · exact s.answersWithin_idle

theorem State.keepsLimits_faultEntry (s : State) (c : Nat) (o : Output) (bad : List Nat)
    (h : s.lastOffPast → (Channel.output o).offBy s.now) : s.keepsLimits (s.faultEntry c o bad) := by
  unfold State.faultEntry
  extract_lets s1 s2
  have faulted : s.keepsLimits s2 := s.keepsLimits_breakThenPut c _ _ fun hl => Output.lastOffAfter_le (h hl) _
  split
  · exact faulted.trans (s2.keepsLimits_addReport _ _ _)
  · exact faulted

theorem execSettleEnd_answers (c : Nat) (wires : BitVec 24) (s : State) : s.answersWithin (execSettleEnd c wires s) := by
  unfold execSettleEnd
  split
  · rename_i o e
    split
    · split
      · refine State.answersWithin_kept ?_
        unfold State.readback
        split
        · exact s.keepsLimits_setChan c _ fun hl => (State.offBy_of_chan e hl : (Channel.output o).offBy s.now)
        · exact s.keepsLimits_faultEntry c o _ (State.offBy_of_chan e)
      · exact s.answersWithin_idle
    · exact s.answersWithin_idle
  · exact s.answersWithin_idle

theorem State.keepsLimits_handLevelChange (s : State) (c : Nat) : s.keepsLimits (s.handLevelChange c) := by
  unfold State.handLevelChange
  dsimp only
  split
  · exact .refl s
  · exact s.keepsLimits_withLevelChanges _

theorem State.keepsLimits_handEdge (s : State) (c : Nat) (subscribers : List Nat) (rising : Bool) (t : Nat) :
    s.keepsLimits (s.handEdge c subscribers rising t) :=
  .trans .of_same (State.keepsLimits_handLevelChange _ c)

theorem execInputSample_answers (c : Nat) (l : PinLevel) (s : State) : s.answersWithin (execInputSample c l s) := by
  unfold execInputSample
  split
  · split
    · refine State.answersWithin_kept ?_
      unfold State.sampleInput
      dsimp only
      split
      · exact s.keepsLimits_setInput c _
      split
      · exact s.keepsLimits_setInput c _
      split
      · exact (s.keepsLimits_setInput c _).trans (State.keepsLimits_handLevelChange _ _)
      · exact (s.keepsLimits_setInput c _).trans (State.keepsLimits_handEdge _ _ _ _ _)
    · exact s.answersWithin_idle
  · exact s.answersWithin_idle

theorem State.keepsLimits_visitTrigger (x : Edge) (s : State) (t : Nat) : s.keepsLimits (s.visitTrigger x t) := by
  unfold State.visitTrigger
  split
  · exact .refl s
  · split
    · extract_lets s1
      have written : s.keepsLimits s1 := s.keepsLimits_setTrigger t _
      exact written.trans .of_same
    · exact .refl s

theorem execTriggerEdge_answers (s : State) : s.answersWithin (execTriggerEdge s) := by
  unfold execTriggerEdge
  split
  · exact s.answersWithin_idle
  · exact State.answersWithin_kept (.trans .of_same (.foldl (State.keepsLimits_visitTrigger _) _ _))

theorem State.keepsLimits_copyTemplate (t : Nat) (s : State) (e : Entry) : s.keepsLimits (s.copyTemplate t e) := by
  unfold State.copyTemplate
  split
  · exact s.keepsLimits_admitEntry _ _ _ _
  · exact s.keepsLimits_addReport _ _ _

theorem State.keepsLimits_takeFireRequest (s : State) (f : FireReq) : s.keepsLimits (s.takeFireRequest f) := by
  unfold State.takeFireRequest
  dsimp only
  split
  · exact .trans (.foldl (fun t e => t.keepsLimits_requeue _) _ s) (State.keepsLimits_addReport _ _ _ _)
  · exact .trans (.foldl (State.keepsLimits_copyTemplate _) _ s) (State.keepsLimits_addReport _ _ _ _)

theorem execFireRequest_answers (s : State) : s.answersWithin (execFireRequest s) := by
  unfold execFireRequest
  split
  · exact s.answersWithin_idle
  · exact State.answersWithin_kept (.trans .of_same (State.keepsLimits_takeFireRequest _ _))

theorem execHoldoffEnd_answers (t : Nat) (s : State) : s.answersWithin (execHoldoffEnd t s) := by
  unfold execHoldoffEnd
  split
  · exact s.answersWithin_idle
  · split
    · split
      · exact State.answersWithin_kept (s.keepsLimits_setTrigger t _)
      · exact s.answersWithin_idle
    · exact s.answersWithin_idle

theorem execStopNSample_answers (asserted : Bool) (s : State) : s.answersWithin (execStopNSample asserted s) := by
  unfold execStopNSample
  split
  · exact State.answersWithin_kept (s.keepsLimits_sampleStop asserted)
  · exact s.answersWithin_idle

theorem execKeepaliveExpiry_answers (n : Nat) (s : State) : s.answersWithin (execKeepaliveExpiry n s) := by
  unfold execKeepaliveExpiry
  split
  · split
    · split
      · exact State.answersWithin_kept (s.keepsLimits_lapse n _)
      · exact s.answersWithin_idle
    · exact s.answersWithin_idle
  · exact s.answersWithin_idle

theorem execGraceExpiry_answers (n : Nat) (s : State) : s.answersWithin (execGraceExpiry n s) := by
  unfold execGraceExpiry
  split
  · split
    · split
      · exact State.answersWithin_kept (s.keepsLimits_teardown n)
      · exact s.answersWithin_idle
    · exact s.answersWithin_idle
  · exact s.answersWithin_idle

theorem execReportAdd_answers (s : State) : s.answersWithin (execReportAdd s) := by
  unfold execReportAdd
  split
  · exact s.answersWithin_idle
  · exact State.answersWithin_kept (.trans .of_same (State.keepsLimits_addReport _ _ _ _))

/-! ### The storage array, the supply and the loads -/

theorem State.keepsLimits_setSlot (s : State) (k : Nat) (r : Slot) : s.keepsLimits (s.setSlot k r) := .of_same

/-- A store operation ends: its slot is written, the store is IDLE, and the requester learns of it. -/
theorem State.keepsLimits_storeEnd (s : State) (k : Nat) (r : Slot) (n : Option Nat) (body : ReportBody) :
    s.keepsLimits (({ s.setSlot k r with store := .idle }).reportTo n body) :=
  ((s.keepsLimits_setSlot k r).trans (State.keepsLimits_withStore _ _)).trans (State.keepsLimits_reportTo _ n body)

theorem execErasePhaseEnd_answers (s : State) : s.answersWithin (execErasePhaseEnd s) := by
  unfold execErasePhaseEnd
  split
  · exact State.answersWithin_kept ((s.keepsLimits_setSlot _ _).trans (State.keepsLimits_withStore _ _))
  · exact s.answersWithin_idle

theorem State.keepsLimits_endProgramming (s : State) (k : Nat) (n : Option Nat) (image bytes : List Byte) :
    s.keepsLimits (s.endProgramming k n image bytes) := by
  unfold State.endProgramming
  split
  · exact s.keepsLimits_storeEnd _ _ _ _
  · exact s.keepsLimits_storeEnd _ _ _ _

theorem execProgrammingPhaseEnd_answers (readBack : Option (List Byte)) (s : State) :
    s.answersWithin (execProgrammingPhaseEnd readBack s) := by
  unfold execProgrammingPhaseEnd
  split
  · exact State.answersWithin_kept (s.keepsLimits_endProgramming _ _ _ _)
  · exact s.answersWithin_idle

theorem execEraseEnd_answers (s : State) : s.answersWithin (execEraseEnd s) := by
  unfold execEraseEnd
  split
  · exact State.answersWithin_kept (s.keepsLimits_storeEnd _ _ _ _)
  · exact s.answersWithin_idle

theorem State.keepsLimits_abortByLow (s : State) : s.keepsLimits s.abortByLow := by
  unfold State.abortByLow
  split
  · exact .refl s
  · exact .refl s
  · exact s.keepsLimits_storeEnd _ _ _ _
  · exact s.keepsLimits_storeEnd _ _ _ _
  · exact s.keepsLimits_storeEnd _ _ _ _

theorem execSupplyChange_answers (level : SupplyLevel) (s : State) : s.answersWithin (execSupplyChange level s) := by
  unfold execSupplyChange
  split
  · exact s.answersWithin_idle
  · extract_lets s1
    have supplied : s.keepsLimits s1 := .of_same
    split
    · exact State.answersWithin_kept (supplied.trans s1.keepsLimits_abortByLow)
    · exact State.answersWithin_kept supplied

theorem State.keepsLimits_rebindChannel (s : State) (c target : Nat) : s.keepsLimits (s.rebindChannel c target) := by
  unfold State.rebindChannel
  split
  · exact .refl s
  · exact s.keepsLimits_driveSafe c
  · exact s.keepsLimits_setInput c _

theorem State.keepsLimits_bindForLoad (s : State) (c target : Nat) (spec : BindSpec) :
    s.keepsLimits (s.bindForLoad c target spec) := by
  have bound := s.keepsLimits_bindChannel c target spec
  unfold State.bindForLoad
  split
  · exact bound.trans (State.keepsLimits_setInput _ _ _)
  · exact bound

theorem State.keepsLimits_holdFor (s : State) (c target : Nat) : s.keepsLimits (s.holdFor c target) := by
  unfold State.holdFor
  split
  · exact s.keepsLimits_setHeld c true
  · exact .refl s

theorem State.keepsLimits_applyPlanRecord (s : State) (target base : Nat) (x : PlanRecord) :
    s.keepsLimits (s.applyPlanRecord target base x) := by
  cases x with
  | bind c spec =>
    refine .trans ?_ (State.keepsLimits_holdFor _ c target)
    split
    · exact s.keepsLimits_bindForLoad c target spec
    · exact s.keepsLimits_rebindChannel c target
  | interlock r =>
    unfold State.applyPlanRecord
    dsimp only
    split
    · exact s.keepsLimits_setInterlock _ _
    · exact .refl s
  | trigger t spec => exact s.keepsLimits_setTrigger t _
  | action form a => exact s.keepsLimits_admitEntry _ _ _ _
  | unreadable => exact .refl s

theorem State.keepsLimits_runPlan {target base : Nat} {plan : List PlanRecord} :
    ∀ {index : Nat} {s t : State}, State.runPlan target base index plan s = .ok t → s.keepsLimits t := by
  induction plan with
  | nil =>
    intro index s t h
    cases h
    exact .refl s
  | cons r rs ih =>
    intro index s t h
    unfold State.runPlan at h
    split at h
    · cases h
    · exact (s.keepsLimits_applyPlanRecord target base r).trans (ih h)

theorem State.keepsLimits_settleStartup (s : State) (target : Nat) (outcome : StartupOutcome) (ends : Bool) :
    s.keepsLimits (s.settleStartup target outcome ends) := by
  unfold State.settleStartup
  split
  · extract_lets s1
    have settled : s.keepsLimits s1 := .of_same
    split
    · exact settled.trans (s1.keepsLimits_teardown 5)
    · exact settled
  · exact .refl s

theorem State.keepsLimits_loadFor (s : State) (k target : Nat) (start : LoadStart) (plan : List PlanRecord) :
    s.keepsLimits (s.loadFor k target start plan) := by
  unfold State.loadFor
  dsimp only
  split
  · rename_i s1 ran
    exact ((State.keepsLimits_runPlan ran).trans (s1.keepsLimits_addReport _ _ _)).trans
      (State.keepsLimits_settleStartup _ _ _ _)
  · exact (s.keepsLimits_addReport _ _ _).trans (State.keepsLimits_settleStartup _ _ _ _)

theorem State.keepsLimits_loadCorrupt (s : State) (k : Nat) (n : Option Nat) : s.keepsLimits (s.loadCorrupt k n) := by
  unfold State.loadCorrupt
  extract_lets s1
  have reported : s.keepsLimits s1 := (s.keepsLimits_setSlot k _).trans (State.keepsLimits_reportTo _ n _)
  split
  · exact reported
  · exact reported.trans (s1.keepsLimits_settleStartup _ _ _)

theorem execReadCompletion_answers (bytesRead : Option (List Byte)) (s : State) :
    s.answersWithin (execReadCompletion bytesRead s) := by
  unfold execReadCompletion
  split
  · refine State.answersWithin_kept ?_
    unfold State.completeRead
    extract_lets s1
    have ended : s.keepsLimits s1 := s.keepsLimits_withStore _
    split
    · exact ended.trans (s1.keepsLimits_loadCorrupt _ _)
    · split
      · exact ended
      · exact ended.trans (s1.keepsLimits_loadFor _ _ _ _)
  · exact s.answersWithin_idle

/-! ### Ticks and trim windows -/

theorem Timebase.endWindow_lawful {t : Timebase} (h : t.lawful) : t.endWindow.lawful := by
  obtain ⟨hdevice, -, hwindow, hvalue, hpending⟩ := h
  have inRange : 1 ≤ t.endWindow.trim.window ∧ t.endWindow.trim.value.natAbs ≤ 127 := by
    unfold Timebase.endWindow
    cases e : t.pendingTrim with
    | none => exact ⟨hwindow, hvalue⟩
    | some r => exact hpending r e
  exact ⟨hdevice, Nat.zero_le _, inRange.1, inRange.2, fun r e => nomatch e⟩

theorem Timebase.settled_lawful {t : Timebase} (h : t.lawful) : t.settled.lawful := by
  unfold Timebase.settled
  split
  · exact Timebase.endWindow_lawful h
  · exact h

/-- Once an outstanding window end is taken, the window has a tick left (R9). -/
theorem Timebase.settled_position_lt {t : Timebase} (h : t.lawful) : t.settled.position < t.settled.windowTicks := by
  have window := (Timebase.settled_lawful h).2.2.1
  unfold Timebase.settled at window ⊢
  split
  · rename_i ended
    rw [if_pos ended] at window
    exact Nat.mul_pos window (by decide)
  · rename_i running
    simpa [Timebase.windowEnded] using running

theorem Timebase.advance_lawful {t : Timebase} (h : t.lawful) : t.advance.lawful := by
  obtain ⟨-, -, hrest⟩ := Timebase.settled_lawful h
  exact ⟨Nat.min_le_right _ _, Timebase.settled_position_lt h, hrest⟩

theorem Timebase.settled_device (t : Timebase) : t.settled.device = t.device := by
  unfold Timebase.settled
  split <;> rfl

theorem Timebase.settled_elapsed (t : Timebase) : t.settled.elapsed = t.elapsed := by
  unfold Timebase.settled
  split <;> rfl

/-- Device time does not go back at a tick (R2). -/
theorem Timebase.device_le_advance {t : Timebase} (h : t.lawful) : t.device ≤ t.advance.device :=
  Nat.le_min.2 ⟨by rw [← t.settled_device]; exact Nat.le_add_right _ _, h.1⟩

theorem execTrimWindowEnd_answers (s : State) : s.answersWithin (execTrimWindowEnd s) :=
  State.answersWithin_next
    { pending := rfl
      elapsed := s.time.settled_elapsed
      time := Timebase.settled_lawful
      lastOff := fun hl c o t ho ht => by
        rw [State.now, Timebase.settled_device]
        exact hl c o t ho ht
      reports := (State.reportsLawful_congr rfl rfl).2
      link := fun p hp => by cases p <;> exact hp }

theorem emptyQuery_keepsLimits (fields : State → List Byte) :
    Service.keepsLimits fun _ body s => emptyQuery body s (fields s) :=
  fun _ body s => s.keepsLimits_emptyQuery body _

/-- Every command but TICK and HARD_RESET ends in a next state that abides. -/
theorem exec_answersWithin (c : Instr) (s : State) (notTick : c ≠ .tick)
    (notReset : ∀ a b l x, c ≠ .hardReset a b l x) : s.answersWithin (exec c s) := by
  have request : ∀ p code {serve : Service}, serve.keepsLimits → s.answersWithin (.next (s.takeRequest p code serve)) :=
    fun p code _ h => State.answersWithin_next (s.abides_takeRequest p code h)
  cases c with
  | openSession p key =>
    exact State.answersWithin_next
      (s.abides_takeSessionless p _ (serveOpen_keepsLimits p key) fun _ _ t => .refl t)
  | identify p =>
    exact State.answersWithin_next (s.abides_takeSessionless p _ (fun body t => t.keepsLimits_emptyQuery body _)
      fun _ body t => t.keepsLimits_emptyQuery body _)
  | status p =>
    exact State.answersWithin_next (s.abides_takeSessionless p _ (fun body t => t.keepsLimits_emptyQuery body _)
      fun _ body t => t.keepsLimits_emptyQuery body _)
  | close p => exact request p _ serveClose_keepsLimits
  | keepalive p => exact request p _ (emptyQuery_keepsLimits _)
  | timeGet p => exact request p _ (emptyQuery_keepsLimits _)
  | timeSet p => exact request p _ serveTimeSet_keepsLimits
  | timeTrim p key => exact request p _ (serveTimeTrim_keepsLimits key)
  | bind p => exact request p _ serveBind_keepsLimits
  | unbind p key => exact request p _ (serveUnbind_keepsLimits key)
  | clearFault p key => exact request p _ (serveClearFault_keepsLimits key)
  | requalify p => exact request p _ serveRequalify_keepsLimits
  | channelQuery p => exact request p _ serveChannelQuery_keepsLimits
  | subscribe p => exact request p _ fun _ => serveSubscribers_keepsLimits _
  | unsubscribe p => exact request p _ fun _ => serveSubscribers_keepsLimits _
  | claim p key => exact request p _ (serveClaim_keepsLimits key)
  | release p => exact request p _ serveRelease_keepsLimits
  | takeover p => exact request p _ serveTakeover_keepsLimits
  | actionAdd p => exact request p _ serveActionAdd_keepsLimits
  | actionCancel p key => exact request p _ (serveActionCancel_keepsLimits key)
  | groupCancel p => exact request p _ serveGroupCancel_keepsLimits
  | queueQuery p => exact request p _ serveQueueQuery_keepsLimits
  | interlockSet p key => exact request p _ (serveInterlockSet_keepsLimits key)
  | interlockClear p key => exact request p _ (serveInterlockClear_keepsLimits key)
  | interlockQuery p => exact request p _ (emptyQuery_keepsLimits _)
  | triggerSet p => exact request p _ serveTriggerSet_keepsLimits
  | triggerClear p key => exact request p _ (serveTriggerClear_keepsLimits key)
  | triggerQuery p => exact request p _ serveTriggerQuery_keepsLimits
  | halt p => exact request p _ serveHalt_keepsLimits
  | resume p => exact request p _ serveResume_keepsLimits
  | reportAck p => exact request p _ serveReportAck_keepsLimits
  | reportResend p => exact request p _ serveReportResend_keepsLimits
  | planBegin p key => exact request p _ (servePlanBegin_keepsLimits key)
  | planPut p key => exact request p _ (servePlanPut_keepsLimits key)
  | planAbandon p key => exact request p _ (servePlanAbandon_keepsLimits key)
  | planCommit p key prot => exact request p _ (servePlanCommit_keepsLimits key prot)
  | planErase p key prot => exact request p _ (servePlanErase_keepsLimits key prot)
  | planList p => exact request p _ (emptyQuery_keepsLimits _)
  | planLoad p => exact request p _ servePlanLoad_keepsLimits
  | deviceReset p key => exact request p _ (serveDeviceReset_keepsLimits p key)
  | unknownRequestKind p => exact execUnknownRequestKind_answers p s
  | tick => exact absurd rfl notTick
  | trimWindowEnd => exact execTrimWindowEnd_answers s
  | entryDue => exact execEntryDue_answers s
  | actionDrive => exact execActionDrive_answers s
  | guardDeadline => exact execGuardDeadline_answers s
  | guardReevaluation => exact execGuardReevaluation_answers s
  | pulseRelease c => exact execPulseRelease_answers c s
  | settleEnd c wires => exact execSettleEnd_answers c wires s
  | inputSample c level => exact execInputSample_answers c level s
  | triggerEdge => exact execTriggerEdge_answers s
  | fireRequest => exact execFireRequest_answers s
  | holdoffEnd t => exact execHoldoffEnd_answers t s
  | stopNSample asserted => exact execStopNSample_answers asserted s
  | keepaliveExpiry n => exact execKeepaliveExpiry_answers n s
  | graceExpiry n => exact execGraceExpiry_answers n s
  | reportAdd => exact execReportAdd_answers s
  | erasePhaseEnd => exact execErasePhaseEnd_answers s
  | programmingPhaseEnd readBack => exact execProgrammingPhaseEnd_answers readBack s
  | eraseEnd => exact execEraseEnd_answers s
  | readCompletion bytesRead => exact execReadCompletion_answers bytesRead s
  | supplyChange level => exact execSupplyChange_answers level s
  | hardReset a b l x => exact absurd rfl (notReset a b l x)
  | portAFrame bytes => exact State.answersWithin_next (s.abides_takeBytes bytes)
  | portAGapTimeout => exact State.answersWithin_next s.abides_gapTimeout
  | portATransmit => exact execPortATransmit_answers s
  | portAFrameSent => exact execPortAFrameSent_answers s
  | deviceResetTimeout => exact execDeviceResetTimeout_answers s
  | write bytes cut => exact execWrite_answers bytes cut s
  | level clocked => exact execLevel_answers clocked s
  | read => exact execRead_answers s
  | readEnd clocked before => exact execReadEnd_answers clocked before s
  | unknownSpiCommand command clocked => exact execUnknownSpiCommand_answers command clocked s

/-! ### The laws at every step -/

/-- What LimitsKept says of a state and the next one. -/
def State.limitsKeptTo (s t : State) : Prop :=
  (s.time.lawful → t.time.lawful) ∧ (s.time.lawful → s.lastOffPast → t.lastOffPast) ∧
    (s.reportsLawful → t.reportsLawful) ∧ ∀ p, (s.link p).lawful → (t.link p).lawful

theorem State.abides.limitsKeptTo {s t : State} (h : s.abides t) : s.limitsKeptTo t :=
  ⟨h.time, fun _ => h.lastOff, h.reports, h.link⟩

theorem State.tick_limitsKeptTo (s : State) : s.limitsKeptTo { s with time := s.time.advance } :=
  ⟨Timebase.advance_lawful,
    fun ht hl c o t ho hk => Nat.le_trans (hl c o t ho hk) (Timebase.device_le_advance ht),
    (State.reportsLawful_congr rfl rfl).2, fun p hp => by cases p <;> exact hp⟩

theorem Timebase.reset_lawful : Timebase.reset.lawful :=
  ⟨by decide, by decide, by decide, by decide, fun r e => nomatch e⟩

theorem Link.reset_lawful : Link.reset.lawful :=
  ⟨by decide, by decide, by decide, by decide, by decide, by decide⟩

theorem State.hardReset_limitsKeptTo {a b : Bool} {l : SupplyLevel} {x : List (Nat × List Byte)} {s t : State}
    (h : exec (.hardReset a b l x) s = .next t) : s.limitsKeptTo t := by
  cases h
  exact ⟨fun _ => Timebase.reset_lawful, fun _ _ => State.lastOffPast_of_unbound rfl,
    fun _ => (State.reportsLawful_congr rfl rfl).2 State.reset_reportsLawful,
    fun p _ => by cases p <;> exact Link.reset_lawful⟩

theorem exec_limitsKeptTo {c : Instr} {s t : State} (h : exec c s = .next t) : s.limitsKeptTo t := by
  by_cases isTick : c = .tick
  · subst isTick
    cases h
    exact s.tick_limitsKeptTo
  by_cases isReset : ∃ a b l x, c = .hardReset a b l x
  · obtain ⟨a, b, l, x, rfl⟩ := isReset
    exact State.hardReset_limitsKeptTo h
  obtain ⟨u, e, within⟩ := exec_answersWithin c s isTick fun a b l x e => isReset ⟨a, b, l, x, e⟩
  rw [e] at h
  cases h
  exact within.limitsKeptTo

/-- Settles O59: every command but TICK and HARD_RESET abides; TICK moves the Timebase alone, and HARD_RESET sets
every part that the laws speak of to its reset value. -/
theorem limitsKept : Obligations.LimitsKept := by
  intro s t h
  unfold step at h
  split at h
  · cases h
    exact (State.abides.refl s).limitsKeptTo
  · rename_i c rest _
    have popped : { s with pending := rest }.limitsKeptTo t := exec_limitsKeptTo h
    obtain ⟨htime, hoff, hreports, hlink⟩ := popped
    exact ⟨htime, hoff, hreports ∘ (State.reportsLawful_congr rfl rfl).2, fun
      | .a => hlink .a
      | .b => hlink .b⟩

/-- Settles O2: every command but TICK and HARD_RESET abides, and so leaves the queue of commands and the elapsed
count; the two others are read off their meanings. -/
theorem everyCommandAnswers : Obligations.EveryCommandAnswers := by
  intro c s
  by_cases isTick : c = .tick
  · subst isTick
    refine ⟨_, rfl, rfl, fun _ => ?_, fun _ _ _ _ e => (nomatch e), fun h => absurd rfl h⟩
    exact congrArg (· + 1) s.time.settled_elapsed
  by_cases isReset : ∃ a b l x, c = .hardReset a b l x
  · obtain ⟨a, b, l, x, rfl⟩ := isReset
    exact ⟨_, rfl, rfl, fun e => (nomatch e), fun _ _ _ _ _ => rfl, fun _ h => absurd rfl (h a b l x)⟩
  obtain ⟨t, e, within⟩ := exec_answersWithin c s isTick fun a b l x e => isReset ⟨a, b, l, x, e⟩
  exact ⟨t, e, within.pending, fun h => absurd h isTick, fun a b l x h => absurd ⟨a, b, l, x, h⟩ isReset,
    fun _ _ => within.elapsed⟩

end Sys2Proof.Machine
end

section
/-!
The Timebase: ticks and corrections (R1, R2, R9), trims (R10, R11) and TIME_SET (R5, R6); held times that are reached
(R65, R100).
-/

namespace Sys2Proof.Machine

/-! ### Ticks -/

/-- The corrections of a window stand at the integer parts of k x L / |c| (R9). -/
theorem carriesCorrection_iff (c : Int) (ticks position : Nat) :
    carriesCorrection c ticks position = true ↔
      ∃ k, 1 ≤ k ∧ k ≤ c.natAbs ∧ position = k * ticks / c.natAbs := by
  simp only [carriesCorrection, List.any_eq_true, List.mem_range, beq_iff_eq]
  constructor
  · rintro ⟨k, hk, e⟩
    exact ⟨k + 1, Nat.le_add_left 1 k, hk, e.symm⟩
  · rintro ⟨k, h1, hk, e⟩
    exact ⟨k - 1, by omega, by rw [Nat.sub_add_cancel h1, e]⟩

theorem Timebase.settled_of_running {t : Timebase} (h : t.position < t.windowTicks) : t.settled = t := by
  have running : t.windowEnded = false := decide_eq_false (Nat.not_le_of_lt h)
  simp [Timebase.settled, running]

theorem Timebase.settled_of_ended {t : Timebase} (h : t.windowTicks ≤ t.position) : t.settled = t.endWindow := by
  have ended : t.windowEnded = true := decide_eq_true h
  simp [Timebase.settled, ended]

/-- A tick inside a window (R1, R2). -/
theorem Timebase.advance_of_running {t : Timebase} (h : t.position < t.windowTicks) :
    t.advance =
      { t with
        elapsed := t.elapsed + 1
        position := t.position + 1
        device := clampTime (t.device +
          tickAmount t.trim.value (carriesCorrection t.trim.value t.windowTicks (t.position + 1))) } := by
  simp only [Timebase.advance, Timebase.settled_of_running h]

/-- Settles O13: the tick inside a window, with the amount of each of its three kinds. -/
theorem tickAdvances : Obligations.TickAdvances := by
  intro s running
  have advanced := Timebase.advance_of_running (t := s.time) running
  refine ⟨_, rfl, rfl, by simp only [advanced], by simp only [advanced], by simp only [advanced], ?_⟩
  intro correction hcorrection
  simp only [advanced] at hcorrection ⊢
  have carries := carriesCorrection_iff s.time.trim.value s.time.windowTicks (s.time.position + 1)
  have same : correction ↔ carriesCorrection s.time.trim.value s.time.windowTicks (s.time.position + 1) = true :=
    hcorrection.trans carries.symm
  refine ⟨fun no => ?_, fun yes positive => ?_, fun yes negative => ?_⟩
  · rw [Bool.eq_false_iff.2 (mt same.2 no)]
    rfl
  · rw [same.1 yes, tickAmount, if_pos rfl, if_pos positive]
    rfl
  · rw [same.1 yes, tickAmount, if_pos rfl, if_neg (by omega)]
    rfl

/-! ### Trims -/

theorem trimOf_ofInt {v : Int} (low : -127 ≤ v) (high : v ≤ 127) : trimOf (BitVec.ofInt 8 v).toNat = v := by
  have back : toByte (BitVec.ofInt 8 v).toNat = BitVec.ofInt 8 v := by
    rw [toByte, BitVec.ofNat_toNat, BitVec.setWidth_eq]
  rw [trimOf, back, BitVec.toInt_ofInt]
  exact Int.bmod_eq_of_le (by omega) (by omega)

/-- The body of a TIME_TRIM in range is read as the trim it spells (R10). -/
theorem readTimeTrim_spelled {v : Int} {w : Nat} (low : -127 ≤ v) (high : v ≤ 127) (h1 : 1 ≤ w) (h2 : w ≤ 65535) :
    readTimeTrim (BitVec.ofInt 8 v :: leBytes 2 w) = some ⟨v, w⟩ := by
  have value : trimOf (field (BitVec.ofInt 8 v :: leBytes 2 w) 0 1) = v := by
    rw [field_byte _ _ 0 rfl, trimOf_ofInt low high]
  have window : field (BitVec.ofInt 8 v :: leBytes 2 w) 1 2 = w :=
    leNat_leBytes 2 w (by omega)
  have inRange : (BitVec.ofInt 8 v :: leBytes 2 w).length = 3 ∧ -127 ≤ v ∧ w ≠ 0 := ⟨rfl, low, by omega⟩
  simp only [readTimeTrim, value, window]
  exact if_pos inRange

/-- A write of the Timebase alone. -/
def State.withTime (s : State) (g : Timebase → Timebase) : State := { s with time := g s.time }

theorem State.withTime_session (s : State) (g : Timebase → Timebase) (n : Nat) :
    (s.withTime g).session n = s.session n := rfl

theorem State.withTime_link (s : State) (g : Timebase → Timebase) (p : Port) : (s.withTime g).link p = s.link p := by
  cases p <;> rfl

theorem State.setSession_withTime (s : State) (g : Timebase → Timebase) (n : Nat) (r : Session) :
    (s.withTime g).setSession n r = (s.setSession n r).withTime g := by
  unfold State.setSession
  split <;> rfl

theorem State.setLink_withTime (s : State) (g : Timebase → Timebase) (p : Port) (l : Link) :
    (s.withTime g).setLink p l = (s.setLink p l).withTime g := by
  cases p <;> rfl

/-- Settles O11: TIME_TRIM writes the pending trim alone, and the end of a window is what the next TICK does first. -/
theorem trimPendsThenRules : Obligations.TrimPendsThenRules := by
  refine ⟨fun s p n h f rest v w received service low high h1 h2 body => ?_, fun s ended => ?_⟩
  · have rights : (s.arrived p n h rest).serviceRights n true = true := by
      obtain ⟨⟨_, _, _, _, live, _⟩, _⟩ := received
      simp [State.serviceRights, State.arrived_classOf live, service]
    have served : serveTimeTrim true n f.body (s.arrived p n h rest) =
        ((s.arrived p n h rest).withTime fun t => { t with pendingTrim := some ⟨v, w⟩ }, okWith []) := by
      simp only [serveTimeTrim, asService, rights, if_true, body, readTimeTrim_spelled low high h1 h2]
      rfl
    have taken := State.takeRequest_effect received (serveTimeTrim true) .ok [] _ served
      (fun t => t.withTime_session _ n) (fun t q => t.setSession_withTime _ n q) (fun t => t.withTime_link _ p)
      (fun t q => t.setLink_withTime _ p q)
    show Host.Outcome.next (s.takeRequest p 0x0A (serveTimeTrim true)) = _
    rw [taken, State.withTime, State.answered_time]
  · have settled : s.time.settled = s.time.endWindow := Timebase.settled_of_ended ended
    refine ⟨_, rfl, ?_, fun window => ?_⟩
    · rw [settled, Timebase.endWindow]
      cases s.time.pendingTrim <;> rfl
    · simp only [settled] at window ⊢
      have fresh : s.time.endWindow.settled = s.time.endWindow :=
        Timebase.settled_of_running (Nat.mul_pos window (by decide))
      show Host.Outcome.next { s with time := s.time.advance } =
        .next { s with time := s.time.endWindow.advance }
      rw [Timebase.advance, Timebase.advance, settled, fresh]

/-! ### TIME_SET -/

/-- A shifted time is moved by the jump and held between 0 and the greatest device time (R6). -/
theorem shiftTime_moves (old new x : Nat) (y : Int) (hy : y = (x : Int) + (new : Int) - (old : Int)) :
    (0 ≤ y → y ≤ (Config.maxTime : Int) → (shiftTime old new x : Int) = y) ∧ (y < 0 → shiftTime old new x = 0) ∧
      ((Config.maxTime : Int) < y → shiftTime old new x = Config.maxTime) := by
  unfold shiftTime clampTime
  refine ⟨fun _ _ => ?_, fun _ => ?_, fun _ => ?_⟩ <;> omega

theorem State.setTime_session (s : State) (new n : Nat) : (s.setTime new).session n = s.session n := rfl

theorem State.setTime_link (s : State) (new : Nat) (p : Port) : (s.setTime new).link p = s.link p := by
  cases p <;> rfl

theorem State.setSession_setTime (s : State) (new n : Nat) (r : Session) :
    (s.setTime new).setSession n r = (s.setSession n r).setTime new := by
  unfold State.setSession
  split <;> rfl

theorem State.setLink_setTime (s : State) (new : Nat) (p : Port) (l : Link) :
    (s.setTime new).setLink p l = (s.setLink p l).setTime new := by
  cases p <;> rfl

theorem State.setTime_outputAt {s : State} {c : Nat} {o : Output} (new : Nat) (h : s.outputAt c = some o) :
    (s.setTime new).outputAt c = some
      { o with
        release := o.release.map (shiftTime s.now new)
        lastOff := o.lastOff.map (shiftTime s.now new) } := by
  refine State.outputAt_of_chan ?_
  rw [State.setTime_chan, State.chan_of_outputAt h]
  rfl

theorem State.setTime_inputAt {s : State} {c : Nat} {i : Input} (new : Nat) (h : s.inputAt c = some i) :
    (s.setTime new).inputAt c = some
      { i with candidate := i.candidate.map fun k => { k with first := shiftTime s.now new k.first } } := by
  refine State.inputAt_of_chan ?_
  rw [State.setTime_chan, State.chan_of_inputAt h]
  rfl

theorem State.mem_setTime_queue (s : State) (new : Nat) (e : Entry) :
    e ∈ (s.setTime new).queue ↔ ∃ e₀ ∈ s.queue, e = { e₀ with phase := e₀.phase.shift (shiftTime s.now new) } := by
  show e ∈ sortEntries _ ↔ _
  rw [(sortEntries_perm _).mem_iff, List.mem_map]
  exact exists_congr fun _ => and_congr_right fun _ => eq_comm

/-- A trigger with its holdoff end shifted (R6). -/
def Trigger.shift (f : Nat → Nat) (r : Trigger) : Trigger := { r with state := r.state.shift f }

theorem State.setTime_trigger (s : State) (new i : Nat) :
    (s.setTime new).trigger i = (s.trigger i).map (Trigger.shift (shiftTime s.now new)) :=
  tget_map (Option.map (Trigger.shift (shiftTime s.now new))) s.triggers i none

theorem State.setTime_stop (s : State) (new : Nat) :
    (s.setTime new).stop =
      { s.stop with
        candidate := s.stop.candidate.map fun k => { k with first := shiftTime s.now new k.first } } := rfl

theorem State.setTime_time (s : State) (new : Nat) :
    (s.setTime new).time = { s.time with device := new, valid := true } := rfl

/-- TIME_SET accepted: the answered state with its time set (R5). -/
theorem execTimeSet_accepted {s : State} {p : Port} {n : Nat} {h : HostSession} {f : Frame} {rest : List Frame}
    (received : s.receives p n h f rest 0x09) (operator : h.cls ≠ .observer) (six : f.body.length = 6) :
    exec (.timeSet p) s = .next ((s.answered p n h f rest .ok (leBytes 6 s.now)).setTime (leNat f.body)) := by
  have notObserver : (s.arrived p n h rest).classOf n ≠ .observer := by
    obtain ⟨⟨_, _, _, _, live, _⟩, _⟩ := received
    rw [State.arrived_classOf live]
    exact operator
  have served : serveTimeSet n f.body (s.arrived p n h rest) =
      ((s.arrived p n h rest).setTime (leNat f.body), okWith (leBytes 6 s.now)) := by
    simp only [serveTimeSet, asOperator, if_neg notObserver, readTimeSet_eq six, State.arrived_now, u48]
  exact congrArg Host.Outcome.next (State.takeRequest_effect received serveTimeSet .ok (leBytes 6 s.now)
    (fun t => t.setTime (leNat f.body)) served (fun t => t.setTime_session _ n) (fun t q => t.setSession_setTime _ n q)
    (fun t => t.setTime_link _ p) fun t q => t.setLink_setTime _ p q)

/-- Settles O12: the times derived from a duration are shifted by the jump, and nothing else of them changes. -/
theorem timeSetMovesHeldTimes : Obligations.TimeSetMovesHeldTimes := by
  intro s p n h f rest received operator six
  have now : (s.answered p n h f rest .ok (leBytes 6 s.now)).now = s.now := by
    rw [State.now, State.answered_time]
    rfl
  have chan : ∀ c, (s.answered p n h f rest .ok (leBytes 6 s.now)).chan c = s.chan c := fun c => by
    rw [State.chan, State.answered_channels]
    rfl
  generalize ha : s.answered p n h f rest .ok (leBytes 6 s.now) = a at now chan
  refine ⟨shiftTime s.now (leNat f.body), a.setTime (leNat f.body), ha ▸ execTimeSet_accepted received operator six,
    fun x _ y hy => shiftTime_moves s.now (leNat f.body) x y hy, fun c o ho => ?_, fun c i hi => ?_, fun e => ?_,
    fun i => ?_, ?_, ?_, ?_, ?_⟩
  · rw [← now]
    exact State.setTime_outputAt _ (State.outputAt_of_chan ((chan c).trans (State.chan_of_outputAt ho)))
  · rw [← now]
    exact State.setTime_inputAt _ (State.inputAt_of_chan ((chan c).trans (State.chan_of_inputAt hi)))
  · rw [State.mem_setTime_queue, now, ← ha, State.answered_queue]
    refine exists_congr fun e₀ => and_congr_right fun _ => ?_
    cases hp : e₀.phase <;> rfl
  · rw [State.setTime_trigger, now]
    have : a.trigger i = s.trigger i := by rw [← ha, State.trigger, State.answered_triggers]; rfl
    rw [this]
    refine congrArg (Option.map · _) (funext fun r => ?_)
    unfold Trigger.shift
    cases r.state <;> rfl
  · show a.inFlight.map _ = _
    rw [now, ← ha, State.answered_inFlight]
  · rw [State.setTime_stop, now, ← ha, State.answered_stop]
  · rw [State.setTime_time, ← ha, State.answered_time]
  · rfl

/-! ### Held times -/

/-- A drive without a release time is what R21 makes of the output, with its pins at the level's presentation. -/
theorem State.driveOutput_eq (s : State) (c : Nat) (o : Output) (l : Level) :
    s.driveOutput c o l none =
      (s.setChan c (.output (o.drivenTo l s.now s.elapsed))).setPins o.cfg.pins (.driving c (o.cfg.presents l)) :=
  rfl

/-- Settles O24: a holdoff end and a release time are taken once they are reached, and not before. -/
theorem heldTimesReached : Obligations.HeldTimesReached := by
  refine ⟨fun s i r k hr hk => ?_, fun s c k o ho hk hf => ?_⟩
  · have taken : exec (.holdoffEnd i) s =
        if s.reached k then .next (s.setTrigger i (some { r with state := .ready })) else .next s := by
      simp only [exec, execHoldoffEnd, hr, hk]
    rw [taken]
    exact ⟨fun reached => if_pos (decide_eq_true reached),
      fun early => if_neg (by simpa [State.reached] using early)⟩
  · have taken : exec (.pulseRelease c) s =
        if s.reached k = true ∧ o.isFaulted = false then .next (s.driveOutput c o .inactive none) else .next s := by
      simp only [exec, execPulseRelease, State.chan_of_outputAt ho, hk]
    rw [taken, ← State.driveOutput_eq]
    exact ⟨fun reached => if_pos ⟨decide_eq_true reached, hf⟩,
      fun early => if_neg fun ⟨reached, _⟩ => Nat.not_le_of_lt early (of_decide_eq_true reached)⟩

end Sys2Proof.Machine
end

section
/-!
The resets: what a soft and a hard reset leave (R13, R36, R73, R87, R104, R116, R142, R174, R189 to R191), and the laws
that the reset state keeps.
-/

namespace Sys2Proof.Machine

/-! ### The reset state, read -/

theorem State.reset_pin (q : Nat) : State.reset.pin q = .isolated := tget_replicate _ _ _

theorem State.reset_interlock (i : Nat) : State.reset.interlock i = none := tget_replicate _ _ _

theorem State.reset_trigger (i : Nat) : State.reset.trigger i = none := tget_replicate _ _ _

theorem State.reset_slot (k : Nat) : State.reset.slot k = Slot.factory := tget_replicate _ _ _

theorem State.reset_outputAt (c : Nat) : State.reset.outputAt c = none := by
  rw [State.outputAt, State.reset_chan]

theorem State.reset_inputAt (c : Nat) : State.reset.inputAt c = none := by
  rw [State.inputAt, State.reset_chan]

/-! ### The laws of the reset state -/

theorem State.reset_stop_lawful : State.reset.stop.lawful :=
  ⟨rfl, fun _ => ⟨rfl, rfl⟩, by decide, by decide, by decide, fun k e => nomatch e⟩

theorem State.reset_pinsAgree : State.reset.pinsAgree := by
  refine ⟨fun p c x => ?_, fun p c => ?_, fun c o h => ?_⟩
  · simp [State.reset_pin, State.reset_outputAt]
  · simp [State.reset_pin, State.reset_inputAt]
  · rw [State.reset_outputAt] at h
    cases h

theorem State.reset_pairsKept : State.reset.pairsKept := by
  refine ⟨fun c o h => ?_, fun i r h => ?_⟩
  · rw [State.reset_outputAt] at h
    cases h
  · rw [State.reset_interlock] at h
    cases h

theorem State.reset_queueLawful : State.reset.queueLawful :=
  ⟨List.Pairwise.nil, List.nodup_nil, fun _ h => absurd h List.not_mem_nil, List.nodup_nil,
    fun _ h => absurd h List.not_mem_nil, by decide, by decide, by decide, fun _ => Nat.zero_le _⟩

theorem State.reset_ownershipLawful : State.reset.ownershipLawful := by
  refine ⟨fun _ h => absurd h List.not_mem_nil, fun t r h => ?_, fun c m h => ?_, fun c i m h => ?_, fun _ h => (nomatch h),
    fun _ h => (nomatch h), fun h => (nomatch h)⟩
  · rw [State.reset_trigger] at h
    cases h
  · rw [State.reset_chan] at h
    cases h
  · rw [State.reset_inputAt] at h
    cases h

theorem State.reset_sessionsLawful : State.reset.sessionsLawful := by
  refine ⟨fun n h e => ?_, fun n e => ?_, fun n m h g e => ?_, fun n m h g e => ?_⟩
  all_goals
    rw [State.reset_session] at e
    cases e

theorem Slot.factory_lawful : Slot.factory.lawful :=
  ⟨fun e => (nomatch e), fun _ => rfl, fun _ => ⟨rfl, rfl, rfl⟩, by decide⟩

theorem State.reset_storeLawful : State.reset.storeLawful := by
  intro k _
  refine ⟨?_, by rw [State.reset_slot]; exact Slot.factory_lawful⟩
  show (State.reset.slot k).state ≠ .erasing ∧ (State.reset.slot k).state ≠ .programming
  rw [State.reset_slot]
  exact ⟨by decide, by decide⟩

theorem State.reset_resetLawful : State.reset.resetLawful := by
  refine ⟨fun _ => ⟨rfl, rfl⟩, fun _ => rfl, fun f _ h => ?_⟩
  rcases h with h | h | h | h <;> cases h

/-- Settles O52: nothing is bound, held, open or on its way after a hard reset. -/
theorem resetIsLawful : Obligations.ResetIsLawful :=
  ⟨Timebase.reset_lawful, State.reset_stop_lawful, State.reset_pinsAgree, State.reset_pairsKept,
    State.lastOffPast_of_unbound rfl, State.reset_queueLawful, State.reset_ownershipLawful, State.reset_reportsLawful,
    State.reset_sessionsLawful, State.reset_storeLawful, State.reset_resetLawful, Link.reset_lawful,
    Link.reset_lawful⟩

/-! ### Soft and hard reset -/

/-- The state that HARD_RESET leaves (R12, R174, R191). -/
def State.hardReset (s : State) (b1 b0 : Bool) (level : SupplyLevel) (found : List (Nat × List Byte)) : State :=
  { s.softReset with
    time := Timebase.reset
    stop := StopControl.reset 0
    slots := s.scannedSlots found
    store := .idle
    supply := level
    linkA := Link.reset
    linkB := Link.reset
    rxA := ⟨.hunt, 0⟩
    baud := (b1, b0) }

theorem exec_hardReset (s : State) (b1 b0 : Bool) (level : SupplyLevel) (found : List (Nat × List Byte)) :
    exec (.hardReset b1 b0 level found) s = .next (s.hardReset b1 b0 level found) := rfl

/-- One slot is judged by the scan on the bytes found for it (R174). -/
theorem State.hardReset_slot (s : State) (b1 b0 : Bool) (level : SupplyLevel) (found : List (Nat × List Byte)) {k : Nat}
    (h : k < 8) : (s.hardReset b1 b0 level found).slot k =
      (s.slot k).scanned ((found.lookup k).getD (s.slot k).contents) := by
  simp [State.hardReset, State.slot, State.scannedSlots, tget, h]

/-- Settles O48: both resets are the reset state but for the fields that their rules name. -/
theorem resetsClear : Obligations.ResetsClear := by
  intro s b1 b0 level found
  refine ⟨_, exec_hardReset s b1 b0 level found, ?_, rfl, rfl, rfl, rfl, rfl, rfl, rfl, rfl, rfl, ?_, rfl, ?_, rfl, rfl,
    rfl, ?_⟩
  · rintro u (rfl | rfl)
    all_goals
      exact ⟨State.reset_pin, State.reset_chan, rfl, rfl, rfl, rfl, rfl, rfl, rfl, State.reset_interlock,
        State.reset_trigger, rfl, rfl, rfl, rfl, rfl, rfl, rfl, rfl,
        fun n => ⟨State.reset_session n, State.reset_reportQueue n⟩, rfl, rfl, rfl, rfl, rfl, rfl, rfl, rfl, rfl,
        congrArg (Option.map _), fun _ => congrArg (Option.map _), congrArg (Option.map _),
        fun _ => congrArg (Option.map _), fun p => by cases p <;> exact ⟨rfl, rfl, rfl⟩⟩
  · intro p
    cases p <;> exact ⟨rfl, rfl⟩
  · intro p
    cases p <;> exact ⟨rfl, rfl⟩
  · rintro k r bytes hk rfl rfl
    rw [State.hardReset_slot _ _ _ _ _ hk, Slot.scanned]
    cases (s.slot k).state <;> rfl

end Sys2Proof.Machine
end

section
/-!
Queries: the fields of their replies, and that they change nothing but the bookkeeping of their own session (R4, R35,
R52, R79, R93, R125, R173, R188, R192, R193).
-/

namespace Sys2Proof.Machine

/-! ### Bodies of queries -/

theorem readChannelQuery_spelled {first count : Nat} (h : first ≤ 31) (h1 : 1 ≤ count) (h2 : count ≤ 32) :
    readChannelQuery [BitVec.ofNat 8 first, BitVec.ofNat 8 count] = some (first, count) := by
  have hfirst : field [BitVec.ofNat 8 first, BitVec.ofNat 8 count] 0 1 = first :=
    (field_byte _ _ 0 rfl).trans (toByte_toNat first (by omega))
  have hcount : field [BitVec.ofNat 8 first, BitVec.ofNat 8 count] 1 1 = count :=
    (field_byte _ _ 1 rfl).trans (toByte_toNat count (by omega))
  simp only [readChannelQuery, hfirst, hcount]
  exact if_pos ⟨rfl, h, h1, h2⟩

theorem readTriggerQuery_spelled {first count : Nat} (h : first ≤ 15) (h1 : 1 ≤ count) (h2 : count ≤ 16) :
    readTriggerQuery [BitVec.ofNat 8 first, BitVec.ofNat 8 count] = some (first, count) := by
  have hfirst : field [BitVec.ofNat 8 first, BitVec.ofNat 8 count] 0 1 = first :=
    (field_byte _ _ 0 rfl).trans (toByte_toNat first (by omega))
  have hcount : field [BitVec.ofNat 8 first, BitVec.ofNat 8 count] 1 1 = count :=
    (field_byte _ _ 1 rfl).trans (toByte_toNat count (by omega))
  simp only [readTriggerQuery, hfirst, hcount]
  exact if_pos ⟨rfl, h, h1, h2⟩

theorem readQueueQuery_spelled {first count filter : Nat} (h : first ≤ 511) (h1 : 1 ≤ count) (h2 : count ≤ 512)
    (h3 : filter ≤ 5) :
    readQueueQuery (leBytes 2 first ++ leBytes 2 count ++ [BitVec.ofNat 8 filter]) = some (first, count, filter) := by
  have hfirst : field (leBytes 2 first ++ leBytes 2 count ++ [BitVec.ofNat 8 filter]) 0 2 = first := by
    rw [List.append_assoc]
    exact field_leBytes 2 first _ (by omega)
  have hcount : field (leBytes 2 first ++ leBytes 2 count ++ [BitVec.ofNat 8 filter]) 2 2 = count :=
    (field_of_split _ _ _ 2 2 rfl rfl).trans (leNat_leBytes 2 count (by omega))
  have hfilter : field (leBytes 2 first ++ leBytes 2 count ++ [BitVec.ofNat 8 filter]) 4 1 = filter :=
    (field_byte _ _ 4 rfl).trans (toByte_toNat filter (by omega))
  simp only [readQueueQuery, hfirst, hcount, hfilter]
  exact if_pos ⟨rfl, h, h1, h2, h3⟩

/-! ### Replies of a state in which a frame has been taken -/

theorem emptyQuery_nil (s : State) (fields : List Byte) : emptyQuery [] s fields = (s, okWith fields) := if_pos rfl

theorem State.statusBytes_congr {s t : State} (hstop : t.stop = s.stop) (htime : t.time = s.time)
    (hstore : t.store = s.store) (hsupply : t.supply = s.supply) (hstartup : t.startup = s.startup)
    (hqueue : t.queue = s.queue) (hsession : ∀ m, sessionBytes (t.session m) = sessionBytes (s.session m))
    (hlink : ∀ p, (t.link p).errors = (s.link p).errors ∧ (t.link p).overflows = (s.link p).overflows) :
    t.statusBytes = s.statusBytes := by
  obtain ⟨ea, oa⟩ := hlink .a
  obtain ⟨eb, ob⟩ := hlink .b
  simp only [State.link] at ea oa eb ob
  simp only [State.statusBytes, State.now, hstop, htime, hstore, hsupply, hstartup, hqueue, hsession, ea, oa, eb, ob]

/-- The counts of every port stay when a frame leaves a receive FIFO. -/
theorem State.setFifo_counts (s : State) (p : Port) (rest : List Frame) (x : Port) :
    ((s.setLink p { s.link p with fifo := rest }).link x).errors = (s.link x).errors ∧
      ((s.setLink p { s.link p with fifo := rest }).link x).overflows = (s.link x).overflows := by
  by_cases e : p = x
  · subst e
    rw [State.link_setLink_same]
    exact ⟨rfl, rfl⟩
  · rw [State.link_setLink_ne _ _ _ _ e]
    exact ⟨rfl, rfl⟩

section
variable {s : State} {p : Port} {n : Nat} {h : HostSession} {f : Frame} {rest : List Frame} {code : Byte}

/-- A restarted keepalive deadline does not show in STATUS. -/
theorem State.arrived_statusBytes (heard : s.hears p n h f rest code) :
    (s.arrived p n h rest).statusBytes = s.statusBytes := by
  obtain ⟨_, _, _, _, live, _, d, opened⟩ := heard
  refine State.statusBytes_congr (by simp) (by simp) (by simp) (by simp) (by simp) (by simp) (fun m => ?_) fun x => ?_
  · by_cases e : m = n
    · subst e
      rw [State.arrived_session live, live]
      simp [sessionBytes, Session.stateCode, Session.isOpen, Session.live, opened]
    · rw [State.arrived, State.setLink_session, State.session_setSession_ne _ _ _ _ (Ne.symm e)]
  · rw [State.arrived, ← State.setLink_setSession, State.setSession_link]
    exact s.setFifo_counts p rest x

theorem State.arrived_interlockReply : (s.arrived p n h rest).interlockReply = s.interlockReply := by
  simp only [State.interlockReply, State.arrived_interlock]

theorem State.arrived_planListReply : (s.arrived p n h rest).planListReply = s.planListReply := by
  simp only [State.planListReply, State.arrived_store, State.arrived_supply, State.arrived_build, State.arrived_slot]

theorem State.arrived_channelReply (first count : Nat) :
    (s.arrived p n h rest).channelReply first count = s.channelReply first count := by
  simp only [State.channelReply, State.arrived_chan]

theorem State.arrived_triggerReply (first count : Nat) :
    (s.arrived p n h rest).triggerReply first count = s.triggerReply first count := by
  simp only [State.triggerReply, State.arrived_triggerList]

theorem State.arrived_queueReply (first count filter : Nat) :
    (s.arrived p n h rest).queueReply first count filter = s.queueReply first count filter := by
  simp only [State.queueReply, State.filtered, State.arrived_queue, State.arrived_entriesOwned]

/-- A frame that names a session is not judged without one (R188). -/
theorem State.takeSessionless_heard (heard : s.hears p n h f rest code) (bare : List Byte → State → State × Answer)
    (serve : Service) : s.takeSessionless p code bare serve = s.takeRequest p code serve := by
  obtain ⟨can, hfifo, hkind, named, live, _⟩ := heard
  have notZero : f.ses ≠ 0 := by
    rintro zero
    have := (State.session_ne_zero live).1
    rw [← named, zero] at this
    exact absurd this (by decide)
  have taken := s.takeFrame_eq p (· == code) f rest can hfifo (beq_iff_eq.2 hkind)
  simp only [State.takeSessionless, State.takeRequest, taken, if_neg notZero]

/-- A query of empty body whose fields the arrival leaves as they are. -/
theorem State.takeRequest_emptyQuery (received : s.receives p n h f rest code) (body : f.body = [])
    (fields : State → List Byte) (same : fields (s.arrived p n h rest) = fields s) :
    s.takeRequest p code (fun _ body s => emptyQuery body s (fields s)) = s.answered p n h f rest .ok (fields s) := by
  refine State.takeRequest_answered received _ .ok (fields s) ?_
  simp only [body, emptyQuery_nil, same]
  rfl

end

/-- A query with session 0 is answered without a session (R188). -/
theorem State.takeSessionless_bare {s : State} {p : Port} {f : Frame} {rest : List Frame} {code : Byte}
    (can : s.canTake p = true) (hfifo : (s.link p).fifo = f :: rest) (hkind : f.kind = code) (zero : f.ses = 0)
    (body : f.body = []) (fields : State → List Byte) (serve : Service)
    (same : fields (s.setLink p { s.link p with fifo := rest }) = fields s) :
    s.takeSessionless p code (fun body s => emptyQuery body s (fields s)) serve =
      s.setLink p
        { s.link p with
          fifo := rest
          replies := (s.link p).replies ++ [⟨⟨0, f.seq, code + 0x80, 0x00 :: fields s⟩, false⟩] } := by
  have taken := s.takeFrame_eq p (· == code) f rest can hfifo (beq_iff_eq.2 hkind)
  simp only [State.takeSessionless, taken, body, emptyQuery_nil, same, State.placeReply,
    State.link_setLink_same, State.setLink_setLink, replyFrame, zero, hkind]
  rfl

/-! ### The fields of the replies -/

theorem Timebase.reply_of_none {t : Timebase} (h : t.pendingTrim = none) :
    t.reply = leBytes 6 t.device ++ [if t.valid then 1 else 0] ++ [BitVec.ofInt 8 t.trim.value] ++
      leBytes 2 t.trim.window ++ [0, 0, 0, 0] := by
  unfold Timebase.reply
  rw [h]
  rfl

theorem Timebase.reply_of_some {t : Timebase} {r : Trim} (h : t.pendingTrim = some r) :
    t.reply = leBytes 6 t.device ++ [if t.valid then 1 else 0] ++ [BitVec.ofInt 8 t.trim.value] ++
      leBytes 2 t.trim.window ++ ([1] ++ [BitVec.ofInt 8 r.value] ++ leBytes 2 r.window) := by
  unfold Timebase.reply
  rw [h]
  simp only [Option.getD_some, List.append_assoc]
  rfl

theorem take_filterMap_of_isSome {α β : Type} {g : α → Option β} {l : List α} (h : ∀ a ∈ l, (g a).isSome = true)
    (n : Nat) : (l.filterMap g).take n = (l.take n).filterMap g := by
  induction l generalizing n with
  | nil => simp
  | cons a l ih =>
    obtain ⟨b, hb⟩ := Option.isSome_iff_exists.1 (h a (List.mem_cons_self ..))
    cases n with
    | zero => rfl
    | succ n => simp [hb, ih (fun x hx => h x (List.mem_cons_of_mem _ hx))]

/-- The positions of the trigger table that hold a record, in order (R88). -/
def State.heldTriggers (s : State) : List Nat := (List.range 16).filter fun i => (s.trigger i).isSome

/-- A held position with its record. -/
def State.numberedTrigger (s : State) (i : Nat) : Option (Nat × Trigger) := (s.trigger i).map fun r => (i, r)

theorem State.triggerList_eq (s : State) : s.triggerList = s.heldTriggers.filterMap s.numberedTrigger := by
  rw [State.heldTriggers, List.filterMap_filter, State.triggerList]
  refine List.filterMap_congr fun i _ => ?_
  unfold State.numberedTrigger
  cases s.trigger i <;> rfl

theorem State.numberedTrigger_isSome {s : State} {i : Nat} (h : i ∈ s.heldTriggers) :
    (s.numberedTrigger i).isSome = true := by
  rw [State.numberedTrigger, Option.isSome_map]
  exact (List.mem_filter.1 h).2

theorem State.length_triggerList (s : State) : s.triggerList.length = s.heldTriggers.length := by
  rw [State.triggerList_eq, List.filterMap_length_eq_length]
  exact fun i hi => State.numberedTrigger_isSome hi

/-- The records of TRIGGER_QUERY by the positions held (R93). -/
theorem State.triggerRecords_eq (s : State) (first count : Nat) :
    ((s.triggerList.filter fun x => first ≤ x.1).take count).map (fun x => triggerRecord x.1 x.2) =
      ((s.heldTriggers.filter fun i => decide (first ≤ i)).take count).filterMap fun i =>
        (s.trigger i).map (triggerRecord i) := by
  have fromFirst : (s.triggerList.filter fun x => first ≤ x.1) =
      (s.heldTriggers.filter fun i => decide (first ≤ i)).filterMap s.numberedTrigger := by
    rw [State.triggerList_eq, List.filter_filterMap, List.filterMap_filter]
    refine List.filterMap_congr fun i _ => ?_
    unfold State.numberedTrigger
    cases s.trigger i with
    | none => simp
    | some r => simp [Option.filter]
  rw [fromFirst, take_filterMap_of_isSome fun i hi => State.numberedTrigger_isSome (List.mem_of_mem_filter hi),
    List.map_filterMap]
  refine List.filterMap_congr fun i _ => ?_
  rw [State.numberedTrigger, Option.map_map]
  rfl

theorem State.filtered_eq (s : State) (filter : Nat) :
    s.filtered filter = s.queue.filter fun e => decide (filter = 0 ∨ e.owner = filter) :=
  List.filter_congr fun e _ => by simp [Bool.beq_eq_decide_eq]

theorem State.queueReply_eq (s : State) (first count filter : Nat) (sent : List (List Byte))
    (h : sent = takeFitting 231 ((((s.filtered filter).drop first).take count).map entryRecord)) :
    s.queueReply first count filter = leBytes 2 s.queue.length ++ leBytes 2 (s.entriesOwned 1) ++
      leBytes 2 (s.entriesOwned 2) ++ leBytes 2 (s.entriesOwned 3) ++ leBytes 2 (s.entriesOwned 4) ++
      leBytes 2 (s.entriesOwned 5) ++ leBytes 2 (s.filtered filter).length ++ leBytes 2 sent.length ++
      sent.flatten := by
  subst h
  simp only [State.queueReply, sessionNumbers, List.map_cons, List.map_nil, List.flatten_cons, List.flatten_nil,
    List.append_assoc, List.append_nil]
  rfl

theorem supplyByte_eq (l : SupplyLevel) : u8 (supplyCode l) = [if l = .low then 1 else 0] := by
  cases l <;> rfl

/-- The fields of STATUS with those that belong together side by side (R193). -/
theorem State.statusBytes_grouped (s : State) : s.statusBytes =
    (u8 s.stop.run.code ++ causeSet s.stop.line s.stop.request) ++
      (presence 1 [s.stop.entryTime.map u48] ++ optBytes (s.stop.entryTime.map u48)) ++
      u48 s.now ++ flag s.time.valid ++
      (u8 s.store.stateCode ++ orFF s.store.slot? ++ orFF s.store.kindCode? ++ orFF s.store.session?) ++
      u8 (supplyCode s.supply) ++ startupBytes s.startup ++
      (sessionNumbers.map fun n => sessionBytes (s.session n)).flatten ++ u16 s.queue.length ++
      u16 s.linkA.errors ++ u16 s.linkA.overflows ++ u16 s.linkB.errors ++ u16 s.linkB.overflows := by
  simp only [State.statusBytes, List.append_assoc]

theorem stopBytes_eq (c : StopControl) :
    u8 c.run.code ++ causeSet c.line c.request =
      [if c.run = .stopped then 1 else 0,
        BitVec.ofNat 8 ((if c.line then 1 else 0) + if c.request then 2 else 0)] := by
  cases c.run <;> rfl

theorem append_congr {a b c d : List Byte} (h : a = c) (k : b = d) : a ++ b = c ++ d := by rw [h, k]

/-- Settles O7: each query is answered with its fields, and each reply is the layout of its rule. -/
theorem queriesReply : Obligations.QueriesReply := by
  refine ⟨fun s p n h f rest body => ⟨fun received => ?_, fun received => ?_, fun received => ?_, fun received => ?_,
    fun received => ?_, fun received => ?_⟩, fun s p n h f rest first count filter => ⟨?_, ?_, ?_⟩,
    fun s p f rest can hfifo zero body => ⟨fun kind => ?_, fun kind => ?_⟩, fun s => ⟨?_, ?_, ?_, ?_, ?_, ?_⟩, rfl⟩
  · exact congrArg Host.Outcome.next (State.takeRequest_emptyQuery received body (fun _ => []) rfl)
  · refine (congrArg Host.Outcome.next (State.takeRequest_emptyQuery received body (fun t => t.time.reply)
      (congrArg Timebase.reply (s.arrived_time p n h rest)))).trans ?_
    refine congrArg (Host.Outcome.next <| s.answered p n h f rest .ok ·) ?_
    cases pending : s.time.pendingTrim with
    | none => exact Timebase.reply_of_none pending
    | some r => exact Timebase.reply_of_some pending
  · exact congrArg Host.Outcome.next
      (State.takeRequest_emptyQuery received body State.interlockReply State.arrived_interlockReply)
  · exact congrArg Host.Outcome.next
      (State.takeRequest_emptyQuery received body State.planListReply State.arrived_planListReply)
  · exact congrArg Host.Outcome.next ((State.takeSessionless_heard received.1 _ _).trans
      (State.takeRequest_emptyQuery received body (fun _ => identifyBytes) rfl))
  · exact congrArg Host.Outcome.next ((State.takeSessionless_heard received.1 _ _).trans
      (State.takeRequest_emptyQuery received body State.statusBytes (State.arrived_statusBytes received.1)))
  · intro received h1 h2 h3 body
    refine congrArg Host.Outcome.next (State.takeRequest_answered received serveChannelQuery .ok _ ?_)
    simp only [serveChannelQuery, body, readChannelQuery_spelled h1 h2 h3, State.arrived_channelReply]
    rfl
  · intro received h1 h2 h3 body
    refine congrArg Host.Outcome.next (State.takeRequest_answered received serveTriggerQuery .ok _ ?_)
    simp only [serveTriggerQuery, body, readTriggerQuery_spelled h1 h2 h3, State.arrived_triggerReply]
    rfl
  · intro received h1 h2 h3 h4 body
    refine congrArg Host.Outcome.next (State.takeRequest_answered received serveQueueQuery .ok _ ?_)
    simp only [serveQueueQuery, body, readQueueQuery_spelled h1 h2 h3 h4, State.arrived_queueReply]
    rfl
  · exact congrArg Host.Outcome.next
      (State.takeSessionless_bare can hfifo kind zero body (fun _ => identifyBytes) _ rfl)
  · refine congrArg Host.Outcome.next (State.takeSessionless_bare can hfifo kind zero body State.statusBytes _ ?_)
    exact State.statusBytes_congr (by simp) (by simp) (by simp) (by simp) (by simp) (by simp) (fun m => by simp)
      (s.setFifo_counts p rest)
  · rintro _ rfl
    rfl
  · exact fun first count => ⟨_, takeFitting_fitsFirst 246 _, rfl⟩
  · rintro first count _ rfl
    refine ⟨_, takeFitting_fitsFirst 245 _, ?_⟩
    show u8 s.triggerList.length ++ _ ++ _ = _
    rw [s.triggerRecords_eq first count, s.length_triggerList]
    rfl
  · rintro first count filter _ rfl
    refine ⟨_, takeFitting_fitsFirst 231 _, ?_⟩
    rw [← s.filtered_eq filter]
    exact s.queueReply_eq first count filter _ rfl
  · rintro _ rfl
    refine ⟨_, takeFitting_fitsFirst _ _, ?_⟩
    rw [← supplyByte_eq]
    rfl
  · rw [s.statusBytes_grouped, stopBytes_eq, supplyByte_eq]
    refine append_congr (append_congr (append_congr (append_congr (append_congr (append_congr (append_congr
      (append_congr (append_congr (append_congr (append_congr (append_congr rfl ?_) rfl) rfl) ?_) rfl) ?_) ?_) rfl) rfl)
      rfl) rfl) rfl
    · cases s.stop.entryTime <;> rfl
    · cases s.store <;> rfl
    · cases s.startup <;> rfl
    · refine congrArg List.flatten (List.map_congr_left fun n _ => ?_)
      cases s.session n with
      | free => rfl
      | localSession => rfl
      | host x =>
        obtain ⟨port, cls, tag, interval, life, expected, last⟩ := x
        cases life <;> cases port <;> rfl

end Sys2Proof.Machine
end

section
/-!
Pins and interlocked pairs, drive by drive: what keeps the pin records in agreement with the channel records (R14, R22),
and what keeps interlocked pairs from being ACTIVE together and outputs at rest (R23, R26, R84, R85, R110).
-/

namespace Sys2Proof.Machine

theorem State.outputAt_eq_some (s : State) (c : Nat) (o : Output) : s.outputAt c = some o ↔ s.chan c = .output o :=
  ⟨State.chan_of_outputAt, State.outputAt_of_chan⟩

theorem State.inputAt_eq_some (s : State) (c : Nat) (i : Input) : s.inputAt c = some i ↔ s.chan c = .input i :=
  ⟨State.chan_of_inputAt, State.inputAt_of_chan⟩

/-! ### What pins and pairs see of a channel -/

/-- Pins and interlocks see no difference: the kind of the channel, its pins, its level and whether it is FAULTED are
the same, and no release time has come up. -/
def Channel.sameFace (r r' : Channel) : Prop :=
  match r, r' with
  | .unbound, .unbound => True
  | .output o, .output o' =>
    o'.cfg = o.cfg ∧ o'.level = o.level ∧ o'.isFaulted = o.isFaulted ∧ (o.release = none → o'.release = none)
  | .input i, .input i' => i'.pin = i.pin
  | _, _ => False

@[refl] theorem Channel.sameFace.refl (r : Channel) : r.sameFace r := by
  cases r with
  | unbound => trivial
  | output o => exact ⟨rfl, rfl, rfl, id⟩
  | input i => rfl

/-- The kind of the channel is the same before and after. -/
theorem Channel.sameFace.cases {r r' : Channel} (h : r.sameFace r') :
    (r = .unbound ∧ r' = .unbound) ∨
      (∃ o o', r = .output o ∧ r' = .output o' ∧ o'.cfg = o.cfg ∧ o'.level = o.level ∧ o'.isFaulted = o.isFaulted ∧
        (o.release = none → o'.release = none)) ∨
      ∃ i i', r = .input i ∧ r' = .input i' ∧ i'.pin = i.pin := by
  cases r with
  | unbound =>
    cases r' with
    | unbound => exact .inl ⟨rfl, rfl⟩
    | _ => exact h.elim
  | output o =>
    cases r' with
    | output o' => exact .inr (.inl ⟨o, o', rfl, rfl, h⟩)
    | _ => exact h.elim
  | input i =>
    cases r' with
    | input i' => exact .inr (.inr ⟨i, i', rfl, rfl, h⟩)
    | _ => exact h.elim

theorem Channel.sameFace.output {r : Channel} {o' : Output} (h : r.sameFace (.output o')) :
    ∃ o, r = .output o ∧ o'.cfg = o.cfg ∧ o'.level = o.level ∧ o'.isFaulted = o.isFaulted ∧
      (o.release = none → o'.release = none) := by
  rcases h.cases with ⟨-, e⟩ | ⟨o, o'', rfl, e, same⟩ | ⟨i, i', -, e, -⟩
  · cases e
  · cases e
    exact ⟨o, rfl, same⟩
  · cases e

theorem Channel.sameFace.output_after {r' : Channel} {o : Output} (h : (Channel.output o).sameFace r') :
    ∃ o', r' = .output o' ∧ o'.cfg = o.cfg := by
  rcases h.cases with ⟨e, -⟩ | ⟨o', o'', e, rfl, cfg, -⟩ | ⟨i, i', e, -⟩
  · cases e
  · cases e
    exact ⟨o'', rfl, cfg⟩
  · cases e

/-! ### Pins -/

/-- The channel is an output whose pin `p` presents `x` (R22). -/
def Channel.drivesAt (r : Channel) (p : Nat) (x : PinOut) : Prop :=
  match r with
  | .output o => p ∈ o.cfg.pins ∧ x = o.cfg.presents o.level
  | _ => False

/-- The channel is an input on pin `p`. -/
def Channel.sensesAt (r : Channel) (p : Nat) : Prop :=
  match r with
  | .input i => i.pin = p
  | _ => False

/-- An output has one to three pins, none of them twice (R17). -/
def Channel.pinsInRange (r : Channel) : Prop :=
  match r with
  | .output o => 1 ≤ o.cfg.pins.length ∧ o.cfg.pins.length ≤ 3 ∧ o.cfg.pins.Nodup
  | _ => True

theorem State.pinsAgree_iff (s : State) : s.pinsAgree ↔
    (∀ p c x, s.pin p = .driving c x ↔ (s.chan c).drivesAt p x) ∧ (∀ p c, s.pin p = .sensing c ↔ (s.chan c).sensesAt p) ∧
      ∀ c, (s.chan c).pinsInRange := by
  refine and_congr ?_ (and_congr ?_ ?_)
  · refine forall_congr' fun p => forall_congr' fun c => forall_congr' fun x => iff_congr Iff.rfl ?_
    simp only [State.outputAt_eq_some]
    cases s.chan c <;> simp [Channel.drivesAt]
  · refine forall_congr' fun p => forall_congr' fun c => iff_congr Iff.rfl ?_
    simp only [State.inputAt_eq_some]
    cases s.chan c <;> simp [Channel.sensesAt]
  · refine forall_congr' fun c => ?_
    simp only [State.outputAt_eq_some]
    cases s.chan c <;> simp [Channel.pinsInRange]

theorem Channel.sameFace.drivesAt {r r' : Channel} (h : r.sameFace r') (p : Nat) (x : PinOut) :
    r'.drivesAt p x ↔ r.drivesAt p x := by
  rcases h.cases with ⟨rfl, rfl⟩ | ⟨o, o', rfl, rfl, cfg, level, -⟩ | ⟨i, i', rfl, rfl, -⟩
  · rfl
  · simp [Channel.drivesAt, cfg, level]
  · rfl

theorem Channel.sameFace.sensesAt {r r' : Channel} (h : r.sameFace r') (p : Nat) : r'.sensesAt p ↔ r.sensesAt p := by
  rcases h.cases with ⟨rfl, rfl⟩ | ⟨o, o', rfl, rfl, -⟩ | ⟨i, i', rfl, rfl, pin⟩
  · rfl
  · rfl
  · simp [Channel.sensesAt, pin]

theorem Channel.sameFace.pinsInRange {r r' : Channel} (h : r.sameFace r') : r'.pinsInRange ↔ r.pinsInRange := by
  rcases h.cases with ⟨rfl, rfl⟩ | ⟨o, o', rfl, rfl, cfg, -⟩ | ⟨i, i', rfl, rfl, -⟩
  · rfl
  · simp [Channel.pinsInRange, cfg]
  · rfl

/-- Pins stay in agreement while no channel changes its face. -/
theorem State.pinsAgree_of_faces {s t : State} (hp : ∀ p, t.pin p = s.pin p) (hc : ∀ c, (s.chan c).sameFace (t.chan c))
    (h : s.pinsAgree) : t.pinsAgree := by
  rw [State.pinsAgree_iff] at h ⊢
  obtain ⟨hdrive, hsense, hrange⟩ := h
  refine ⟨fun p c x => ?_, fun p c => ?_, fun c => ?_⟩
  · rw [hp, hdrive, (hc c).drivesAt]
  · rw [hp, hsense, (hc c).sensesAt]
  · rw [(hc c).pinsInRange]
    exact hrange c

theorem State.pin_out (s : State) (p : Nat) (h : 24 ≤ p) : s.pin p = .isolated := tget_out _ _ _ h

/-- A pin that is in use has one of the 24 numbers. -/
theorem State.pin_lt {s : State} {p : Nat} (h : s.pin p ≠ .isolated) : p < 24 := by
  by_contra out
  exact h (s.pin_out p (Nat.le_of_not_lt out))

/-- A record written to pins that no other channel has, and to all that this channel had: the channel then has exactly
those pins. -/
theorem State.pinsAgree_replace {s t : State} {c : Nat} {ps : List Nat} {rec : PinRec} (h : s.pinsAgree)
    (pin : ∀ p, t.pin p = if p ∈ ps then rec else s.pin p) (other : ∀ d, d ≠ c → t.chan d = s.chan d)
    (free : ∀ p ∈ ps, ∀ d, d ≠ c → (∀ x, s.pin p ≠ .driving d x) ∧ s.pin p ≠ .sensing d)
    (freed : ∀ p, p ∉ ps → (∀ x, s.pin p ≠ .driving c x) ∧ s.pin p ≠ .sensing c)
    (drives : ∀ p x, (t.chan c).drivesAt p x ↔ p ∈ ps ∧ rec = .driving c x)
    (senses : ∀ p, (t.chan c).sensesAt p ↔ p ∈ ps ∧ rec = .sensing c) (range : (t.chan c).pinsInRange)
    (own : ∀ d, d ≠ c → (∀ x, rec ≠ .driving d x) ∧ rec ≠ .sensing d) : t.pinsAgree := by
  rw [State.pinsAgree_iff] at h ⊢
  obtain ⟨hdrive, hsense, hrange⟩ := h
  refine ⟨fun p d x => ?_, fun p d => ?_, fun d => ?_⟩
  · rw [pin]
    by_cases e : d = c
    · subst e
      rw [drives]
      by_cases hp : p ∈ ps <;> simp [hp, freed]
    · rw [other d e, ← hdrive]
      by_cases hp : p ∈ ps
      · simp [hp, (own d e).1 x, (free p hp d e).1 x]
      · simp [hp]
  · rw [pin]
    by_cases e : d = c
    · subst e
      rw [senses]
      by_cases hp : p ∈ ps <;> simp [hp, freed]
    · rw [other d e, ← hsense]
      by_cases hp : p ∈ ps
      · simp [hp, (own d e).2, (free p hp d e).2]
      · simp [hp]
  · by_cases e : d = c
    · exact e ▸ range
    · rw [other d e]
      exact hrange d

theorem State.putOutput_chan (s : State) (c : Nat) (o : Output) (d : Nat) :
    (s.putOutput c o).chan d = if c = d ∧ d < 32 then .output o else s.chan d := by
  rw [State.putOutput, State.setPins_chan, State.chan_setChan]

theorem State.putOutput_pin (s : State) (c : Nat) (o : Output) (q : Nat) :
    (s.putOutput c o).pin q = if q ∈ o.cfg.pins ∧ q < 24 then .driving c (o.cfg.presents o.level) else s.pin q := by
  rw [State.putOutput, State.pin_setPins, State.pin_setChan]

theorem State.putOutput_chan_same (s : State) (c : Nat) (o : Output) (h : c < 32) :
    (s.putOutput c o).chan c = .output o := by
  rw [State.putOutput_chan, if_pos ⟨rfl, h⟩]

theorem State.putOutput_chan_ne (s : State) (c : Nat) (o : Output) {d : Nat} (h : d ≠ c) :
    (s.putOutput c o).chan d = s.chan d := by
  rw [State.putOutput_chan, if_neg fun k => h k.1.symm]

/-- The pins of an output are among the 24. -/
theorem State.outputPins_lt {s : State} (h : s.pinsAgree) {c : Nat} {o : Output} (e : s.chan c = .output o) {p : Nat}
    (hp : p ∈ o.cfg.pins) : p < 24 := by
  have driven := (h.1 p c _).2 ⟨o, State.outputAt_of_chan e, hp, rfl⟩
  exact State.pin_lt (by rw [driven]; exact fun k => nomatch k)

/-- An output written with its pin list as it was, every pin set to present its level (R22). -/
theorem State.pinsAgree_putOutput {s : State} {c : Nat} {o o' : Output} (h : s.pinsAgree) (e : s.chan c = .output o)
    (cfg : o'.cfg = o.cfg) : (s.putOutput c o').pinsAgree := by
  have lt := s.lt_of_bound (c := c) (by simp [e])
  obtain ⟨hdrive, hsense, hrange⟩ := s.pinsAgree_iff.1 h
  have mine : ∀ p, p ∈ o.cfg.pins → s.pin p = .driving c (o.cfg.presents o.level) := fun p hp =>
    (hdrive p c _).2 (by rw [e]; exact ⟨hp, rfl⟩)
  refine State.pinsAgree_replace (c := c) (ps := o.cfg.pins) (rec := .driving c (o'.cfg.presents o'.level)) h ?_
    (fun d hd => s.putOutput_chan_ne c o' hd) ?_ ?_ ?_ ?_ ?_ ?_
  · intro p
    rw [State.putOutput_pin, cfg]
    exact if_congr (and_iff_left_of_imp fun hp => State.outputPins_lt h e hp) rfl rfl
  · intro p hp d hd
    rw [mine p hp]
    simp [hd.symm]
  · intro p hp
    refine ⟨fun x k => hp ?_, fun k => ?_⟩
    · rw [hdrive, e] at k
      exact k.1
    · rw [hsense, e] at k
      exact k
  · intro p x
    rw [State.putOutput_chan_same _ _ _ lt]
    simp [Channel.drivesAt, cfg, eq_comm]
  · intro p
    rw [State.putOutput_chan_same _ _ _ lt]
    simp [Channel.sensesAt]
  · rw [State.putOutput_chan_same _ _ _ lt]
    have := hrange c
    rw [e] at this
    simpa [Channel.pinsInRange, cfg] using this
  · intro d hd
    simp [hd.symm]

theorem State.unbound_pins {s : State} (h : s.pinsAgree) {c : Nat} (e : s.chan c = .unbound) (p : Nat) :
    (∀ x, s.pin p ≠ .driving c x) ∧ s.pin p ≠ .sensing c := by
  obtain ⟨hdrive, hsense, -⟩ := s.pinsAgree_iff.1 h
  refine ⟨fun x k => ?_, fun k => ?_⟩
  · rw [hdrive, e] at k
    exact k
  · rw [hsense, e] at k
    exact k

/-- A new output on pins that are ISOLATED (R17, R18). -/
theorem State.pinsAgree_bindOutput {s : State} {c : Nat} {o : Output} (h : s.pinsAgree) (e : s.chan c = .unbound)
    (lt : c < 32) (range : (Channel.output o).pinsInRange) (free : ∀ p ∈ o.cfg.pins, p < 24 ∧ s.pin p = .isolated) :
    (s.putOutput c o).pinsAgree := by
  refine State.pinsAgree_replace (c := c) (ps := o.cfg.pins) (rec := .driving c (o.cfg.presents o.level)) h ?_
    (fun d hd => s.putOutput_chan_ne c o hd) ?_ (fun p _ => State.unbound_pins h e p) ?_ ?_ ?_ ?_
  · intro p
    rw [State.putOutput_pin]
    exact if_congr (and_iff_left_of_imp fun hp => (free p hp).1) rfl rfl
  · intro p hp d _
    simp [(free p hp).2]
  · intro p x
    rw [State.putOutput_chan_same _ _ _ lt]
    simp [Channel.drivesAt, eq_comm]
  · intro p
    rw [State.putOutput_chan_same _ _ _ lt]
    simp [Channel.sensesAt]
  · rw [State.putOutput_chan_same _ _ _ lt]
    exact range
  · intro d hd
    simp [hd.symm]

/-- A new input on a pin that is ISOLATED (R17, R19). -/
theorem State.pinsAgree_bindInput {s : State} {c : Nat} {i : Input} (h : s.pinsAgree) (e : s.chan c = .unbound)
    (lt : c < 32) (free : i.pin < 24 ∧ s.pin i.pin = .isolated) :
    ((s.setChan c (.input i)).setPins [i.pin] (.sensing c)).pinsAgree := by
  have here : ((s.setChan c (.input i)).setPins [i.pin] (.sensing c)).chan c = .input i := by
    rw [State.setPins_chan, State.chan_setChan_same _ _ _ lt]
  refine State.pinsAgree_replace (c := c) (ps := [i.pin]) (rec := .sensing c) h ?_ ?_ ?_
    (fun p _ => State.unbound_pins h e p) ?_ ?_ ?_ ?_
  · intro p
    rw [State.pin_setPins, State.pin_setChan]
    refine if_congr (and_iff_left_of_imp fun hp => ?_) rfl rfl
    rw [List.mem_singleton.1 hp]
    exact free.1
  · intro d hd
    rw [State.setPins_chan, State.chan_setChan_ne _ _ _ _ hd.symm]
  · intro p hp d _
    rw [List.mem_singleton.1 hp]
    simp [free.2]
  · simp [here, Channel.drivesAt]
  · simp [here, Channel.sensesAt, eq_comm]
  · rw [here]
    trivial
  · intro d hd
    simp [hd.symm]

/-- The pins that a channel has (R14). -/
theorem State.mem_pins_iff {s : State} (h : s.pinsAgree) (c p : Nat) :
    p ∈ (s.chan c).pins ↔ (∃ x, s.pin p = .driving c x) ∨ s.pin p = .sensing c := by
  obtain ⟨hdrive, hsense, -⟩ := s.pinsAgree_iff.1 h
  simp only [hdrive, hsense]
  cases s.chan c with
  | unbound => simp [Channel.pins, Channel.drivesAt, Channel.sensesAt]
  | output o => simp [Channel.pins, Channel.drivesAt, Channel.sensesAt]
  | input i => simp [Channel.pins, Channel.drivesAt, Channel.sensesAt, eq_comm]

theorem State.unbindChannel_chan (s : State) (c d : Nat) :
    (s.unbindChannel c).chan d = if c = d ∧ d < 32 then .unbound else s.chan d := by
  rw [State.unbindChannel, State.chan_setChan, State.setPins_chan]

theorem State.unbindChannel_chan_same (s : State) (c : Nat) : (s.unbindChannel c).chan c = .unbound := by
  rw [State.unbindChannel_chan]
  split
  · rfl
  · exact s.chan_out c (by omega)

theorem State.unbindChannel_chan_ne (s : State) (c : Nat) {d : Nat} (h : d ≠ c) :
    (s.unbindChannel c).chan d = s.chan d := by
  rw [State.unbindChannel_chan, if_neg fun k => h k.1.symm]

/-- A channel returns to NONE, its pins to ISOLATED (R20). -/
theorem State.pinsAgree_unbindChannel {s : State} (h : s.pinsAgree) (c : Nat) : (s.unbindChannel c).pinsAgree := by
  have used : ∀ p ∈ (s.chan c).pins, (∃ x, s.pin p = .driving c x) ∨ s.pin p = .sensing c := fun p =>
    (State.mem_pins_iff h c p).1
  refine State.pinsAgree_replace (c := c) (ps := (s.chan c).pins) (rec := .isolated) h ?_
    (fun d hd => s.unbindChannel_chan_ne c hd) ?_ ?_ ?_ ?_ ?_ ?_
  · intro p
    rw [State.unbindChannel, State.pin_setChan, State.pin_setPins]
    refine if_congr (and_iff_left_of_imp fun hp => State.pin_lt (s := s) ?_) rfl rfl
    rcases used p hp with ⟨x, k⟩ | k
    all_goals
      rw [k]
      exact fun k => nomatch k
  · intro p hp d hd
    rcases used p hp with ⟨x, k⟩ | k
    all_goals simp [k, hd.symm]
  · intro p hp
    exact ⟨fun x k => hp ((State.mem_pins_iff h c p).2 (.inl ⟨x, k⟩)), fun k => hp ((State.mem_pins_iff h c p).2 (.inr k))⟩
  · simp [s.unbindChannel_chan_same c, Channel.drivesAt]
  · simp [s.unbindChannel_chan_same c, Channel.sensesAt]
  · rw [s.unbindChannel_chan_same c]
    trivial
  · simp

end Sys2Proof.Machine
end

section
/-!
Interlocked pairs, drive by drive: what keeps them from being ACTIVE together, and outputs at rest (R23, R26, R84, R85,
R110).
-/

namespace Sys2Proof.Machine

/-! ### Outputs at rest -/

/-- At its safe level without a release time (R23, R110). -/
def Output.atRest (o : Output) : Prop := o.level = o.cfg.safe ∧ o.release = none

/-- What PairsStayKept says of FAULTED outputs and of pairs, whatever the run state: between the drives of a stop entry
this is kept while the rest is not yet so. -/
def State.joinedKept (s : State) : Prop :=
  (∀ c o, s.chan c = .output o → o.isFaulted = true → o.atRest) ∧ ∀ i r, s.interlock i = some r → s.pairKept r

/-- Every output is at rest (R110). -/
def State.allRest (s : State) : Prop := ∀ c o, s.chan c = .output o → o.atRest

theorem State.pairsKept_iff (s : State) : s.pairsKept ↔ s.joinedKept ∧ (s.stop.run = .stopped → s.allRest) := by
  simp only [State.pairsKept, State.outputsRest, State.joinedKept, State.allRest, State.outputAt_eq_some, Output.atRest]
  constructor
  · rintro ⟨rest, pairs⟩
    exact ⟨⟨fun c o e f => rest c o e (.inl f), pairs⟩, fun k c o e => rest c o e (.inr k)⟩
  · rintro ⟨⟨faulted, pairs⟩, stopped⟩
    exact ⟨fun c o e k => k.elim (faulted c o e) fun k => stopped k c o e, pairs⟩

/-- An output of `t` is at rest where the channel was no output of `s` that is not. -/
def State.keepsRest (s t : State) : Prop :=
  ∀ c o', t.chan c = .output o' → (∀ o, s.chan c = .output o → o.atRest) → o'.atRest

theorem State.keepsRest.refl (s : State) : s.keepsRest s := fun _ o' e h => h o' e

theorem State.keepsRest.trans {s t u : State} (h : s.keepsRest t) (k : t.keepsRest u) : s.keepsRest u :=
  fun c o' e rest => k c o' e fun o e => h c o e rest

theorem State.keepsRest.allRest {s t : State} (h : s.keepsRest t) (k : s.allRest) : t.allRest :=
  fun c o' e => h c o' e (k c)

theorem State.pairsKept_of_joined {s t : State} (joined : s.joinedKept → t.joinedKept) (rest : s.joinedKept → s.keepsRest t)
    (run : t.stop.run = .stopped → s.stop.run = .stopped) (h : s.pairsKept) : t.pairsKept := by
  rw [State.pairsKept_iff] at h ⊢
  exact ⟨joined h.1, fun k => (rest h.1).allRest (h.2 (run k))⟩

/-! ### Pairs -/

/-- Every partner of `c` is INACTIVE (R84). -/
def State.partnersInactive (s : State) (c : Nat) : Prop :=
  ∀ y ∈ s.partnersOf c, ∀ p, s.chan y = .output p → p.level = .inactive

theorem State.pairKept.output {s : State} {r : Interlock} (h : s.pairKept r) {c : Nat} (hc : c = r.a ∨ c = r.b) :
    ∃ o, s.chan c = .output o := by
  obtain ⟨-, a, b, ha, hb, -⟩ := h
  rcases hc with rfl | rfl
  · exact ⟨a, State.chan_of_outputAt ha⟩
  · exact ⟨b, State.chan_of_outputAt hb⟩

/-- A record stays kept while its two channels stay outputs with their options, and not both ACTIVE. -/
theorem State.pairKept.of_levels {s t : State} {r : Interlock} (h : s.pairKept r)
    (same : ∀ c o, c = r.a ∨ c = r.b → s.chan c = .output o → ∃ o', t.chan c = .output o' ∧ o'.cfg = o.cfg)
    (apart : ∀ a b, t.chan r.a = .output a → t.chan r.b = .output b → ¬(a.level = .active ∧ b.level = .active)) :
    t.pairKept r := by
  obtain ⟨ne, a, b, ha, hb, -, safe, dead⟩ := h
  obtain ⟨a', ea, ca⟩ := same r.a a (.inl rfl) (State.chan_of_outputAt ha)
  obtain ⟨b', eb, cb⟩ := same r.b b (.inr rfl) (State.chan_of_outputAt hb)
  exact ⟨ne, a', b', State.outputAt_of_chan ea, State.outputAt_of_chan eb, apart a' b' ea eb, by rwa [ca, cb],
    by rwa [ca, cb]⟩

theorem State.pairKept.apart {s : State} {r : Interlock} (h : s.pairKept r) {a b : Output} (ea : s.chan r.a = .output a)
    (eb : s.chan r.b = .output b) :
    ¬(a.level = .active ∧ b.level = .active) ∧ ¬(a.cfg.safe = .active ∧ b.cfg.safe = .active) := by
  obtain ⟨-, a', b', ha, hb, apart, safe, -⟩ := h
  rw [State.outputAt_of_chan ea] at ha
  rw [State.outputAt_of_chan eb] at hb
  cases ha
  cases hb
  exact ⟨apart, safe⟩

theorem Interlock.partner_a (r : Interlock) : r.partner r.a = some r.b := if_pos rfl

theorem Interlock.partner_b {r : Interlock} (ne : r.a ≠ r.b) : r.partner r.b = some r.a := by
  rw [Interlock.partner, if_neg ne, if_pos rfl]

/-- The partner of a kept record is another channel, and of the two not both are ACTIVE, nor are both safe levels. -/
theorem State.joinedKept.partner {s : State} (h : s.joinedKept) {c y : Nat} (hy : y ∈ s.partnersOf c) {o p : Output}
    (eo : s.chan c = .output o) (ep : s.chan y = .output p) :
    y ≠ c ∧ ¬(o.level = .active ∧ p.level = .active) ∧ ¬(o.cfg.safe = .active ∧ p.cfg.safe = .active) := by
  obtain ⟨i, r, hi, hr⟩ := (s.mem_partnersOf c y).1 hy
  have kept := h.2 i r hi
  rcases Interlock.partner_eq_some hr with ⟨rfl, rfl⟩ | ⟨rfl, rfl⟩
  · exact ⟨kept.1.symm, kept.apart eo ep⟩
  · obtain ⟨apart, safe⟩ := kept.apart ep eo
    exact ⟨kept.1, fun k => apart k.symm, fun k => safe k.symm⟩

/-- An output written with its options as they were: it may be made ACTIVE only while its partners are INACTIVE
(R84). -/
theorem State.joinedKept_putOutput {s : State} {c : Nat} {o o' : Output} (h : s.joinedKept) (e : s.chan c = .output o)
    (cfg : o'.cfg = o.cfg) (rest : o'.isFaulted = true → o'.atRest)
    (apart : o'.level = .active → o.level = .active ∨ s.partnersInactive c) : (s.putOutput c o').joinedKept := by
  have lt := s.lt_of_bound (c := c) (by simp [e])
  refine ⟨fun d p ep fp => ?_, fun i r hi => ?_⟩
  · by_cases hd : d = c
    · subst hd
      rw [State.putOutput_chan_same _ _ _ lt] at ep
      cases ep
      exact rest fp
    · rw [s.putOutput_chan_ne c o' hd] at ep
      exact h.1 d p ep fp
  · have kept : s.pairKept r := h.2 i r hi
    have partner : ∀ y, y ≠ c → y ∈ s.partnersOf c → ∀ p, (s.putOutput c o').chan y = .output p →
        ¬(o'.level = .active ∧ p.level = .active) := by
      rintro y hy mem p ep ⟨act, actp⟩
      rw [s.putOutput_chan_ne c o' hy] at ep
      rcases apart act with k | k
      · exact (h.partner mem e ep).2.1 ⟨k, actp⟩
      · rw [k y mem p ep] at actp
        cases actp
    refine kept.of_levels (fun d p _ ep => ?_) fun a b ea eb => ?_
    · by_cases hd : d = c
      · subst hd
        rw [e] at ep
        cases ep
        exact ⟨o', State.putOutput_chan_same _ _ _ lt, cfg⟩
      · exact ⟨p, by rw [s.putOutput_chan_ne c o' hd, ep], rfl⟩
    · by_cases ha : r.a = c
      · have hb : r.b ≠ c := fun k => kept.1 (ha.trans k.symm)
        rw [ha, State.putOutput_chan_same _ _ _ lt] at ea
        cases ea
        exact partner r.b hb ((s.mem_partnersOf c r.b).2 ⟨i, r, hi, ha ▸ r.partner_a⟩) b eb
      by_cases hb : r.b = c
      · rw [hb, State.putOutput_chan_same _ _ _ lt] at eb
        cases eb
        have := partner r.a ha ((s.mem_partnersOf c r.a).2 ⟨i, r, hi, hb ▸ Interlock.partner_b kept.1⟩) a ea
        exact fun k => this k.symm
      · rw [s.putOutput_chan_ne c o' ha] at ea
        rw [s.putOutput_chan_ne c o' hb] at eb
        exact (kept.apart ea eb).1

theorem State.keepsRest_putOutput {s : State} {c : Nat} {o o' : Output} (e : s.chan c = .output o)
    (rest : o.atRest → o'.atRest) : s.keepsRest (s.putOutput c o') := by
  have lt := s.lt_of_bound (c := c) (by simp [e])
  intro d p ep before
  by_cases hd : d = c
  · subst hd
    rw [State.putOutput_chan_same _ _ _ lt] at ep
    cases ep
    exact rest (before o e)
  · rw [s.putOutput_chan_ne c o' hd] at ep
    exact before p ep

/-- Nothing changes for pairs while no channel that an interlock names changes its face. -/
theorem State.joinedKept_of_faces {s t : State} (hi : ∀ i, t.interlock i = s.interlock i)
    (hc : ∀ c, (s.chan c).sameFace (t.chan c)) (h : s.joinedKept) : t.joinedKept := by
  refine ⟨fun c p ep fp => ?_, fun i r k => ?_⟩
  · obtain ⟨o, eo, cfg, level, faulted, release⟩ := (ep ▸ hc c).output
    obtain ⟨lo, ro⟩ := h.1 c o eo (faulted ▸ fp)
    exact ⟨by rw [level, cfg, lo], release ro⟩
  · have kept := h.2 i r (hi i ▸ k)
    refine kept.of_levels (fun c o _ eo => (eo ▸ hc c).output_after) fun a b ea eb => ?_
    obtain ⟨a', ea', -, la, -⟩ := (ea ▸ hc r.a).output
    obtain ⟨b', eb', -, lb, -⟩ := (eb ▸ hc r.b).output
    rw [la, lb]
    exact (kept.apart ea' eb').1

theorem State.keepsRest_of_faces {s t : State} (hc : ∀ c, (s.chan c).sameFace (t.chan c)) : s.keepsRest t := by
  intro c p ep before
  obtain ⟨o, eo, cfg, level, -, release⟩ := (ep ▸ hc c).output
  obtain ⟨lo, ro⟩ := before o eo
  exact ⟨by rw [level, cfg, lo], release ro⟩

theorem State.pairsKept_of_faces {s t : State} (hi : ∀ i, t.interlock i = s.interlock i)
    (hc : ∀ c, (s.chan c).sameFace (t.chan c)) (run : t.stop.run = .stopped → s.stop.run = .stopped) :
    s.pairsKept → t.pairsKept :=
  State.pairsKept_of_joined (State.joinedKept_of_faces hi hc) (fun _ => State.keepsRest_of_faces hc) run

/-! ### Breaking and safe-level drives -/

/-- A partner is driven INACTIVE: no pair is harmed, and a partner whose safe level is INACTIVE comes to rest (R85). -/
theorem State.joinedKept_breakPartner {s : State} (h : s.joinedKept) (y : Nat) : (s.breakPartner y).joinedKept := by
  unfold State.breakPartner
  split
  · rename_i o e
    split
    · exact State.joinedKept_putOutput h e rfl (fun k => nomatch k) fun k => nomatch k
    · exact h
  · exact h

theorem State.joinedKept_breakPartners {s : State} (h : s.joinedKept) (c : Nat) : (s.breakPartners c).joinedKept := by
  unfold State.breakPartners
  generalize s.partnersOf c = l
  induction l generalizing s with
  | nil => exact h
  | cons y l ih => exact ih (State.joinedKept_breakPartner h y)

/-- A channel after the partners of `c` were broken: as it was, or a partner that was ACTIVE and is driven INACTIVE. -/
theorem State.breakPartners_chan (s : State) (c d : Nat) :
    (s.breakPartners c).chan d = s.chan d ∨
      d ∈ s.partnersOf c ∧ ∃ o, s.chan d = .output o ∧ o.level = .active ∧ o.isFaulted = false ∧
        (s.breakPartners c).chan d = .output (o.drivenTo .inactive s.now s.elapsed) := by
  obtain ⟨broken, same⟩ := State.foldl_breakPartner_chan (s.partnersOf c) s d
  by_cases k : ∃ o, s.chan d = .output o ∧ d ∈ s.partnersOf c ∧ o.level = .active ∧ o.isFaulted = false
  · obtain ⟨o, e, mem, act, sound⟩ := k
    exact .inr ⟨mem, o, e, act, sound, broken o e mem act sound⟩
  · exact .inl (same fun o e hk => k ⟨o, e, hk⟩)

/-- Once the partners of an output with the safe level ACTIVE are broken, each of them is INACTIVE: a FAULTED one was at
its safe level, which is INACTIVE (R76, R85). -/
theorem State.partnersInactive_breakPartners {s : State} (h : s.joinedKept) {c : Nat} {o : Output}
    (e : s.chan c = .output o) (safe : o.cfg.safe = .active) : (s.breakPartners c).partnersInactive c := by
  obtain ⟨ch, ps, frame⟩ := s.breakPartners_frame c
  intro y hy p ep
  have mem : y ∈ s.partnersOf c := by
    rw [frame] at hy
    exact hy
  rcases s.breakPartners_chan c y with same | ⟨-, q, eq, -, -, broken⟩
  · rw [same] at ep
    by_contra act
    have active : p.level = .active := by
      cases l : p.level with
      | active => rfl
      | inactive => exact absurd l act
    cases f : p.isFaulted with
    | true =>
      have rest := (h.1 y p ep f).1
      exact (h.partner mem e ep).2.2 ⟨safe, rest ▸ active⟩
    | false =>
      have := (State.foldl_breakPartner_chan (s.partnersOf c) s y).1 p ep mem active f
      rw [show (s.partnersOf c).foldl State.breakPartner s = s.breakPartners c from rfl, same, ep] at this
      exact act (congrArg Output.level (Channel.output.inj this))
  · rw [broken] at ep
    cases ep
    rfl

/-- The output that is to be written stands as it was after its partners are broken, since it is none of them. -/
theorem State.breakPartners_chan_self {s : State} (h : s.joinedKept) {c : Nat} {o : Output} (e : s.chan c = .output o) :
    (s.breakPartners c).chan c = .output o := by
  rcases s.breakPartners_chan c c with same | ⟨mem, -⟩
  · rw [same, e]
  · exact absurd rfl (h.partner mem e e).1

theorem State.keepsRest_breakPartners {s : State} (h : s.joinedKept) {c : Nat} {o : Output} (e : s.chan c = .output o)
    (safe : o.cfg.safe = .active) : s.keepsRest (s.breakPartners c) := by
  intro d p ep before
  rcases s.breakPartners_chan c d with same | ⟨mem, q, eq, -, -, broken⟩
  · exact before p (same ▸ ep)
  · rw [broken] at ep
    cases ep
    refine ⟨?_, rfl⟩
    show Level.inactive = q.cfg.safe
    cases k : q.cfg.safe with
    | active => exact absurd ⟨safe, k⟩ (h.partner mem e eq).2.2
    | inactive => rfl

/-- An output comes to rest, its ACTIVE partners broken first when it becomes ACTIVE: pairs are kept, and the others at
rest stay so (R26, R85). -/
theorem State.joinedKept_breakThenPut {s : State} (h : s.joinedKept) {c : Nat} {o o' : Output} (e : s.chan c = .output o)
    (cfg : o'.cfg = o.cfg) (rest : o'.atRest) :
    ((if o.cfg.safe = .active ∧ o.level = .inactive then s.breakPartners c else s).putOutput c o').joinedKept ∧
      s.keepsRest ((if o.cfg.safe = .active ∧ o.level = .inactive then s.breakPartners c else s).putOutput c o') := by
  split
  · rename_i breaks
    have self := State.breakPartners_chan_self h e
    exact ⟨State.joinedKept_putOutput (State.joinedKept_breakPartners h c) self cfg (fun _ => rest) fun _ =>
        .inr (State.partnersInactive_breakPartners h e breaks.1),
      (State.keepsRest_breakPartners h e breaks.1).trans (State.keepsRest_putOutput self fun _ => rest)⟩
  · rename_i stays
    refine ⟨State.joinedKept_putOutput h e cfg (fun _ => rest) fun act => .inl ?_, State.keepsRest_putOutput e fun _ => rest⟩
    have safe : o.cfg.safe = .active := by rw [← cfg, ← rest.1, act]
    cases l : o.level with
    | active => rfl
    | inactive => exact absurd ⟨safe, l⟩ stays

/-- A drive to the safe level leaves a FAULTED output as it stands, and writes any other one at rest (R23). -/
theorem State.driveSafe_cases (s : State) (c : Nat) :
    (s.driveSafe c = s ∧ ∀ o, s.chan c = .output o → o.isFaulted = true) ∨
      ∃ o o' : Output, s.chan c = .output o ∧ o'.cfg = o.cfg ∧ o'.owner = o.owner ∧ o'.atRest ∧ s.driveSafe c =
        (if o.cfg.safe = .active ∧ o.level = .inactive then s.breakPartners c else s).putOutput c o' := by
  unfold State.driveSafe
  split
  · rename_i o e
    split
    · rename_i f
      exact .inl ⟨rfl, fun p ep => by cases e.symm.trans ep; exact f⟩
    · refine .inr ⟨o, _, e, ?_, ?_, ?_, rfl⟩
      · rfl
      · rfl
      · exact ⟨rfl, rfl⟩
  · rename_i none
    exact .inl ⟨rfl, fun o e => absurd e (none o)⟩

/-- A drive to the safe level keeps pairs, and outputs at rest stay so (R23, R85). -/
theorem State.joinedKept_driveSafe {s : State} (h : s.joinedKept) (c : Nat) :
    (s.driveSafe c).joinedKept ∧ s.keepsRest (s.driveSafe c) := by
  rcases s.driveSafe_cases c with ⟨same, -⟩ | ⟨o, o', e, cfg, -, rest, eq⟩
  · rw [same]
    exact ⟨h, .refl s⟩
  · rw [eq]
    exact State.joinedKept_breakThenPut h e cfg rest

/-- The output that was driven is at rest; a FAULTED one was so before (R26). -/
theorem State.atRest_driveSafe {s : State} (h : s.joinedKept) {c : Nat} {p : Output} (ep : (s.driveSafe c).chan c = .output p) :
    p.atRest := by
  rcases s.driveSafe_cases c with ⟨same, faulted⟩ | ⟨o, o', e, -, -, rest, eq⟩
  · rw [same] at ep
    exact h.1 c p ep (faulted p ep)
  · rw [eq, State.putOutput_chan_same _ _ _ (s.lt_of_bound (by simp [e]))] at ep
    cases ep
    exact rest

theorem State.joinedKept_foldl_driveSafe (l : List Nat) {s : State} (h : s.joinedKept) :
    (l.foldl State.driveSafe s).joinedKept ∧ s.keepsRest (l.foldl State.driveSafe s) ∧
      ∀ c ∈ l, ∀ p, (l.foldl State.driveSafe s).chan c = .output p → p.atRest := by
  induction l generalizing s with
  | nil => exact ⟨h, .refl s, fun _ k => nomatch k⟩
  | cons d l ih =>
    obtain ⟨joined, rest⟩ := State.joinedKept_driveSafe h d
    obtain ⟨joined', rest', all⟩ := ih joined
    refine ⟨joined', rest.trans rest', fun c hc p ep => ?_⟩
    rcases List.mem_cons.1 hc with rfl | hc
    · exact rest' c p ep fun o e => State.atRest_driveSafe h e
    · exact all c hc p ep

/-- After the drives of a stop entry every output is at rest (R109, R110). -/
theorem State.allRest_driveAllSafe {s : State} (h : s.joinedKept) : s.driveAllSafe.joinedKept ∧ s.driveAllSafe.allRest := by
  obtain ⟨joined, -, rest⟩ := State.joinedKept_foldl_driveSafe channelNumbers h
  refine ⟨joined, fun c o e => rest c ?_ o e⟩
  exact List.mem_range.2 (State.lt_of_bound (s := s.driveAllSafe) (by simp [e]))

/-! ### Binding, unbinding and interlock records -/

/-- Pairs stay kept when nothing changes but a channel that no record names. -/
theorem State.joinedKept_of_unnamed {s t : State} {c : Nat} (h : s.joinedKept) (hi : ∀ i, t.interlock i = s.interlock i)
    (unnamed : ∀ i r, s.interlock i = some r → r.a ≠ c ∧ r.b ≠ c) (same : ∀ d, d ≠ c → t.chan d = s.chan d)
    (sound : ∀ o, t.chan c = .output o → o.isFaulted = false) : t.joinedKept := by
  refine ⟨fun d o e f => ?_, fun i r k => ?_⟩
  · by_cases hd : d = c
    · rw [sound o (hd ▸ e)] at f
      cases f
    · exact h.1 d o (same d hd ▸ e) f
  · rw [hi] at k
    obtain ⟨na, nb⟩ := unnamed i r k
    refine (h.2 i r k).of_levels (fun d o hd e => ⟨o, ?_, rfl⟩) fun a b ea eb => ?_
    · rw [same d (by rcases hd with rfl | rfl <;> assumption), e]
    · rw [same _ na] at ea
      rw [same _ nb] at eb
      exact ((h.2 i r k).apart ea eb).1

theorem State.joinedKept.unnamed {s : State} (h : s.joinedKept) {c : Nat} (e : s.chan c = .unbound) :
    ∀ i r, s.interlock i = some r → r.a ≠ c ∧ r.b ≠ c := by
  intro i r k
  have kept := h.2 i r k
  constructor
  · rintro rfl
    obtain ⟨o, eo⟩ := kept.output (.inl rfl)
    rw [e] at eo
    cases eo
  · rintro rfl
    obtain ⟨o, eo⟩ := kept.output (.inr rfl)
    rw [e] at eo
    cases eo

theorem pairSafe_iff (a b : Output) (dead : Nat) : pairSafe a b dead = true ↔
    ¬(a.level = .active ∧ b.level = .active) ∧ ¬(a.cfg.safe = .active ∧ b.cfg.safe = .active) ∧
      (a.cfg.safe = .active ∨ b.cfg.safe = .active → dead = 0) := by
  simp only [pairSafe, Bool.and_eq_true, Bool.not_eq_true', Bool.and_eq_false_iff, Bool.or_eq_true, Bool.or_eq_false_iff,
    decide_eq_false_iff_not, beq_iff_eq]
  tauto

theorem State.interlock_setInterlock (s : State) (i x : Nat) (r : Option Interlock) :
    (s.setInterlock i r).interlock x = if i = x ∧ x < 12 then r else s.interlock x := by
  split
  · rename_i h
    obtain ⟨rfl, h⟩ := h
    exact s.interlock_setInterlock_same i r h
  · rename_i h
    by_cases e : i = x
    · subst e
      have out : 12 ≤ i := by omega
      rw [State.interlock, State.interlock, tget_out _ _ _ out, tget_out _ _ _ out]
    · exact s.interlock_setInterlock_ne i x r e

/-- A record that passes R76 joins the table, or one leaves it (R77, R78). -/
theorem State.pairsKept_setInterlock {s : State} (i : Nat) (r : Option Interlock) (hr : ∀ x, r = some x → s.pairKept x)
    (h : s.pairsKept) : (s.setInterlock i r).pairsKept := by
  obtain ⟨rest, pairs⟩ := h
  refine ⟨rest, fun j x k => ?_⟩
  rw [State.interlock_setInterlock] at k
  split at k
  · exact hr x k
  · exact pairs j x k

end Sys2Proof.Machine
end

section
/-!
Sessions, owners and the laws of outputs, operation by operation: what leaves pins, pairs, sessions and ownership as they
are (R14, R34, R39, R84, R88, R118, R133).
-/

namespace Sys2Proof.Machine

/-! ### What belongs to whom -/

/-- The channel stays of its kind and with its owner, and gains no subscriber. -/
def Channel.sameTies (r r' : Channel) : Prop :=
  match r, r' with
  | .unbound, .unbound => True
  | .output o, .output o' => o'.owner = o.owner
  | .input i, .input i' => i'.owner = i.owner ∧ ∀ m ∈ i'.subscribers, m ∈ i.subscribers
  | _, _ => False

@[refl] theorem Channel.sameTies.refl (r : Channel) : r.sameTies r := by
  cases r with
  | unbound => trivial
  | output o => rfl
  | input i => exact ⟨rfl, fun _ => id⟩

theorem Channel.sameTies.cases {r r' : Channel} (h : r.sameTies r') :
    (r = .unbound ∧ r' = .unbound) ∨ (∃ o o', r = .output o ∧ r' = .output o' ∧ o'.owner = o.owner) ∨
      ∃ i i', r = .input i ∧ r' = .input i' ∧ i'.owner = i.owner ∧ ∀ m ∈ i'.subscribers, m ∈ i.subscribers := by
  cases r with
  | unbound =>
    cases r' with
    | unbound => exact .inl ⟨rfl, rfl⟩
    | _ => exact h.elim
  | output o =>
    cases r' with
    | output o' => exact .inr (.inl ⟨o, o', rfl, rfl, h⟩)
    | _ => exact h.elim
  | input i =>
    cases r' with
    | input i' => exact .inr (.inr ⟨i, i', rfl, rfl, h⟩)
    | _ => exact h.elim

theorem Channel.sameTies.trans {r r' r'' : Channel} (h : r.sameTies r') (k : r'.sameTies r'') : r.sameTies r'' := by
  rcases h.cases with ⟨rfl, rfl⟩ | ⟨o, o', rfl, rfl, own⟩ | ⟨i, i', rfl, rfl, own, subs⟩
  · exact k
  · cases r'' with
    | output o'' => exact Eq.trans k own
    | _ => exact k.elim
  · cases r'' with
    | input i'' => exact ⟨k.1.trans own, fun m hm => subs m (k.2 m hm)⟩
    | _ => exact k.elim

theorem Channel.sameTies.owner {r r' : Channel} (h : r.sameTies r') : r'.owner = r.owner := by
  rcases h.cases with ⟨rfl, rfl⟩ | ⟨o, o', rfl, rfl, own⟩ | ⟨i, i', rfl, rfl, own, -⟩
  · rfl
  · exact own
  · exact own

/-- Owner, target and guard of the two entries agree: all that R39 asks of. -/
def Entry.sameBonds (x e : Entry) : Prop :=
  x.owner = e.owner ∧ x.act.target = e.act.target ∧ x.act.grd = e.act.grd

/-- The queue holds an entry of the same owner, target and guard. -/
def State.holds (s : State) (e : Entry) : Prop := ∃ x ∈ s.queue, x.sameBonds e

theorem State.holds_of_mem {s : State} {e : Entry} (h : e ∈ s.queue) : s.holds e := ⟨e, h, rfl, rfl, rfl⟩

/-- Every entry satisfies R39. -/
def State.entriesLawful (s : State) : Prop := ∀ e ∈ s.queue, s.entryLawful e

/-- No new belonging: live sessions stay live in their class, channels keep their ties, entries, triggers, build and
store operation are owned as some were before, and a startup load stays one. -/
structure State.sameHoldings (s t : State) : Prop where
  live : ∀ n, (s.session n).live = true → (t.session n).live = true ∧ t.classOf n = s.classOf n
  chan : ∀ c, (s.chan c).sameTies (t.chan c)
  queue : ∀ e ∈ t.queue, s.holds e
  trigger : ∀ k r, t.trigger k = some r →
    ∃ k' r', s.trigger k' = some r' ∧ r'.owner = r.owner ∧ r'.spec.source = r.spec.source
  build : ∀ b, t.build = some b → ∃ b', s.build = some b' ∧ b'.owner = b.owner
  store : ∀ m, t.store.session? = some m → s.store.session? = some m
  startup : ∀ k start, s.store = .reading k (some 5) start → t.store.session? = some 5 →
    ∃ k' start', t.store = .reading k' (some 5) start'

@[refl] theorem State.sameHoldings.refl (s : State) : s.sameHoldings s where
  live := fun _ h => ⟨h, rfl⟩
  chan := fun _ => .refl _
  queue := fun _ => State.holds_of_mem
  trigger := fun k r h => ⟨k, r, h, rfl, rfl⟩
  build := fun b h => ⟨b, h, rfl⟩
  store := fun _ => id
  startup := fun k start h _ => ⟨k, start, h⟩

theorem State.holds_trans {s t : State} (h : ∀ x ∈ t.queue, s.holds x) {e : Entry} (k : t.holds e) : s.holds e := by
  obtain ⟨x, hx, owner, target, grd⟩ := k
  obtain ⟨y, hy, owner', target', grd'⟩ := h x hx
  exact ⟨y, hy, owner'.trans owner, target'.trans target, grd'.trans grd⟩

@[trans] theorem State.sameHoldings.trans {s t u : State} (h : s.sameHoldings t) (k : t.sameHoldings u) :
    s.sameHoldings u where
  live := fun n l => ⟨(k.live n (h.live n l).1).1, (k.live n (h.live n l).1).2.trans (h.live n l).2⟩
  chan := fun c => (h.chan c).trans (k.chan c)
  queue := fun e he => State.holds_trans h.queue (k.queue e he)
  trigger := by
    intro i r hr
    obtain ⟨i', r', hr', owner, source⟩ := k.trigger i r hr
    obtain ⟨i'', r'', hr'', owner', source'⟩ := h.trigger i' r' hr'
    exact ⟨i'', r'', hr'', owner'.trans owner, source'.trans source⟩
  build := by
    intro b hb
    obtain ⟨b', hb', owner⟩ := k.build b hb
    obtain ⟨b'', hb'', owner'⟩ := h.build b' hb'
    exact ⟨b'', hb'', owner'.trans owner⟩
  store := fun m hm => h.store m (k.store m hm)
  startup := by
    intro i start hs hu
    obtain ⟨i', start', ht⟩ := h.startup i start hs (k.store 5 hu)
    exact k.startup i' start' ht hu

/-- Live sessions, channels, queue and triggers as given; build and store operation as they were. -/
theorem State.sameHoldings.of_live {s t : State}
    (live : ∀ n, (s.session n).live = true → (t.session n).live = true ∧ t.classOf n = s.classOf n)
    (chan : ∀ c, (s.chan c).sameTies (t.chan c)) (queue : ∀ e ∈ t.queue, s.holds e)
    (trigger : ∀ k r, t.trigger k = some r →
      ∃ k' r', s.trigger k' = some r' ∧ r'.owner = r.owner ∧ r'.spec.source = r.spec.source)
    (hb : t.build = s.build) (ho : t.store = s.store) : s.sameHoldings t where
  live := live
  chan := chan
  queue := queue
  trigger := trigger
  build := by
    rw [hb]
    exact fun b h => ⟨b, h, rfl⟩
  store := by
    rw [ho]
    exact fun _ => id
  startup := by
    rw [ho]
    exact fun k start h _ => ⟨k, start, h⟩

theorem State.live_of_eq {s t : State} (h : t.sessions = s.sessions) (n : Nat) (k : (s.session n).live = true) :
    (t.session n).live = true ∧ t.classOf n = s.classOf n := by
  have same : t.session n = s.session n := by simp only [State.session, h]
  simp only [State.classOf, same]
  exact ⟨k, trivial⟩

/-- Channels, queue and triggers as given; sessions, build and store operation as they were. -/
theorem State.sameHoldings.of_parts {s t : State} (chan : ∀ c, (s.chan c).sameTies (t.chan c))
    (queue : ∀ e ∈ t.queue, s.holds e)
    (trigger : ∀ k r, t.trigger k = some r →
      ∃ k' r', s.trigger k' = some r' ∧ r'.owner = r.owner ∧ r'.spec.source = r.spec.source)
    (hs : t.sessions = s.sessions := by rfl) (hb : t.build = s.build := by rfl) (ho : t.store = s.store := by rfl) :
    s.sameHoldings t := .of_live (State.live_of_eq hs) chan queue trigger hb ho

theorem State.sameTies_of_eq {s t : State} (h : t.channels = s.channels) (c : Nat) : (s.chan c).sameTies (t.chan c) := by
  rw [State.chan, State.chan, h]

theorem State.holds_of_eq {s t : State} (h : t.queue = s.queue) : ∀ e ∈ t.queue, s.holds e := fun _ he =>
  State.holds_of_mem (h ▸ he)

theorem State.trigger_of_eq {s t : State} (h : t.triggers = s.triggers) (k : Nat) (r : Trigger)
    (e : t.trigger k = some r) :
    ∃ k' r', s.trigger k' = some r' ∧ r'.owner = r.owner ∧ r'.spec.source = r.spec.source :=
  ⟨k, r, by rw [← e, State.trigger, State.trigger, h], rfl, rfl⟩

theorem State.sameHoldings.of_same {s t : State} (hc : t.channels = s.channels := by rfl)
    (hq : t.queue = s.queue := by rfl) (ht : t.triggers = s.triggers := by rfl) (hs : t.sessions = s.sessions := by rfl)
    (hb : t.build = s.build := by rfl) (ho : t.store = s.store := by rfl) : s.sameHoldings t :=
  .of_parts (State.sameTies_of_eq hc) (State.holds_of_eq hq) (State.trigger_of_eq ht) hs hb ho

/-- What R39 asks of an entry holds on, of every entry with the same bonds. -/
theorem State.sameHoldings.entryLawful {s t : State} (h : s.sameHoldings t) {x e : Entry} (bonds : x.sameBonds e)
    (hx : s.entryLawful x) : t.entryLawful e := by
  obtain ⟨owner, target, grd⟩ := bonds
  obtain ⟨live, ⟨o, eo, own⟩, guards⟩ := hx
  refine ⟨owner ▸ (h.live _ live).1, ?_, fun g hg => ?_⟩
  · have ties := h.chan x.act.target
    rw [State.chan_of_outputAt eo] at ties
    rcases ties.cases with ⟨e, -⟩ | ⟨o1, o', e, e', own'⟩ | ⟨i, i', e, -⟩
    · cases e
    · cases e
      exact ⟨o', by rw [← target, State.outputAt_of_chan e'], by rw [own', own, owner]⟩
    · cases e
  · obtain ⟨i, ei⟩ := Option.isSome_iff_exists.1 (guards g (grd ▸ hg))
    have ties := h.chan g.channel
    rw [State.chan_of_inputAt ei] at ties
    rcases ties.cases with ⟨e, -⟩ | ⟨o, o', e, -⟩ | ⟨i1, i', -, e', -⟩
    · cases e
    · cases e
    · rw [State.inputAt_of_chan e']
      rfl

theorem State.sameHoldings.inputAt {s t : State} (h : s.sameHoldings t) {c : Nat} (k : (s.inputAt c).isSome = true) :
    (t.inputAt c).isSome = true := by
  obtain ⟨i, ei⟩ := Option.isSome_iff_exists.1 k
  have ties := h.chan c
  rw [State.chan_of_inputAt ei] at ties
  rcases ties.cases with ⟨e, -⟩ | ⟨o, o', e, -⟩ | ⟨i1, i', -, e', -⟩
  · cases e
  · cases e
  · rw [State.inputAt_of_chan e']
    rfl

theorem State.sameHoldings.entriesLawful {s t : State} (h : s.sameHoldings t) (k : s.entriesLawful) :
    t.entriesLawful := fun e he => by
  obtain ⟨x, hx, bonds⟩ := h.queue e he
  exact h.entryLawful bonds (k x hx)

theorem State.sameHoldings.ownershipLawful {s t : State} (h : s.sameHoldings t) (k : s.ownershipLawful) :
    t.ownershipLawful := by
  obtain ⟨entries, triggers, owners, subscribers, build, store, startup⟩ := k
  refine ⟨h.entriesLawful entries, fun i r hr => ?_, fun c m hm => ?_, fun c i m hi hm => ?_, fun b hb => ?_,
    fun m hm => (h.live m (store m (h.store m hm))).1, fun h5 => ?_⟩
  · obtain ⟨i', r', hr', owner, source⟩ := h.trigger i r hr
    obtain ⟨live, bound⟩ := triggers i' r' hr'
    exact ⟨owner ▸ (h.live _ live).1, source ▸ h.inputAt bound⟩
  · exact (h.live m (owners c m ((h.chan c).owner ▸ hm))).1
  · have ties := h.chan c
    rw [State.chan_of_inputAt hi] at ties
    rcases ties.cases with ⟨-, e⟩ | ⟨o, o', -, e, -⟩ | ⟨i1, i', e1, e, -, subs⟩
    · cases e
    · cases e
    · cases e
      exact (h.live m (subscribers c i1 m (State.inputAt_of_chan e1) (subs m hm))).1
  · obtain ⟨b', hb', owner⟩ := h.build b hb
    obtain ⟨live, cls⟩ := build b' hb'
    rw [owner] at live cls
    exact ⟨(h.live _ live).1, (h.live _ live).2.trans cls⟩
  · obtain ⟨i, start, e⟩ := startup (h.store 5 h5)
    exact h.startup i start e h5

/-! ### Work that keeps the laws -/

/-- From `s` to `t` pins, pairs and sessions stay lawful, and nothing comes to belong to anyone. All that the part does
by itself between two requests is of this kind, but for the startup load and the ends of sessions. -/
structure State.works (s t : State) : Prop where
  pins : s.pinsAgree → t.pinsAgree
  pairs : s.pairsKept → t.pairsKept
  sessions : s.sessionsLawful → t.sessionsLawful
  holdings : s.sameHoldings t

@[refl] theorem State.works.refl (s : State) : s.works s := ⟨id, id, id, .refl s⟩

@[trans] theorem State.works.trans {s t u : State} (h : s.works t) (k : t.works u) : s.works u :=
  ⟨k.pins ∘ h.pins, k.pairs ∘ h.pairs, k.sessions ∘ h.sessions, h.holdings.trans k.holdings⟩

theorem State.works.foldl {α : Type} {f : State → α → State} (hf : ∀ (s : State) a, s.works (f s a)) (l : List α) (s : State) :
    s.works (l.foldl f s) := by
  induction l generalizing s with
  | nil => exact .refl s
  | cons a l ih => exact (hf s a).trans (ih (f s a))

theorem State.pinsAgree_of_eq {s t : State} (hp : t.pins = s.pins) (hc : t.channels = s.channels) :
    s.pinsAgree → t.pinsAgree :=
  State.pinsAgree_of_faces (fun p => by rw [State.pin, State.pin, hp]) fun c => by rw [State.chan, State.chan, hc]

theorem State.pairsKept_of_eq {s t : State} (hc : t.channels = s.channels) (hi : t.interlocks = s.interlocks)
    (hr : t.stop.run = .stopped → s.stop.run = .stopped) : s.pairsKept → t.pairsKept :=
  State.pairsKept_of_faces (fun i => by rw [State.interlock, State.interlock, hi])
    (fun c => by rw [State.chan, State.chan, hc]) hr

theorem State.sessionsLawful_of_eq {s t : State} (h : t.sessions = s.sessions) : s.sessionsLawful → t.sessionsLawful := by
  simp only [State.sessionsLawful, State.session, h]
  exact id

/-- Work that leaves all that the laws speak of, but for what the holdings say. -/
theorem State.works.of_holdings {s t : State} (holdings : s.sameHoldings t) (hp : t.pins = s.pins := by rfl)
    (hc : t.channels = s.channels := by rfl) (hi : t.interlocks = s.interlocks := by rfl)
    (hr : t.stop.run = .stopped → s.stop.run = .stopped := by exact id) (hs : t.sessions = s.sessions := by rfl) :
    s.works t :=
  ⟨State.pinsAgree_of_eq hp hc, State.pairsKept_of_eq hc hi hr, State.sessionsLawful_of_eq hs, holdings⟩

theorem State.works.of_same {s t : State} (hp : t.pins = s.pins := by rfl) (hc : t.channels = s.channels := by rfl)
    (hi : t.interlocks = s.interlocks := by rfl) (hr : t.stop.run = .stopped → s.stop.run = .stopped := by exact id)
    (hs : t.sessions = s.sessions := by rfl) (hq : t.queue = s.queue := by rfl) (ht : t.triggers = s.triggers := by rfl)
    (hb : t.build = s.build := by rfl) (ho : t.store = s.store := by rfl) : s.works t :=
  .of_holdings (.of_same hc hq ht hs hb ho) hp hc hi hr hs

/-- Work on the queue alone, whose entries keep their bonds. -/
theorem State.works.of_queue {s t : State} (queue : ∀ e ∈ t.queue, s.holds e) (hp : t.pins = s.pins := by rfl)
    (hc : t.channels = s.channels := by rfl) (hi : t.interlocks = s.interlocks := by rfl)
    (hr : t.stop = s.stop := by rfl) (hs : t.sessions = s.sessions := by rfl)
    (ht : t.triggers = s.triggers := by rfl) (hb : t.build = s.build := by rfl) (ho : t.store = s.store := by rfl) :
    s.works t :=
  .of_holdings (.of_parts (State.sameTies_of_eq hc) queue (State.trigger_of_eq ht) hs hb ho) hp hc hi
    (fun k => hr ▸ k) hs

/-- Work on channels and pins alone, whose channels keep their ties. -/
theorem State.works.of_channels {s t : State} (pins : s.pinsAgree → t.pinsAgree) (pairs : s.pairsKept → t.pairsKept)
    (ties : ∀ c, (s.chan c).sameTies (t.chan c)) (hs : t.sessions = s.sessions := by rfl)
    (hq : t.queue = s.queue := by rfl) (ht : t.triggers = s.triggers := by rfl) (hb : t.build = s.build := by rfl)
    (ho : t.store = s.store := by rfl) : s.works t :=
  ⟨pins, pairs, State.sessionsLawful_of_eq hs,
    .of_parts ties (State.holds_of_eq hq) (State.trigger_of_eq ht) hs hb ho⟩

/-- Work on channels that changes neither their faces nor their ties. -/
theorem State.works.of_faces {s t : State} (faces : ∀ c, (s.chan c).sameFace (t.chan c))
    (ties : ∀ c, (s.chan c).sameTies (t.chan c)) (hp : t.pins = s.pins := by rfl)
    (hi : t.interlocks = s.interlocks := by rfl) (hr : t.stop = s.stop := by rfl)
    (hs : t.sessions = s.sessions := by rfl) (hq : t.queue = s.queue := by rfl) (ht : t.triggers = s.triggers := by rfl)
    (hb : t.build = s.build := by rfl) (ho : t.store = s.store := by rfl) : s.works t :=
  .of_channels (State.pinsAgree_of_faces (fun p => by rw [State.pin, State.pin, hp]) faces)
    (State.pairsKept_of_faces (fun i => by rw [State.interlock, State.interlock, hi]) faces fun k => hr ▸ k) ties hs hq ht
    hb ho

theorem State.faces_setChan {s : State} {c : Nat} {r : Channel} (face : (s.chan c).sameFace r) (d : Nat) :
    (s.chan d).sameFace ((s.setChan c r).chan d) := by
  rw [State.chan_setChan]
  split
  · rename_i k
    obtain ⟨rfl, -⟩ := k
    exact face
  · rfl

theorem State.ties_setChan {s : State} {c : Nat} {r : Channel} (ties : (s.chan c).sameTies r) (d : Nat) :
    (s.chan d).sameTies ((s.setChan c r).chan d) := by
  rw [State.chan_setChan]
  split
  · rename_i k
    obtain ⟨rfl, -⟩ := k
    exact ties
  · rfl

theorem State.works_setChan {s : State} {c : Nat} {r : Channel} (face : (s.chan c).sameFace r) (ties : (s.chan c).sameTies r) :
    s.works (s.setChan c r) := .of_faces (State.faces_setChan face) (State.ties_setChan ties)

/-- A session record is renewed: port, class, tag and interval stay (R120). -/
theorem State.works_setHost {s : State} {n : Nat} {h g : HostSession} (e : s.session n = .host h) (port : g.port = h.port)
    (cls : g.cls = h.cls) (tag : g.tag = h.tag) (interval : g.interval = h.interval)
    (expected : h.expected < 256 → g.expected < 256) : s.works (s.setSession n (.host g)) := by
  obtain ⟨low, high⟩ := State.session_ne_zero e
  have same : ∀ m, m ≠ n → (s.setSession n (.host g)).session m = s.session m := fun m k =>
    s.session_setSession_ne n m _ k.symm
  have here : (s.setSession n (.host g)).session n = .host g := s.session_setSession_same n _ low high
  have before : ∀ m x, (s.setSession n (.host g)).session m = .host x → ∃ y, s.session m = .host y ∧ x.port = y.port ∧
      x.cls = y.cls ∧ x.tag = y.tag ∧ x.interval = y.interval ∧ (y.expected < 256 → x.expected < 256) := by
    intro m x k
    by_cases hm : m = n
    · subst hm
      rw [here] at k
      cases k
      exact ⟨h, e, port, cls, tag, interval, expected⟩
    · rw [same m hm] at k
      exact ⟨x, k, rfl, rfl, rfl, rfl, id⟩
  refine ⟨State.pinsAgree_of_eq (by simp) (by simp), State.pairsKept_of_eq (by simp) (by simp) (by simp), ?_, ?_⟩
  · rintro ⟨ranges, locals, service, tags⟩
    refine ⟨fun m x k => ?_, fun m k => ?_, fun m m' x x' k k' hc hc' => ?_, fun m m' x x' k k' hp ht => ?_⟩
    · obtain ⟨y, ey, -, -, -, interval, expected⟩ := before m x k
      obtain ⟨h1, h4, lo, hi, bound⟩ := ranges m y ey
      exact ⟨h1, h4, interval ▸ lo, interval ▸ hi, expected bound⟩
    · by_cases hm : m = n
      · subst hm
        rw [here] at k
        cases k
      · rw [same m hm] at k
        exact locals m k
    · obtain ⟨y, ey, -, cls, -⟩ := before m x k
      obtain ⟨y', ey', -, cls', -⟩ := before m' x' k'
      exact service m m' y y' ey ey' (cls ▸ hc) (cls' ▸ hc')
    · obtain ⟨y, ey, port, -, tag, -⟩ := before m x k
      obtain ⟨y', ey', port', -, tag', -⟩ := before m' x' k'
      exact tags m m' y y' ey ey' (port ▸ port' ▸ hp) (tag ▸ tag' ▸ ht)
  · refine .of_live (fun m k => ?_) (State.sameTies_of_eq (by simp)) (State.holds_of_eq (by simp))
      (State.trigger_of_eq (by simp)) (by simp) (by simp)
    by_cases hm : m = n
    · subst hm
      simp [State.classOf, here, e, Session.live, Session.cls, cls]
    · simp only [State.classOf, same m hm]
      exact ⟨k, trivial⟩

/-! ### Reports -/

theorem State.works_setReportQueue (s : State) (n : Nat) (q : ReportQueue) : s.works (s.setReportQueue n q) :=
  .of_same (by simp) (by simp) (by simp) (by simp) (by simp) (by simp) (by simp) (by simp) (by simp)

theorem State.works_addReport (s : State) (n time : Nat) (body : ReportBody) : s.works (s.addReport n time body) := by
  obtain ⟨q, e⟩ := s.addReport_frame n time body
  rw [e]
  exact .of_same

theorem State.works_reportTo (s : State) (n : Option Nat) (body : ReportBody) : s.works (s.reportTo n body) := by
  cases n with
  | none => exact .refl s
  | some m => exact s.works_addReport m s.now body

theorem State.works_reportStop (s : State) (change : StopChange) (byLine : Bool) (n : Nat) (first : Option Nat) :
    s.works (s.reportStop change byLine n first) :=
  .foldl (fun t m => t.works_addReport m _ _) _ s

/-! ### Drives -/

/-- An output written with its owner and options as they were. -/
theorem State.works_putOutput {s : State} {c : Nat} {o o' : Output} (e : s.chan c = .output o) (cfg : o'.cfg = o.cfg)
    (owner : o'.owner = o.owner) (pairs : s.pairsKept → (s.putOutput c o').pairsKept) : s.works (s.putOutput c o') := by
  refine .of_channels (fun h => State.pinsAgree_putOutput h e cfg) pairs fun d => ?_
  rw [State.putOutput_chan]
  split
  · rename_i k
    obtain ⟨rfl, -⟩ := k
    rw [e]
    exact owner
  · rfl

/-- What pairs ask of a drive: while the part is STOPPED it is one to rest, and it makes the output ACTIVE only where it
was so or its partners are INACTIVE (R83, R110). -/
def State.allowsDrive (s : State) (c : Nat) (o : Output) (l : Level) (release : Option Nat) : Prop :=
  (s.stop.run = .stopped → o.atRest → l = o.cfg.safe ∧ release = none) ∧
    (l = .active → o.level = .active ∨ s.partnersInactive c)

theorem State.works_driveOutput {s : State} {c : Nat} {o : Output} (e : s.chan c = .output o) (l : Level)
    (release : Option Nat) (allowed : s.pairsKept → s.allowsDrive c o l release) :
    s.works (s.driveOutput c o l release) := by
  refine s.works_putOutput (o' := { o with
    level := l, lastOff := o.lastOffAfter l s.now, release := release, condition := .settling (s.elapsed + o.cfg.settle) })
    e rfl rfl fun h => ?_
  obtain ⟨rest, apart⟩ := allowed h
  obtain ⟨joined, all⟩ := s.pairsKept_iff.1 h
  refine (State.pairsKept_iff _).2 ⟨State.joinedKept_putOutput joined e rfl (fun k => nomatch k) apart, fun run => ?_⟩
  have kept : s.keepsRest (s.driveOutput c o l release) := State.keepsRest_putOutput e (rest run)
  exact kept.allRest (all run)

theorem State.running_of_ne {s : State} (h : s.stop.run = .running) : s.stop.run ≠ .stopped := by
  rw [h]
  exact fun k => nomatch k

theorem State.works_breakPartner {s : State} (run : s.stop.run = .running) (y : Nat) : s.works (s.breakPartner y) := by
  unfold State.breakPartner
  split
  · rename_i o e
    split
    · exact s.works_driveOutput e _ _ fun _ => ⟨fun k => absurd k (State.running_of_ne run), fun k => nomatch k⟩
    · exact .refl s
  · exact .refl s

theorem State.pinsAgree_breakPartner {s : State} (h : s.pinsAgree) (y : Nat) : (s.breakPartner y).pinsAgree := by
  unfold State.breakPartner
  split
  · rename_i o e
    split
    · exact State.pinsAgree_putOutput h e rfl
    · exact h
  · exact h

theorem State.pinsAgree_breakPartners {s : State} (h : s.pinsAgree) (c : Nat) : (s.breakPartners c).pinsAgree := by
  unfold State.breakPartners
  generalize s.partnersOf c = l
  induction l generalizing s with
  | nil => exact h
  | cons y l ih => exact ih (State.pinsAgree_breakPartner h y)

/-- A channel keeps options and owner when the partners of some channel are broken. -/
theorem State.breakPartners_output (s : State) (c : Nat) {d : Nat} {o : Output} (e : s.chan d = .output o) :
    ∃ o', (s.breakPartners c).chan d = .output o' ∧ o'.cfg = o.cfg ∧ o'.owner = o.owner := by
  rcases s.breakPartners_chan c d with same | ⟨-, p, ep, -, -, broken⟩
  · exact ⟨o, by rw [same, e], rfl, rfl⟩
  · rw [e] at ep
    cases ep
    exact ⟨_, broken, rfl, rfl⟩

theorem State.sameTies_breakPartners (s : State) (c d : Nat) : (s.chan d).sameTies ((s.breakPartners c).chan d) := by
  rcases s.breakPartners_chan c d with same | ⟨-, o, e, -, -, broken⟩
  · rw [same]
  · rw [e, broken]
    exact rfl

/-- An output comes to rest, its ACTIVE partners broken first when it becomes ACTIVE (R26, R85). -/
theorem State.works_breakThenPut {s : State} {c : Nat} {o o' : Output} (e : s.chan c = .output o) (cfg : o'.cfg = o.cfg)
    (owner : o'.owner = o.owner) (rest : o'.atRest) :
    s.works ((if o.cfg.safe = .active ∧ o.level = .inactive then s.breakPartners c else s).putOutput c o') := by
  have frame : ∃ ch ps, (if o.cfg.safe = .active ∧ o.level = .inactive then s.breakPartners c else s) =
      { s with channels := ch, pins := ps } := by
    split
    · exact s.breakPartners_frame c
    · exact ⟨_, _, rfl⟩
  have pins : s.pinsAgree →
      ((if o.cfg.safe = .active ∧ o.level = .inactive then s.breakPartners c else s).putOutput c o').pinsAgree := by
    intro h
    split
    · obtain ⟨p, ep, cfg', -⟩ := s.breakPartners_output c e
      exact State.pinsAgree_putOutput (State.pinsAgree_breakPartners h c) ep (cfg.trans cfg'.symm)
    · exact State.pinsAgree_putOutput h e cfg
  have ties : ∀ d, (s.chan d).sameTies
      (((if o.cfg.safe = .active ∧ o.level = .inactive then s.breakPartners c else s).putOutput c o').chan d) := by
    intro d
    rw [State.putOutput_chan]
    split
    · rename_i k
      obtain ⟨rfl, -⟩ := k
      rw [e]
      exact owner
    · split
      · exact s.sameTies_breakPartners c d
      · rfl
  have pairs := fun h : s.joinedKept => State.joinedKept_breakThenPut h e cfg rest
  obtain ⟨ch, ps, frame⟩ := frame
  rw [frame] at pins ties pairs ⊢
  exact .of_channels pins (State.pairsKept_of_joined (fun h => (pairs h).1) (fun h => (pairs h).2) id) ties

theorem State.works_driveSafe (s : State) (c : Nat) : s.works (s.driveSafe c) := by
  rcases s.driveSafe_cases c with ⟨same, -⟩ | ⟨o, o', e, cfg, owner, rest, eq⟩
  · rw [same]
  · rw [eq]
    exact State.works_breakThenPut e cfg owner rest

theorem State.works_setHeld (s : State) (c : Nat) (held : Bool) : s.works (s.setHeld c held) := by
  unfold State.setHeld
  split
  · rename_i o e
    exact State.works_setChan (e ▸ ⟨rfl, rfl, rfl, id⟩) (e ▸ rfl)
  · exact .refl s

end Sys2Proof.Machine
end

section
/-!
Occurrences, the overdue disposition, stop entries, loads and events keep pins, pairs, sessions and ownership.
-/

namespace Sys2Proof.Machine

/-! ### The queue -/

theorem State.works_removeEntry (s : State) (adm : Nat) : s.works (s.removeEntry adm) :=
  .of_queue fun _ he => State.holds_of_mem ((s.mem_removeEntry adm _).1 he).1

theorem State.works_filterQueue (s : State) (f : Entry → Bool) : s.works { s with queue := s.queue.filter f } :=
  .of_queue fun _ he => State.holds_of_mem (List.mem_of_mem_filter he)

theorem State.works_rephase {s : State} {e : Entry} (h : s.holds e) (ph : Phase) : s.works (s.rephase e ph) :=
  .of_queue fun x hx => by
    rcases (s.mem_rephase e x ph).1 hx with rfl | ⟨hx, -⟩
    · exact h
    · exact State.holds_of_mem hx

theorem State.works_requeue {s : State} {e : Entry} (h : s.holds e) : s.works (s.requeue e) :=
  .of_queue fun x hx => by
    rcases (s.mem_requeue e x).1 hx with rfl | ⟨hx, -⟩
    · exact h
    · exact State.holds_of_mem hx

theorem State.works_passOver (s : State) : s.works s.passOver := .of_same

theorem State.holds_addReport {s : State} {e : Entry} (h : s.holds e) (n time : Nat) (body : ReportBody) :
    (s.addReport n time body).holds e := by
  obtain ⟨q, frame⟩ := s.addReport_frame n time body
  rw [frame]
  exact h

/-! ### Occurrences, verdicts and the overdue disposition -/

theorem State.works_repeatStep {s : State} {e : Entry} (h : s.holds e) : s.works (s.repeatStep e) := by
  unfold State.repeatStep
  split
  · exact s.works_removeEntry e.adm
  · split
    · exact State.works_requeue h
    · exact (s.works_removeEntry e.adm).trans (State.works_addReport _ _ _ _)

theorem State.works_succeed {s : State} {e : Entry} (h : s.holds e) (time : Nat) : s.works (s.succeed e time) := by
  unfold State.succeed
  split
  · exact (s.works_addReport _ _ _).trans (State.works_repeatStep (e := { e with skipped := 0 }) (State.holds_addReport h _ _ _))
  · exact State.works_repeatStep h

theorem State.works_failOccurrence {s : State} {e : Entry} (h : s.holds e) (reason : FailReason) (time : Nat) :
    s.works (s.failOccurrence e reason time) :=
  (s.works_addReport _ _ _).trans (State.works_repeatStep (e := { e with skipped := 0 }) (State.holds_addReport h _ _ _))

theorem State.breakPartner_queue (s : State) (y : Nat) : (s.breakPartner y).queue = s.queue := by
  obtain ⟨ch, ps, frame⟩ := s.breakPartner_frame y
  rw [frame]

theorem State.works_deferral {s : State} {e : Entry} (run : s.stop.run = .running) (h : s.holds e) (broken : Option Nat)
    (ph : Phase) : s.works ((s.breakFor broken).rephase e ph) := by
  cases broken with
  | none => exact State.works_rephase h ph
  | some y =>
    refine (State.works_breakPartner run y).trans (State.works_rephase ?_ ph)
    rw [State.holds, State.breakPartner_queue]
    exact h

theorem State.works_applyVerdict {s : State} {e : Entry} (run : s.stop.run = .running) (h : s.holds e) (v : Verdict) :
    s.works (s.applyVerdict e v) := by
  cases v with
  | fail reason => exact State.works_failOccurrence h reason s.now
  | waitGuard k => exact State.works_rephase h _
  | defer k broken => exact State.works_deferral run h broken _
  | drive l release => exact .of_same

theorem State.mem_entry? {s : State} {adm : Nat} {e : Entry} (h : s.entry? adm = some e) : e ∈ s.queue :=
  List.mem_of_find?_eq_some h

/-- The confirmation finds every partner INACTIVE (R83). -/
theorem State.partnersInactive_of_confirmed {s : State} {c : Nat} (h : s.interlockConfirmed c = true) :
    s.partnersInactive c := by
  intro y hy p ep
  obtain ⟨i, r, hi, hr⟩ := (s.mem_partnersOf c y).1 hy
  have confirmed := List.all_eq_true.1 h r ((s.mem_interlockList r).2 ⟨i, hi⟩)
  simp only [State.confirms, hr, ep, Bool.and_eq_true, decide_eq_true_eq] at confirmed
  exact confirmed.1

/-- What the Channel Matrix has judged of a drive request that it takes (R134). -/
theorem State.judgeDrive_taken {s : State} {f : InFlight} (h : s.judgeDrive f = .taken) :
    ∃ o, s.chan f.target = .output o ∧ f.owner ≠ none ∧ o.owner = f.owner ∧ o.held = false ∧ s.stop.run ≠ .stopped ∧
      (o.isFaulted = false → o.level = .inactive → f.level = .active → s.interlockConfirmed f.target = true) := by
  unfold State.judgeDrive at h
  split at h
  · rename_i o e
    split at h
    · cases h
    rename_i mine
    split at h
    · cases h
    rename_i running
    refine ⟨o, e, fun k => mine (.inl k), ?_, ?_, by simpa [State.stopped] using running, fun sound off act => ?_⟩
    · by_contra k
      exact mine (.inr (.inl k))
    · by_contra k
      exact mine (.inr (.inr (Bool.eq_true_of_not_eq_false k)))
    · rw [sound] at h
      by_contra k
      simp [off, act, Bool.eq_false_of_not_eq_true k] at h
  · cases h

theorem State.works_driveAction {s : State} {f : InFlight} (taken : s.judgeDrive f = .taken) :
    s.works (s.driveAction f) := by
  obtain ⟨o, e, -, -, -, running, confirmed⟩ := State.judgeDrive_taken taken
  unfold State.driveAction
  rw [e]
  dsimp only
  split
  · exact .refl s
  · rename_i sound
    refine s.works_driveOutput e _ _ fun _ => ⟨fun k => absurd k running, fun act => ?_⟩
    cases l : o.level with
    | active => exact .inl rfl
    | inactive =>
      exact .inr (State.partnersInactive_of_confirmed (confirmed (Bool.eq_false_of_not_eq_true sound) l act))

theorem State.works_settleDrive (s : State) (f : InFlight) : s.works (s.settleDrive f) := by
  unfold State.settleDrive
  split
  · rename_i taken
    have driven := State.works_driveAction taken
    obtain ⟨ch, ps, frame⟩ := s.driveAction_frame f
    dsimp only
    split
    · rename_i e found
      refine driven.trans (State.works_succeed ?_ _)
      rw [State.holds, frame]
      exact State.holds_of_mem (State.mem_entry? found)
    · exact driven
  · exact .refl s
  all_goals
    split
    · rename_i e found
      exact State.works_failOccurrence (State.holds_of_mem (State.mem_entry? found)) _ _
    · exact .refl s

theorem State.works_applyVerdictNow {s : State} {e : Entry} (run : s.stop.run = .running) (h : s.holds e) (v : Verdict) :
    s.works (s.applyVerdictNow e v) := by
  cases v with
  | fail reason => exact State.works_failOccurrence h reason s.now
  | waitGuard k => exact State.works_rephase h _
  | defer k broken => exact State.works_deferral run h broken _
  | drive l release => exact s.works_settleDrive _

theorem State.works_expire {s : State} {e : Entry} (h : s.holds e) : s.works (s.expire e) := by
  unfold State.expire
  dsimp only
  split
  · exact (s.works_removeEntry _).trans (State.works_addReport _ _ _ _)
  · split
    · refine .trans (State.works_requeue ?_) (State.works_addReport _ _ _ _)
      exact h
    · exact (s.works_removeEntry _).trans (State.works_addReport _ _ _ _)

theorem State.works_disposeEntry {s : State} {e : Entry} (run : s.stop.run = .running) (h : s.holds e) :
    s.works (s.disposeEntry e) := by
  have overdue : ∀ key, s.works
      (if key < s.now then if e.act.carry then s.applyVerdictNow e (s.judge e) else s.expire e else s) := by
    intro key
    split
    · split
      · exact State.works_applyVerdictNow run h _
      · exact State.works_expire h
    · exact .refl s
  unfold State.disposeEntry
  split
  · split
    · exact State.works_failOccurrence h _ _
    · split
      · split
        · exact State.works_applyVerdictNow run h _
        · exact .refl s
      · exact .refl s
  · exact .refl s
  · exact overdue _
  · exact overdue _

theorem State.works_visitOverdue {s : State} (run : s.stop.run = .running) (adm : Nat) : s.works (s.visitOverdue adm) := by
  unfold State.visitOverdue
  split
  · exact .refl s
  · rename_i e found
    have held := State.holds_of_mem (State.mem_entry? found)
    split
    · split
      · exact .refl s
      · exact State.works_disposeEntry run held
    · exact State.works_disposeEntry run held

theorem State.visitOverdue_stop (s : State) (adm : Nat) : (s.visitOverdue adm).stop = s.stop := by
  have disposed : ∀ e, (s.disposeEntry e).stop = s.stop := by
    intro e
    obtain ⟨_, _, _, _, _, frame⟩ := s.disposeEntry_frame e
    rw [frame]
  unfold State.visitOverdue
  split
  · rfl
  · split
    · split
      · rfl
      · exact disposed _
    · exact disposed _

/-- The overdue disposition is made by a RUNNING part (R112, R128). -/
theorem State.works_dispose {s : State} (run : s.stop.run = .running) (owners : Nat → Bool) : s.works (s.dispose owners) := by
  unfold State.dispose
  generalize ((s.queue.filter fun e => owners e.owner).map Entry.adm) = l
  induction l generalizing s with
  | nil => exact .refl s
  | cons adm l ih => exact (State.works_visitOverdue run adm).trans (ih (by rw [State.visitOverdue_stop, run]))

/-! ### Sessions -/

theorem State.works_life {s : State} {n : Nat} {h : HostSession} (e : s.session n = .host h) (life : SessionLife) :
    s.works (s.setSession n (.host { h with life := life })) :=
  State.works_setHost e rfl rfl rfl rfl id

theorem RunState.running_of_not_stopped {r : RunState} (h : r ≠ .stopped) : r = .running := by
  cases r with
  | running => rfl
  | stopped => exact absurd rfl h

theorem State.works_returnSession {s : State} {n : Nat} {h : HostSession} (e : s.session n = .host h) :
    s.works (s.returnSession n h) := by
  unfold State.returnSession
  extract_lets held s1 s2 s3
  have opened : s.works s1 := State.works_life e _
  have released : s.works s2 := opened.trans (.foldl (fun t c => t.works_setHeld c false) held s1)
  have noticed : s.works s3 := released.trans (s2.works_addReport _ _ _)
  split
  · exact noticed
  · rename_i running
    exact noticed.trans (State.works_dispose (RunState.running_of_not_stopped (by simpa [State.stopped] using running)) _)

theorem State.works_arrive {s : State} {n : Nat} {h : HostSession} (e : s.session n = .host h) : s.works (s.arrive n h) := by
  unfold State.arrive
  split
  · exact State.works_life e _
  · exact State.works_returnSession e

theorem State.works_noteReply (s : State) (n seq : Nat) (r : Frame) (cached : Bool) :
    s.works (s.noteReply n seq r cached) := by
  unfold State.noteReply
  split
  · rename_i h e
    exact State.works_setHost e rfl rfl rfl rfl fun _ => Nat.mod_lt _ (by decide)
  · exact .refl s

theorem State.works_lapse {s : State} {n : Nat} {h : HostSession} (e : s.session n = .host h) : s.works (s.lapse n h) := by
  unfold State.lapse
  extract_lets s1 owned
  have lapsed : s.works s1 := (State.works_life e _).trans (State.works_passOver _)
  have driven : s1.works (owned.foldl State.driveSafe s1) := .foldl State.works_driveSafe owned s1
  exact (lapsed.trans driven).trans (.foldl (fun t c => t.works_setHeld c true) owned _)

/-! ### Stop Control -/

theorem State.works_withStop (s : State) (c : StopControl) (run : c.run = .stopped → s.stop.run = .stopped) :
    s.works { s with stop := c } := .of_same (hr := run)

theorem State.works_signalSafe (s : State) : s.works { s with stop := { s.stop with safeAsserted := true } } :=
  s.works_withStop { s.stop with safeAsserted := true } id

theorem State.works_releaseLine (s : State) : s.works { s with stop := { s.stop with line := false } } :=
  s.works_withStop { s.stop with line := false } id

theorem State.works_driveAllSafe (s : State) : s.works s.driveAllSafe := .foldl State.works_driveSafe channelNumbers s

/-- The drives of a stop entry bring every output to rest, which is what STOPPED asks (R109, R110). -/
theorem State.works_enterStopped (s : State) (byLine : Bool) (n : Nat) (first : Option Nat) :
    s.works (s.enterStopped byLine n first) := by
  unfold State.enterStopped
  extract_lets cause s1 s2 raised s3
  have driven : s1.passOver.works s2 := s1.passOver.works_driveAllSafe
  have stopped : s.works s2 := by
    refine ⟨fun h => driven.pins (State.pinsAgree_of_eq rfl rfl h), fun h => ?_,
      fun h => driven.sessions (State.sessionsLawful_of_eq rfl h), .trans .of_same driven.holdings⟩
    have joined : s1.passOver.joinedKept :=
      State.joinedKept_of_faces (fun _ => rfl) (fun _ => .refl _) ((State.pairsKept_iff _).1 h).1
    obtain ⟨kept, rest⟩ := State.allRest_driveAllSafe joined
    exact (State.pairsKept_iff _).2 ⟨kept, fun _ => rest⟩
  have signalled : s2.works s3 := s2.works_signalSafe
  exact (stopped.trans signalled).trans (s3.works_reportStop _ _ _ _)

theorem StopControl.addCause_run (c : StopControl) (byLine : Bool) : (c.addCause byLine).run = c.run := by
  unfold StopControl.addCause
  split <;> rfl

theorem State.works_addCause (s : State) (byLine : Bool) (n : Nat) (first : Option Nat) :
    s.works (s.addCause byLine n first) :=
  .trans (s.works_withStop _ fun k => s.stop.addCause_run byLine ▸ k) (State.works_reportStop _ _ _ _ _)

theorem State.works_haltBy (s : State) (n : Nat) : s.works (s.haltBy n) := by
  unfold State.haltBy
  split
  · exact s.works_enterStopped _ _ _
  · split
    · exact .refl s
    · exact s.works_addCause _ _ _

theorem State.reportStop_stop (s : State) (change : StopChange) (byLine : Bool) (n : Nat) (first : Option Nat) :
    (s.reportStop change byLine n first).stop = s.stop := by
  unfold State.reportStop State.reportToAll
  generalize s.stopReport change byLine n first = body
  generalize s.now = k
  generalize sessionNumbers = l
  induction l generalizing s with
  | nil => rfl
  | cons m l ih => rw [List.foldl_cons, ih, State.addReport_stop]

theorem State.works_resumeBy (s : State) (n : Nat) : s.works (s.resumeBy n) := by
  unfold State.resumeBy
  extract_lets before s1 s2
  have resumed : s.works s1 := s.works_withStop _ fun k => nomatch k
  have reported : s1.works s2 := s1.works_reportStop _ _ _ _
  have run : s2.stop.run = .running := congrArg StopControl.run (s1.reportStop_stop _ _ _ _)
  exact (resumed.trans reported).trans (State.works_dispose run _)

theorem State.works_lineChange (s : State) (asserted : Bool) (first : Nat) : s.works (s.lineChange asserted first) := by
  unfold State.lineChange
  split
  · split
    · exact s.works_enterStopped _ _ _
    · exact s.works_addCause _ _ _
  · exact s.works_releaseLine.trans (State.works_reportStop _ _ _ _ _)

/-! ### Events of engine, matrix and triggers -/

theorem State.running_of_not_withheld {s : State} {e : Entry} (h : s.withheld e = false) : s.stop.run = .running := by
  refine RunState.running_of_not_stopped fun k => ?_
  simp [State.withheld, State.stopped, k] at h

theorem State.nextReached_spec {s : State} {e : Entry} (h : s.nextReached = some e) :
    e ∈ s.queue ∧ s.stop.run = .running := by
  unfold State.nextReached at h
  split at h
  · cases h
  · have found := List.find?_some h
    simp only [Bool.and_eq_true, Bool.not_eq_true'] at found
    exact ⟨List.mem_of_find?_eq_some h, State.running_of_not_withheld found.2⟩

theorem State.nextReevaluation_spec {s : State} {e : Entry} {ls : List LevelChange}
    (h : s.nextReevaluation = some (e, ls)) : e ∈ s.queue ∧ s.stop.run = .running := by
  unfold State.nextReevaluation at h
  split at h
  · cases h
  · rename_i l _ _
    obtain ⟨x, found, eq⟩ := Option.map_eq_some_iff.1 h
    cases eq
    have awaits := List.find?_some found
    simp only [State.awaits, State.reevaluates, Bool.and_eq_true, Bool.not_eq_true'] at awaits
    exact ⟨List.mem_of_find?_eq_some found, State.running_of_not_withheld awaits.2.2⟩

theorem State.works_reevaluate {s : State} {e : Entry} (run : s.stop.run = .running) (h : s.holds e) :
    s.works (s.reevaluate e) := by
  unfold State.reevaluate
  split
  · exact .refl s
  · split
    · exact State.works_applyVerdict run h _
    · exact .refl s

theorem State.works_faultEntry {s : State} {c : Nat} {o : Output} (e : s.chan c = .output o) (bad : List Nat) :
    s.works (s.faultEntry c o bad) := by
  unfold State.faultEntry
  extract_lets s1 s2
  have faulted : s.works s2 := State.works_breakThenPut e rfl rfl ⟨rfl, rfl⟩
  split
  · exact faulted.trans (s2.works_addReport _ _ _)
  · exact faulted

theorem State.works_handLevelChange (s : State) (c : Nat) : s.works (s.handLevelChange c) := by
  unfold State.handLevelChange
  dsimp only
  split
  · exact .refl s
  · exact .of_same

theorem State.works_handEdge (s : State) (c : Nat) (subscribers : List Nat) (rising : Bool) (t : Nat) :
    s.works (s.handEdge c subscribers rising t) :=
  .trans .of_same (State.works_handLevelChange _ c)

/-- An input record rewritten on its pin, with its owner and subscribers. -/
theorem State.works_setInput {s : State} {c : Nat} {i i' : Input} (e : s.chan c = .input i) (pin : i'.pin = i.pin)
    (owner : i'.owner = i.owner) (subs : ∀ m ∈ i'.subscribers, m ∈ i.subscribers) :
    s.works (s.setChan c (.input i')) :=
  State.works_setChan (e ▸ pin) (e ▸ ⟨owner, subs⟩)

theorem State.works_sampleInput {s : State} {c : Nat} {i : Input} (e : s.chan c = .input i) (l : PinLevel) :
    s.works (s.sampleInput c i l) := by
  unfold State.sampleInput
  dsimp only
  split
  · exact State.works_setInput e rfl rfl fun _ => id
  split
  · exact State.works_setInput e rfl rfl fun _ => id
  split
  · refine .trans ?_ (State.works_handLevelChange _ _)
    exact State.works_setInput e rfl rfl fun _ => id
  · refine .trans ?_ (State.works_handEdge _ _ _ _ _)
    exact State.works_setInput e rfl rfl fun _ => id

theorem State.trigger_setTrigger (s : State) (t x : Nat) (r : Option Trigger) :
    (s.setTrigger t r).trigger x = if t = x ∧ x < 16 then r else s.trigger x := by
  split
  · rename_i h
    obtain ⟨rfl, h⟩ := h
    exact s.trigger_setTrigger_same t r h
  · rename_i h
    by_cases e : t = x
    · subst e
      have out : 16 ≤ t := by omega
      rw [State.trigger, State.trigger, tget_out _ _ _ out, tget_out _ _ _ out]
    · exact s.trigger_setTrigger_ne t x r e

/-- A trigger record is cleared, or rewritten with its owner and source. -/
theorem State.works_setTrigger {s : State} {t : Nat} {r : Option Trigger}
    (h : ∀ x, r = some x → ∃ y, s.trigger t = some y ∧ y.owner = x.owner ∧ y.spec.source = x.spec.source) :
    s.works (s.setTrigger t r) :=
  .of_holdings (.of_parts (State.sameTies_of_eq rfl) (State.holds_of_eq rfl) fun k x e => by
    rw [State.trigger_setTrigger] at e
    split at e
    · obtain ⟨y, ey, same⟩ := h x e
      exact ⟨t, y, ey, same⟩
    · exact ⟨k, x, e, rfl, rfl⟩)

theorem State.works_visitTrigger (x : Edge) (s : State) (t : Nat) : s.works (s.visitTrigger x t) := by
  unfold State.visitTrigger
  split
  · exact .refl s
  · rename_i r held
    split
    · extract_lets s1
      have written : s.works s1 := State.works_setTrigger fun y e => by
        cases e
        exact ⟨r, held, rfl, rfl⟩
      exact written.trans .of_same
    · exact .refl s

end Sys2Proof.Machine
end

section
/-!
What makes or ends a belonging keeps the laws: sessions opened and ended, channels bound, claimed and released, entries
and triggers written, the build, the store operation and the loads (R34, R39, R88, R118 to R120, R131 to R141, R162, R165,
R179, R181).
-/

namespace Sys2Proof.Machine

/-! ### The laws of outputs and owners together -/

/-- From `s` to `t` none of the laws of PinsStayAgreed, PairsStayKept and EntriesStayOwned is lost. Every command does
this but the resets and the completion of a read, which lean on the laws of resets and of the store operation. -/
structure State.keepsLaws (s t : State) : Prop where
  pins : s.pinsAgree → t.pinsAgree
  pairs : s.pairsKept → t.pairsKept
  sessions : s.sessionsLawful → t.sessionsLawful
  entries : s.sessionsLawful → s.entriesLawful → t.entriesLawful
  owned : s.sessionsLawful → s.ownershipLawful → t.ownershipLawful

theorem State.works.keepsLaws {s t : State} (h : s.works t) : s.keepsLaws t :=
  ⟨h.pins, h.pairs, h.sessions, fun _ => h.holdings.entriesLawful, fun _ => h.holdings.ownershipLawful⟩

@[refl] theorem State.keepsLaws.refl (s : State) : s.keepsLaws s := (State.works.refl s).keepsLaws

@[trans] theorem State.keepsLaws.trans {s t u : State} (h : s.keepsLaws t) (k : t.keepsLaws u) : s.keepsLaws u :=
  ⟨k.pins ∘ h.pins, k.pairs ∘ h.pairs, k.sessions ∘ h.sessions, fun hs => k.entries (h.sessions hs) ∘ h.entries hs,
    fun hs => k.owned (h.sessions hs) ∘ h.owned hs⟩

theorem State.keepsLaws.then {s t u : State} (h : s.keepsLaws t) (k : t.works u) : s.keepsLaws u := h.trans k.keepsLaws

/-- The laws of entries and owners kept under a condition, those of pins, pairs and sessions without it: what is made for
a session belongs to a live one where that session is live. -/
structure State.keepsLawsIf (s : State) (p : Prop) (t : State) : Prop where
  pins : s.pinsAgree → t.pinsAgree
  pairs : s.pairsKept → t.pairsKept
  sessions : s.sessionsLawful → t.sessionsLawful
  entries : p → s.sessionsLawful → s.entriesLawful → t.entriesLawful
  owned : p → s.sessionsLawful → s.ownershipLawful → t.ownershipLawful

theorem State.keepsLawsIf.keepsLaws {s t : State} {p : Prop} (h : s.keepsLawsIf p t) (hp : p) : s.keepsLaws t :=
  ⟨h.pins, h.pairs, h.sessions, h.entries hp, h.owned hp⟩

theorem State.keepsLaws.given {s t : State} (h : s.keepsLaws t) (p : Prop) : s.keepsLawsIf p t :=
  ⟨h.pins, h.pairs, h.sessions, fun _ => h.entries, fun _ => h.owned⟩

theorem State.keepsLawsIf.trans {s t u : State} {p q : Prop} (h : s.keepsLawsIf p t) (k : t.keepsLawsIf q u) (hpq : p → q) :
    s.keepsLawsIf p u :=
  ⟨k.pins ∘ h.pins, k.pairs ∘ h.pairs, k.sessions ∘ h.sessions,
    fun hp hs => k.entries (hpq hp) (h.sessions hs) ∘ h.entries hp hs,
    fun hp hs => k.owned (hpq hp) (h.sessions hs) ∘ h.owned hp hs⟩

theorem State.keepsLawsIf.then {s t u : State} {p : Prop} (h : s.keepsLawsIf p t) (k : t.keepsLaws u) :
    s.keepsLawsIf p u := h.trans (k.given p) id

/-! ### Sessions opened -/

/-- A host session opens under a FREE number, its tag new to its port, and SERVICE only where no session has it
(R119, R120). -/
theorem State.works_openSession {s : State} {n : Nat} {g : HostSession} (low : 1 ≤ n) (high : n ≤ 4)
    (free : (s.session n).live = false) (interval : 1000 ≤ g.interval ∧ g.interval ≤ 600000) (expected : g.expected < 256)
    (service : g.cls = .service → ∀ m x, s.session m = .host x → x.cls ≠ .service)
    (tag : ∀ m x, m ≤ 4 → s.session m = .host x → x.port = g.port → x.tag ≠ g.tag) :
    s.works (s.setSession n (.host g)) := by
  have same : ∀ m, m ≠ n → (s.setSession n (.host g)).session m = s.session m := fun m k =>
    s.session_setSession_ne n m _ k.symm
  have here : (s.setSession n (.host g)).session n = .host g := s.session_setSession_same n _ low (by omega)
  have before : ∀ m x, (s.setSession n (.host g)).session m = .host x → m = n ∧ x = g ∨ m ≠ n ∧ s.session m = .host x := by
    intro m x k
    by_cases hm : m = n
    · subst hm
      rw [here] at k
      cases k
      exact .inl ⟨rfl, rfl⟩
    · exact .inr ⟨hm, same m hm ▸ k⟩
  refine ⟨State.pinsAgree_of_eq (by simp) (by simp), State.pairsKept_of_eq (by simp) (by simp) (by simp), ?_, ?_⟩
  · rintro ⟨ranges, locals, services, tags⟩
    refine ⟨fun m x k => ?_, fun m k => ?_, fun m m' x x' k k' hc hc' => ?_, fun m m' x x' k k' hp ht => ?_⟩
    · rcases before m x k with ⟨rfl, rfl⟩ | ⟨-, k⟩
      · exact ⟨low, high, interval.1, interval.2, expected⟩
      · exact ranges m x k
    · by_cases hm : m = n
      · subst hm
        rw [here] at k
        cases k
      · exact locals m (same m hm ▸ k)
    · rcases before m x k with ⟨rfl, rfl⟩ | ⟨-, old⟩ <;> rcases before m' x' k' with ⟨rfl, rfl⟩ | ⟨-, old'⟩
      · rfl
      · exact absurd hc' (service hc m' x' old')
      · exact absurd hc (service hc' m x old)
      · exact services m m' x x' old old' hc hc'
    · rcases before m x k with ⟨rfl, rfl⟩ | ⟨-, old⟩ <;> rcases before m' x' k' with ⟨rfl, rfl⟩ | ⟨-, old'⟩
      · rfl
      · exact absurd ht.symm (tag m' x' (ranges m' x' old').2.1 old' hp.symm)
      · exact absurd ht (tag m x (ranges m x old).2.1 old hp)
      · exact tags m m' x x' old old' hp ht
  · refine .of_live (fun m k => ?_) (State.sameTies_of_eq (by simp)) (State.holds_of_eq (by simp))
      (State.trigger_of_eq (by simp)) (by simp) (by simp)
    have hm : m ≠ n := by
      rintro rfl
      rw [free] at k
      cases k
    simp only [State.classOf, same m hm]
    exact ⟨k, trivial⟩

theorem State.not_host_five {s : State} (h : s.sessionsLawful) {g : HostSession} : s.session 5 ≠ .host g := fun e =>
  absurd (h.1 5 g e).2.1 (by decide)

theorem State.classOf_five {s : State} (h : s.sessionsLawful) : s.classOf 5 ≠ .service := by
  unfold State.classOf
  cases e : s.session 5 with
  | free => exact fun k => nomatch k
  | host g => exact absurd e (State.not_host_five h)
  | localSession => exact fun k => nomatch k

/-! ### The store operation and the build -/

theorem State.keepsLaws_setStore {s : State} {op : StoreOp} (live : ∀ m, op.session? = some m → (s.session m).live = true)
    (startup : s.sessionsLawful → op.session? = some 5 → ∃ k start, op = .reading k (some 5) start) :
    s.keepsLaws { s with store := op } where
  pins := State.pinsAgree_of_eq rfl rfl
  pairs := State.pairsKept_of_eq rfl rfl id
  sessions := State.sessionsLawful_of_eq rfl
  entries := fun _ h => h
  owned := fun hs ⟨entries, triggers, owners, subscribers, build, _, _⟩ =>
    ⟨entries, triggers, owners, subscribers, build, live, startup hs⟩

/-- An operation begun for a host session is none of LOCAL's (R139). -/
theorem State.keepsLaws_beginOp {s : State} {n : Nat} {h : HostSession} (e : s.session n = .host h) {op : StoreOp}
    (session : op.session? = some n) : s.keepsLaws { s with store := op } := by
  refine State.keepsLaws_setStore (fun m hm => ?_) fun hs h5 => ?_
  · cases session.symm.trans hm
    rw [e]
    rfl
  · cases session.symm.trans h5
    exact absurd e (State.not_host_five hs)

/-- A store operation ends, or goes on, for nobody but whom it was for. -/
theorem State.works_withStore {s : State} {op : StoreOp} (session : ∀ m, op.session? = some m → s.store.session? = some m)
    (startup : ∀ k start, s.store = .reading k (some 5) start → op.session? = none) : s.works { s with store := op } :=
  .of_holdings
    { State.sameHoldings.refl s with
      store := session
      startup := fun k start e h => by
        rw [startup k start e] at h
        cases h }

theorem State.works_idle (s : State) : s.works { s with store := .idle } :=
  State.works_withStore (fun _ h => nomatch h) fun _ _ _ => rfl

theorem State.keepsLaws_newBuild {s : State} {b : Build} (live : (s.session b.owner).live = true)
    (service : s.classOf b.owner = .service) : s.keepsLaws { s with build := some b } where
  pins := State.pinsAgree_of_eq rfl rfl
  pairs := State.pairsKept_of_eq rfl rfl id
  sessions := State.sessionsLawful_of_eq rfl
  entries := fun _ h => h
  owned := fun _ ⟨entries, triggers, owners, subscribers, _, store, startup⟩ =>
    ⟨entries, triggers, owners, subscribers, fun x hx => by cases hx; exact ⟨live, service⟩, store, startup⟩

/-- The build goes, or goes on with its owner. -/
theorem State.works_withBuild {s : State} {b : Option Build}
    (h : ∀ x, b = some x → ∃ y, s.build = some y ∧ y.owner = x.owner) : s.works { s with build := b } :=
  .of_holdings { State.sameHoldings.refl s with build := h }

/-! ### Channels whose ties change -/

/-- R39 where one channel is written: the entries that target it or are guarded by it find there what they need. -/
theorem State.entriesLawful_of_channel {s t : State} {c : Nat} (h : s.entriesLawful)
    (target : ∀ e ∈ s.queue, e.act.target = c → ∃ o, t.chan c = .output o ∧ o.owner = some e.owner)
    (guards : ∀ e ∈ s.queue, ∀ g, e.act.grd = some g → g.channel = c → (t.inputAt c).isSome = true)
    (other : ∀ d, d ≠ c → t.chan d = s.chan d) (hs : t.sessions = s.sessions := by rfl)
    (hq : t.queue = s.queue := by rfl) : t.entriesLawful := by
  intro e he
  rw [hq] at he
  obtain ⟨live, ⟨o, eo, own⟩, bound⟩ := h e he
  refine ⟨(State.live_of_eq hs _ live).1, ?_, fun g hg => ?_⟩
  · by_cases k : e.act.target = c
    · obtain ⟨o', e', own'⟩ := target e he k
      exact ⟨o', State.outputAt_of_chan (k ▸ e'), own'⟩
    · exact ⟨o, State.outputAt_of_chan (by rw [other _ k, State.chan_of_outputAt eo]), own⟩
  · by_cases k : g.channel = c
    · rw [k]
      exact guards e he g hg k
    · rw [State.inputAt, other _ k]
      exact bound g hg

/-- Ownership where one channel is written: besides its entries and triggers, its owner and its subscribers are
live. -/
theorem State.ownershipLawful_of_channel {s t : State} {c : Nat} (h : s.ownershipLawful) (entries : t.entriesLawful)
    (sources : ∀ i r, s.trigger i = some r → r.spec.source = c → (t.inputAt c).isSome = true)
    (owner : ∀ m, (t.chan c).owner = some m → (s.session m).live = true)
    (subscribers : ∀ i m, t.chan c = .input i → m ∈ i.subscribers → (s.session m).live = true)
    (other : ∀ d, d ≠ c → t.chan d = s.chan d) (hs : t.sessions = s.sessions := by rfl)
    (ht : t.triggers = s.triggers := by rfl) (hb : t.build = s.build := by rfl) (ho : t.store = s.store := by rfl) :
    t.ownershipLawful := by
  obtain ⟨-, triggers, owners, subscribed, build, store, startup⟩ := h
  have session : ∀ m, t.session m = s.session m := fun m => by simp only [State.session, hs]
  refine ⟨entries, fun i r hr => ?_, fun d m hm => ?_, fun d i m hi hm => ?_, fun b hb' => ?_, fun m hm => ?_, ?_⟩
  · have hr' : s.trigger i = some r := by rw [← hr, State.trigger, State.trigger, ht]
    obtain ⟨live, bound⟩ := triggers i r hr'
    refine ⟨by rw [session, live], ?_⟩
    by_cases k : r.spec.source = c
    · rw [k]
      exact sources i r hr' k
    · rw [State.inputAt, other _ k]
      exact bound
  · rw [session]
    by_cases k : d = c
    · exact owner m (k ▸ hm)
    · exact owners d m (other d k ▸ hm)
  · rw [session]
    by_cases k : d = c
    · exact subscribers i m (k ▸ State.chan_of_inputAt hi) hm
    · refine subscribed d i m ?_ hm
      rw [State.inputAt, other d k] at hi
      exact hi
  · simp only [session, State.classOf]
    exact build b (hb ▸ hb')
  · rw [session]
    exact store m (ho ▸ hm)
  · rw [ho]
    exact startup

/-- A bound channel gets another owner or other subscribers, live ones; an output that entries target keeps its
owner. -/
theorem State.keepsLaws_retie {s : State} {c : Nat} {r : Channel} (face : (s.chan c).sameFace r)
    (target : s.entriesLawful → ∀ e ∈ s.queue, e.act.target = c → r.owner = some e.owner)
    (owner : s.ownershipLawful → ∀ m, r.owner = some m → (s.session m).live = true)
    (subscribers : s.ownershipLawful → ∀ i m, r = .input i → m ∈ i.subscribers → (s.session m).live = true) :
    s.keepsLaws (s.setChan c r) := by
  have faces := State.faces_setChan face
  have other : ∀ d, d ≠ c → (s.setChan c r).chan d = s.chan d := fun d k => s.chan_setChan_ne c d r k.symm
  have here : s.chan c ≠ .unbound → (s.setChan c r).chan c = r := fun k => s.chan_setChan_same c r (s.lt_of_bound k)
  have input : (s.inputAt c).isSome = true → ((s.setChan c r).inputAt c).isSome = true := by
    intro k
    obtain ⟨i, ei⟩ := Option.isSome_iff_exists.1 k
    have same := face
    rw [State.chan_of_inputAt ei] at same
    rcases same.cases with ⟨e, -⟩ | ⟨o, o', e, -⟩ | ⟨i1, i', -, e', -⟩
    · cases e
    · cases e
    · rw [State.inputAt_of_chan ((here (by simp [State.chan_of_inputAt ei])).trans e')]
      rfl
  have entries : s.entriesLawful → (s.setChan c r).entriesLawful := by
    refine fun h => State.entriesLawful_of_channel h (fun e he k => ?_) (fun e he g hg k => ?_) other
    · obtain ⟨-, ⟨o, eo, -⟩, -⟩ := h e he
      have eo' := k ▸ State.chan_of_outputAt eo
      obtain ⟨o', e', -⟩ := (eo' ▸ face).output_after
      refine ⟨o', (here (by simp [eo'])).trans e', ?_⟩
      have own := target h e he k
      rwa [e'] at own
    · obtain ⟨-, -, bound⟩ := h e he
      exact input (k ▸ bound g hg)
  refine ⟨State.pinsAgree_of_faces (fun _ => rfl) faces, State.pairsKept_of_faces (fun _ => rfl) faces id,
    State.sessionsLawful_of_eq rfl, fun _ => entries, fun _ h => ?_⟩
  have now : (s.setChan c r).chan c = r ∨ (s.setChan c r).chan c = .unbound := by
    rw [State.chan_setChan]
    split
    · exact .inl rfl
    · exact .inr (s.chan_out c (by omega))
  refine State.ownershipLawful_of_channel h (entries h.1) (fun i x hx k => input (k ▸ (h.2.1 i x hx).2)) (fun m hm => ?_)
    (fun i m hi hm => ?_) other
  · rcases now with k | k
    · exact owner h m (k ▸ hm)
    · rw [k] at hm
      cases hm
  · rcases now with k | k
    · exact subscribers h i m (k ▸ hi) hm
    · rw [k] at hi
      cases hi

/-- What is written on an unbound channel finds no entry and no trigger that names it. -/
theorem State.keepsLaws_newChannel {s t : State} {c : Nat} {p : Prop} (e : s.chan c = .unbound)
    (pins : s.pinsAgree → t.pinsAgree) (sound : ∀ o, t.chan c = .output o → o.isFaulted = false ∧ o.atRest)
    (owner : p → ∀ m, (t.chan c).owner = some m → (s.session m).live = true)
    (subscribers : p → ∀ i m, t.chan c = .input i → m ∈ i.subscribers → (s.session m).live = true)
    (other : ∀ d, d ≠ c → t.chan d = s.chan d) (hi : t.interlocks = s.interlocks := by rfl) (hr : t.stop = s.stop := by rfl)
    (hs : t.sessions = s.sessions := by rfl) (hq : t.queue = s.queue := by rfl) (ht : t.triggers = s.triggers := by rfl)
    (hb : t.build = s.build := by rfl) (ho : t.store = s.store := by rfl) : s.keepsLawsIf p t := by
  have entries : s.entriesLawful → t.entriesLawful := by
    refine fun h => State.entriesLawful_of_channel h (fun x hx k => ?_) (fun x hx g hg k => ?_) other hs hq
    · obtain ⟨-, ⟨o, eo, -⟩, -⟩ := h x hx
      rw [k, State.outputAt, e] at eo
      cases eo
    · obtain ⟨-, -, bound⟩ := h x hx
      have := bound g hg
      rw [k, State.inputAt, e] at this
      cases this
  refine ⟨pins, State.pairsKept_of_joined (fun h => ?_) (fun _ d o eo _ => ?_) (fun k => hr ▸ k),
    State.sessionsLawful_of_eq hs, fun _ _ => entries, fun hp _ h => ?_⟩
  · exact State.joinedKept_of_unnamed h (fun i => by rw [State.interlock, State.interlock, hi]) (h.unnamed e) other
      fun o eo => (sound o eo).1
  · by_cases k : d = c
    · exact (sound o (k ▸ eo)).2
    · rename_i rest
      exact rest o (other d k ▸ eo)
  · refine State.ownershipLawful_of_channel h (entries h.1) (fun i x hx k => ?_) (owner hp) (subscribers hp)
      other hs ht hb ho
    have bound := (h.2.1 i x hx).2
    rw [k, State.inputAt, e] at bound
    cases bound

theorem State.keepsLaws_unbindChannel {s : State} {c : Nat} (free : s.inUse c = false) : s.keepsLaws (s.unbindChannel c) := by
  have none := s.unbindChannel_chan_same c
  have other : ∀ d, d ≠ c → (s.unbindChannel c).chan d = s.chan d := fun d => s.unbindChannel_chan_ne c
  have unused : ¬s.inUse c = true := by rw [free]; exact Bool.false_ne_true
  rw [State.inUse_iff] at unused
  have unnamed : ∀ i r, s.interlock i = some r → r.a ≠ c ∧ r.b ≠ c := fun i r hi =>
    ⟨fun k => unused (.inr (.inr ⟨i, r, hi, .inl k⟩)), fun k => unused (.inr (.inr ⟨i, r, hi, .inr k⟩))⟩
  have entries : s.entriesLawful → (s.unbindChannel c).entriesLawful := fun h =>
    State.entriesLawful_of_channel h (fun x hx k => absurd (.inl ⟨x, hx, .inl k⟩) unused)
      (fun x hx g hg k => absurd (.inl ⟨x, hx, .inr ⟨g, hg, k⟩⟩) unused) other
  refine ⟨fun h => State.pinsAgree_unbindChannel h c,
    State.pairsKept_of_joined (fun h => ?_) (fun _ d o eo rest => ?_) id, State.sessionsLawful_of_eq rfl,
    fun _ => entries, fun _ h => ?_⟩
  · refine State.joinedKept_of_unnamed h (fun _ => rfl) unnamed other fun o eo => ?_
    rw [none] at eo
    cases eo
  · by_cases k : d = c
    · rw [k, none] at eo
      cases eo
    · exact rest o (other d k ▸ eo)
  · refine State.ownershipLawful_of_channel h (entries h.1) (fun i x hx k => absurd (.inr (.inl ⟨i, x, hx, k⟩)) unused)
      (fun m hm => ?_) (fun i m hi => ?_) other
    · rw [none] at hm
      cases hm
    · rw [none] at hi
      cases hi

/-- The ranges of a BIND that a reader accepts (R17). -/
def BindSpec.inRange (spec : BindSpec) : Prop :=
  (∀ p ∈ spec.pins, p < 24) ∧ 1 ≤ spec.pins.length ∧ spec.pins.length ≤ 3 ∧ spec.pins.Nodup

/-- A BIND of an unbound channel to pins that are ISOLATED, for a session (R17 to R19). -/
theorem State.keepsLaws_bindChannel {s : State} {c n : Nat} {spec : BindSpec} (e : s.chan c = .unbound) (lt : c < 32)
    (range : spec.inRange) (free : ∀ p ∈ spec.pins, s.pin p = .isolated) :
    s.keepsLawsIf ((s.session n).live = true) (s.bindChannel c n spec) := by
  cases spec with
  | output g =>
    have here : (s.bindChannel c n (.output g)).chan c = .output
        { g.fresh n with condition := .settling (s.elapsed + g.settle), lastOff := (g.fresh n).lastOffAfter g.safe s.now } :=
      s.driveOutput_chan_same c (g.fresh n) g.safe none lt
    refine State.keepsLaws_newChannel e (fun h => ?_) (fun o eo => ?_) (fun live m hm => ?_) (fun _ i m hi => ?_)
      (fun d k => s.driveOutput_chan_ne c d (g.fresh n) g.safe none k.symm)
    · exact State.pinsAgree_bindOutput h e lt range.2 fun p hp => ⟨range.1 p hp, free p hp⟩
    · rw [here] at eo
      cases eo
      exact ⟨rfl, rfl, rfl⟩
    · rw [here] at hm
      cases hm
      exact live
    · rw [here] at hi
      cases hi
  | input pin interval qualify =>
    have here : (s.bindChannel c n (.input pin interval qualify)).chan c =
        .input ⟨pin, interval, qualify, some n, .unknown, none, none, [], s.elapsed + interval⟩ := by
      rw [State.bindChannel, State.setPins_chan, State.chan_setChan_same _ _ _ lt]
    refine State.keepsLaws_newChannel e (fun h => ?_) (fun o eo => ?_) (fun live m hm => ?_) (fun _ i m hi hm => ?_) (fun d k => ?_)
    · exact State.pinsAgree_bindInput (i := ⟨pin, interval, qualify, some n, .unknown, none, none, [], s.elapsed + interval⟩)
        h e lt ⟨range.1 pin (List.mem_singleton.2 rfl), free pin (List.mem_singleton.2 rfl)⟩
    · rw [here] at eo
      cases eo
    · rw [here] at hm
      cases hm
      exact live
    · rw [here] at hi
      cases hi
      cases hm
    · rw [State.bindChannel, State.setPins_chan, State.chan_setChan_ne _ _ _ _ k.symm]

/-! ### Entries and triggers written -/

theorem State.keepsLaws_admitEntry {s : State} {n : Nat} {a : Action} (live : (s.session n).live = true)
    (target : ∃ o, s.chan a.target = .output o ∧ o.owner = some n) (guards : s.guardBound a = true) (ph : Phase)
    (origin : Origin) : s.keepsLaws (s.admitEntry n ph a origin) := by
  have entries : s.entriesLawful → (s.admitEntry n ph a origin).entriesLawful := by
    intro h x hx
    rcases (s.mem_admitEntry n ph a origin x).1 hx with rfl | hx
    · obtain ⟨o, eo, own⟩ := target
      exact ⟨live, ⟨o, State.outputAt_of_chan eo, own⟩, (s.guardBound_iff a).1 guards⟩
    · exact h x hx
  exact ⟨State.pinsAgree_of_eq rfl rfl, State.pairsKept_of_eq rfl rfl id, State.sessionsLawful_of_eq rfl, fun _ => entries,
    fun _ h => ⟨entries h.1, h.2⟩⟩

theorem State.keepsLaws_writeTrigger {s : State} {n : Nat} {spec : TriggerSpec} (live : (s.session n).live = true)
    (source : (s.inputAt spec.source).isSome = true) (t : Nat) : s.keepsLaws (s.writeTrigger t n spec) := by
  refine ⟨State.pinsAgree_of_eq rfl rfl, State.pairsKept_of_eq rfl rfl id, State.sessionsLawful_of_eq rfl, fun _ h => h,
    fun _ ⟨entries, triggers, rest⟩ => ⟨entries, fun i r hr => ?_, rest⟩⟩
  rw [State.writeTrigger, State.trigger_setTrigger] at hr
  split at hr
  · cases hr
    exact ⟨live, source⟩
  · exact triggers i r hr

/-- What is written for a session beside outputs, pins and sessions: nothing but its owner is at stake. -/
theorem State.keepsLawsIf_of_same {s t : State} {p : Prop} (h : p → s.keepsLaws t) (hp : t.pins = s.pins := by rfl)
    (hc : t.channels = s.channels := by rfl) (hi : t.interlocks = s.interlocks := by rfl)
    (hr : t.stop.run = .stopped → s.stop.run = .stopped := by exact id) (hs : t.sessions = s.sessions := by rfl) :
    s.keepsLawsIf p t :=
  ⟨State.pinsAgree_of_eq hp hc, State.pairsKept_of_eq hc hi hr, State.sessionsLawful_of_eq hs, fun hp => (h hp).entries,
    fun hp => (h hp).owned⟩

theorem State.keepsLaws_setInterlock {s : State} (i : Nat) {r : Option Interlock}
    (h : s.pairsKept → ∀ x, r = some x → s.pairKept x) : s.keepsLaws (s.setInterlock i r) where
  pins := State.pinsAgree_of_eq rfl rfl
  pairs := fun k => State.pairsKept_setInterlock i r (h k) k
  sessions := State.sessionsLawful_of_eq rfl
  entries := fun _ k => k
  owned := fun _ k => k

/-- A record that INTERLOCK_SET or a load writes joins two bound outputs as R76 asks. -/
theorem State.pairKept_of_pairSafe {s : State} {r : Interlock} {a b : Output} (ne : r.a ≠ r.b)
    (ha : s.outputAt r.a = some a) (hb : s.outputAt r.b = some b) (safe : pairSafe a b r.dead = true) : s.pairKept r :=
  ⟨ne, a, b, ha, hb, (pairSafe_iff a b r.dead).1 safe⟩

/-! ### Sessions ended -/

theorem State.chan_map {s t : State} {f : Channel → Channel} (unbound : f .unbound = .unbound)
    (h : t.channels = s.channels.map f) (c : Nat) : t.chan c = f (s.chan c) := by
  rw [State.chan, h]
  conv_lhs => rw [← unbound]
  exact tget_map f s.channels c .unbound

theorem State.trigger_map {s t : State} {f : Option Trigger → Option Trigger} (none : f none = none)
    (h : t.triggers = s.triggers.map f) (i : Nat) : t.trigger i = f (s.trigger i) := by
  rw [State.trigger, h]
  conv_lhs => rw [← none]
  exact tget_map f s.triggers i .none

theorem Channel.disown_sameFace (n : Nat) (r : Channel) : r.sameFace (r.disown n) := by
  cases r with
  | unbound => trivial
  | output o =>
    unfold Channel.disown
    dsimp only
    split
    · exact ⟨rfl, rfl, rfl, id⟩
    · rfl
  | input i => rfl

theorem Channel.disown_owner {n : Nat} {r : Channel} {m : Nat} (h : (r.disown n).owner = some m) :
    m ≠ n ∧ r.owner = some m := by
  cases r with
  | unbound => cases h
  | output o =>
    by_cases k : o.owner = some n
    · simp [Channel.disown, k, Channel.owner] at h
    · simp only [Channel.disown, k, if_false] at h
      exact ⟨fun e => k (e ▸ h), h⟩
  | input i =>
    by_cases k : i.owner = some n
    · simp [Channel.disown, k, Channel.owner] at h
    · simp only [Channel.disown, k, if_false] at h
      exact ⟨fun e => k (e ▸ h), h⟩

theorem Channel.disown_input {n : Nat} {r : Channel} {i' : Input} (h : r.disown n = .input i') :
    ∃ i, r = .input i ∧ ∀ m ∈ i'.subscribers, m ≠ n ∧ m ∈ i.subscribers := by
  cases r with
  | unbound => cases h
  | output o =>
    unfold Channel.disown at h
    dsimp only at h
    split at h <;> cases h
  | input i =>
    cases h
    refine ⟨i, rfl, fun m hm => ?_⟩
    simp only [dropMember, List.mem_filter, bne_iff_ne] at hm
    exact ⟨hm.2, hm.1⟩

theorem StoreOp.session?_disown {op : StoreOp} {n m : Nat} (h : (op.disown n).session? = some m) :
    m ≠ n ∧ op.disown n = op := by
  unfold StoreOp.disown at h ⊢
  split
  · rename_i k
    rw [if_pos k] at h
    cases op <;> cases h
  · rename_i k
    rw [if_neg k] at h
    exact ⟨fun e => k (e ▸ h), rfl⟩

/-- A session that no entry and no trigger belongs to becomes FREE, and its channels, its build and its store operation
are no longer its own (R131). -/
theorem State.keepsLaws_disown {s t : State} {n : Nat} (noEntry : ∀ e ∈ s.queue, e.owner ≠ n)
    (noTrigger : ∀ i r, s.trigger i = some r → r.owner ≠ n) (free : t.session n = .free)
    (session : ∀ m, m ≠ n → t.session m = s.session m) (hc : t.channels = s.channels.map (Channel.disown n))
    (hb : t.build = s.build.filter fun b => b.owner != n) (ho : t.store = s.store.disown n)
    (hp : t.pins = s.pins) (hi : t.interlocks = s.interlocks) (hr : t.stop = s.stop) (hq : t.queue = s.queue)
    (ht : t.triggers = s.triggers) : s.keepsLaws t := by
  have chan : ∀ c, t.chan c = (s.chan c).disown n := State.chan_map rfl hc
  have faces : ∀ c, (s.chan c).sameFace (t.chan c) := fun c => chan c ▸ Channel.disown_sameFace n _
  have live : ∀ m, m ≠ n → (s.session m).live = true → (t.session m).live = true := fun m k h => by rw [session m k, h]
  have input : ∀ c, (s.inputAt c).isSome = true → (t.inputAt c).isSome = true := by
    intro c k
    obtain ⟨i, ei⟩ := Option.isSome_iff_exists.1 k
    rw [State.inputAt, chan, State.chan_of_inputAt ei]
    rfl
  have entries : s.entriesLawful → t.entriesLawful := by
    intro h e he
    rw [hq] at he
    have ne := noEntry e he
    obtain ⟨alive, ⟨o, eo, own⟩, guards⟩ := h e he
    refine ⟨live _ ne alive, ⟨o, State.outputAt_of_chan ?_, own⟩, fun g hg => input _ (guards g hg)⟩
    have other : o.owner ≠ some n := by
      rw [own]
      exact fun k => ne (Option.some.inj k)
    simp only [chan, State.chan_of_outputAt eo, Channel.disown, other, if_false]
  have host : ∀ m x, t.session m = .host x → s.session m = .host x := by
    intro m x k
    have hm : m ≠ n := by
      rintro rfl
      rw [free] at k
      cases k
    rw [← session m hm, k]
  refine ⟨State.pinsAgree_of_faces (fun p => by rw [State.pin, State.pin, hp]) faces,
    State.pairsKept_of_faces (fun i => by rw [State.interlock, State.interlock, hi]) faces (fun k => hr ▸ k), ?_,
    fun _ => entries, fun _ h => ?_⟩
  · rintro ⟨ranges, locals, services, tags⟩
    refine ⟨fun m x k => ranges m x (host m x k), fun m k => ?_,
      fun m m' x x' k k' => services m m' x x' (host m x k) (host m' x' k'),
      fun m m' x x' k k' => tags m m' x x' (host m x k) (host m' x' k')⟩
    by_cases hm : m = n
    · subst hm
      rw [free] at k
      cases k
    · exact locals m (session m hm ▸ k)
  · obtain ⟨hentries, triggers, owners, subscribers, build, store, startup⟩ := h
    refine ⟨entries hentries, fun i r k => ?_, fun c m hm => ?_, fun c i m k hm => ?_, fun b k => ?_, fun m hm => ?_,
      fun h5 => ?_⟩
    · have k' : s.trigger i = some r := by rw [← k, State.trigger, State.trigger, ht]
      obtain ⟨alive, bound⟩ := triggers i r k'
      exact ⟨live _ (noTrigger i r k') alive, input _ bound⟩
    · obtain ⟨ne, own⟩ := Channel.disown_owner (chan c ▸ hm)
      exact live m ne (owners c m own)
    · obtain ⟨i', ei, subs⟩ := Channel.disown_input (chan c ▸ State.chan_of_inputAt k)
      obtain ⟨ne, mem⟩ := subs m hm
      exact live m ne (subscribers c i' m (State.inputAt_of_chan ei) mem)
    · rw [hb, Option.filter_eq_some_iff] at k
      obtain ⟨hbuild, other⟩ := k
      have ne : b.owner ≠ n := by simpa using other
      obtain ⟨alive, cls⟩ := build b hbuild
      exact ⟨live _ ne alive, by rw [State.classOf, session _ ne]; exact cls⟩
    · rw [ho] at hm
      obtain ⟨ne, same⟩ := StoreOp.session?_disown hm
      exact live m ne (store m (same ▸ hm))
    · rw [ho] at h5 ⊢
      obtain ⟨-, same⟩ := StoreOp.session?_disown h5
      rw [same] at h5 ⊢
      exact startup h5

theorem State.foldl_driveSafe_frame (l : List Nat) (s : State) :
    ∃ ch ps, l.foldl State.driveSafe s = { s with channels := ch, pins := ps } :=
  State.foldl_frame _ State.driveSafe_frame l s

theorem State.keepsLaws_teardown (s : State) (n : Nat) : s.keepsLaws (s.teardown n) := by
  unfold State.teardown
  extract_lets s1 s2 s3
  have triggers : ∀ i, s1.trigger i = (s.trigger i).filter fun t => t.owner != n := State.trigger_map rfl rfl
  have removed : s.works s1 := by
    refine .of_holdings (.of_parts (State.sameTies_of_eq rfl) (fun e he => ?_) fun i r hr => ?_)
    · exact State.holds_of_mem (List.mem_of_mem_filter he)
    · rw [triggers, Option.filter_eq_some_iff] at hr
      exact ⟨i, r, hr.1, rfl, rfl⟩
  have driven : s1.works s2 := .foldl State.works_driveSafe _ s1
  obtain ⟨ch, ps, frame⟩ := State.foldl_driveSafe_frame (s1.ownedOutputs n) s1
  have frame : s2 = { s1 with channels := ch, pins := ps } := frame
  refine (removed.trans driven).keepsLaws.trans (State.keepsLaws_disown (n := n) ?_ ?_ ?_ ?_ ?_ ?_ ?_ ?_ ?_ ?_ ?_ ?_)
  · intro e he
    rw [frame] at he
    simpa using List.of_mem_filter he
  · intro i r hr
    rw [frame] at hr
    rw [show State.trigger { s1 with channels := ch, pins := ps } i = s1.trigger i from rfl, triggers,
      Option.filter_eq_some_iff] at hr
    simpa using hr.2
  · rw [State.session_setSession]
    split
    · rfl
    · rename_i out
      exact State.session_free_out _ _ (by omega)
  · intro m hm
    rw [State.session_setSession_ne _ _ _ _ hm.symm, State.setReportQueue_session]
    rfl
  all_goals simp only [State.setSession_channels, State.setSession_build, State.setSession_store, State.setSession_pins,
    State.setSession_interlocks, State.setSession_stop, State.setSession_queue, State.setSession_triggers,
    State.setReportQueue_channels, State.setReportQueue_build, State.setReportQueue_store, State.setReportQueue_pins,
    State.setReportQueue_interlocks, State.setReportQueue_stop, State.setReportQueue_queue,
    State.setReportQueue_triggers, s3]

end Sys2Proof.Machine
end

section
/-!
The rule of every request keeps the laws of outputs and owners.
-/

namespace Sys2Proof.Machine

/-! ### Claims and takeover -/

theorem Channel.claimed_sameFace (n : Nat) (r : Channel) : r.sameFace (r.claimed n) := by
  cases r with
  | unbound => trivial
  | output o => exact ⟨rfl, rfl, rfl, fun _ => rfl⟩
  | input i => rfl

theorem Channel.withOwner_sameFace (m : Option Nat) (r : Channel) : r.sameFace (r.withOwner m) := by
  cases r with
  | unbound => trivial
  | output o => exact ⟨rfl, rfl, rfl, id⟩
  | input i => rfl

theorem Channel.claimed_owner {n : Nat} {r : Channel} {m : Nat} (h : (r.claimed n).owner = some m) : m = n := by
  cases r <;> cases h
  all_goals rfl

theorem Channel.withOwner_owner {n : Option Nat} {r : Channel} {m : Nat} (h : (r.withOwner n).owner = some m) :
    n = some m := by
  cases r with
  | unbound => cases h
  | output o => exact h
  | input i => exact h

theorem Channel.claimed_input {n : Nat} {r : Channel} {i' : Input} (h : r.claimed n = .input i') :
    ∃ i, r = .input i ∧ i'.subscribers = i.subscribers := by
  cases r with
  | input i =>
    cases h
    exact ⟨i, rfl, rfl⟩
  | _ => cases h

theorem Channel.withOwner_input {m : Option Nat} {r : Channel} {i' : Input} (h : r.withOwner m = .input i') :
    ∃ i, r = .input i ∧ i'.subscribers = i.subscribers := by
  cases r with
  | input i =>
    cases h
    exact ⟨i, rfl, rfl⟩
  | _ => cases h

/-- The target of a lawful entry is owned by the entry's owner (R39). -/
theorem State.entriesLawful.target_owner {s : State} (h : s.entriesLawful) {e : Entry} (he : e ∈ s.queue) :
    (s.chan e.act.target).owner = some e.owner := by
  obtain ⟨-, ⟨o, eo, own⟩, -⟩ := h e he
  rw [State.chan_of_outputAt eo]
  exact own

/-- A channel gets another owner, where no entry targets it. -/
theorem State.keepsLaws_setOwner {s : State} {c : Nat} {n : Option Nat}
    (untargeted : s.entriesLawful → ∀ e ∈ s.queue, e.act.target ≠ c)
    (live : ∀ m, n = some m → (s.session m).live = true) :
    s.keepsLaws (s.setChan c ((s.chan c).withOwner n)) := by
  refine State.keepsLaws_retie (Channel.withOwner_sameFace n _) (fun h e he k => absurd k (untargeted h e he))
    (fun _ m hm => live m (Channel.withOwner_owner hm)) fun h i m hi hm => ?_
  obtain ⟨i', ei, subs⟩ := Channel.withOwner_input hi
  exact h.2.2.2.1 c i' m (State.inputAt_of_chan ei) (subs ▸ hm)

theorem State.works_cancelClaimed (s : State) (e : Entry) : s.works (s.cancelClaimed e) :=
  (s.works_removeEntry e.adm).trans (State.works_addReport _ _ _ _)

theorem State.cancelClaimed_frame (s : State) (e : Entry) :
    ∃ q r, s.cancelClaimed e = { s with queue := q, reports := r } ∧ ∀ x, x ∈ q ↔ x ∈ s.queue ∧ x.adm ≠ e.adm := by
  obtain ⟨r, frame⟩ := (s.removeEntry e.adm).addReport_frame e.owner s.now
    (.actionCancelled e.handle e.act.target e.act.kind e.phase.state)
  exact ⟨_, r, frame, s.mem_removeEntry e.adm⟩

/-- The entries of a list are cancelled: queue and reports change alone, and none of them is left. -/
theorem State.foldl_cancelClaimed_frame (l : List Entry) (s : State) :
    ∃ q r, l.foldl State.cancelClaimed s = { s with queue := q, reports := r } ∧
      ∀ x ∈ q, x ∈ s.queue ∧ x ∉ l := by
  induction l generalizing s with
  | nil => exact ⟨s.queue, s.reports, rfl, fun x hx => ⟨hx, List.not_mem_nil⟩⟩
  | cons e l ih =>
    obtain ⟨q, r, frame, mem⟩ := s.cancelClaimed_frame e
    obtain ⟨q', r', frame', mem'⟩ := ih (s.cancelClaimed e)
    refine ⟨q', r', by rw [List.foldl_cons, frame', frame], fun x hx => ?_⟩
    obtain ⟨hx, out⟩ := mem' x hx
    rw [frame] at hx
    obtain ⟨hx, ne⟩ := (mem x).1 hx
    refine ⟨hx, fun k => ?_⟩
    rcases List.mem_cons.1 k with rfl | k
    · exact ne rfl
    · exact out k

/-- A forced claim cancels what the old owner had scheduled on the channel, so that no entry targets it (R136). -/
theorem State.keepsLaws_forceClaim {s : State} {c m n : Nat} (owner : (s.chan c).owner = some m)
    (live : (s.session n).live = true) : s.keepsLaws (s.forceClaim c m n) := by
  unfold State.forceClaim
  extract_lets gone s1 s2
  have cancelled : s.works s1 := .foldl State.works_cancelClaimed gone s
  obtain ⟨q, r, frame, mem⟩ := State.foldl_cancelClaimed_frame gone s
  have frame : s1 = { s with queue := q, reports := r } := frame
  have claimed : s1.keepsLaws s2 := by
    refine State.keepsLaws_retie (Channel.claimed_sameFace n _) (fun h e he k => ?_) (fun _ x hx => ?_)
      fun h i x hi hx => ?_
    · have own := h.target_owner he
      rw [frame] at he own
      obtain ⟨hq, out⟩ := mem e he
      have mine : e.owner = m := Option.some.inj (own.symm.trans ((congrArg (fun d => (s.chan d).owner) k).trans owner))
      refine absurd (List.mem_filter.2 ⟨hq, ?_⟩) out
      simp [mine, k]
    · rw [Channel.claimed_owner hx, frame]
      exact live
    · obtain ⟨i', ei, subs⟩ := Channel.claimed_input hi
      exact h.2.2.2.1 c i' x (State.inputAt_of_chan ei) (subs ▸ hx)
  exact (cancelled.keepsLaws.trans claimed).then (s2.works_addReport _ _ _)

theorem Channel.takenOver_sameFace (n : Nat) (r : Channel) : r.sameFace (r.takenOver n) := by
  cases r with
  | unbound => trivial
  | output o => exact ⟨rfl, rfl, rfl, id⟩
  | input i => rfl

theorem Channel.takenOver_owner (n : Nat) (r : Channel) : (r.takenOver n).owner = r.owner.map (movedTo n) := by
  cases r with
  | unbound => rfl
  | output o => cases k : o.owner <;> simp [Channel.takenOver, Channel.owner, movedTo, k]; split <;> rfl
  | input i => cases k : i.owner <;> simp [Channel.takenOver, Channel.owner, movedTo, k]; split <;> rfl

theorem Channel.takenOver_input {n : Nat} {r : Channel} {i' : Input} (h : r.takenOver n = .input i') :
    ∃ i, r = .input i ∧ ∀ m ∈ i'.subscribers, m = n ∨ m ≠ 5 ∧ m ∈ i.subscribers := by
  cases r with
  | input i =>
    cases h
    refine ⟨i, rfl, fun m hm => ?_⟩
    dsimp only at hm
    split at hm
    · unfold addMember dropMember at hm
      split at hm
      · obtain ⟨hm, ne⟩ := List.mem_filter.1 hm
        exact .inr ⟨by simpa using ne, hm⟩
      · rcases List.mem_append.1 hm with hm | hm
        · obtain ⟨hm, ne⟩ := List.mem_filter.1 hm
          exact .inr ⟨by simpa using ne, hm⟩
        · exact .inl (List.mem_singleton.1 hm)
    · rename_i none
      exact .inr ⟨fun k => none (by simpa [k] using hm), hm⟩
  | _ => cases h

/-- LOCAL's work passes to the requester, and its record becomes FREE (R141). No build and no store operation is left
to it: a build's owner has class SERVICE, and its only operation, the startup load, is over. -/
theorem State.keepsLaws_takeOver {s : State} {n : Nat} {h : HostSession} (e : s.session n = .host h)
    (loaded : s.startupLoading = false) : s.keepsLaws (s.takeOver n) := by
  have queue : (s.takeOver n).queue = s.queue.map fun e => { e with owner := movedTo n e.owner } := by
    simp only [State.takeOver, State.setSession_queue, State.setReportQueue_queue]
  have trigger : ∀ i, (s.takeOver n).trigger i = (s.trigger i).map fun t => { t with owner := movedTo n t.owner } :=
    State.trigger_map rfl (by simp only [State.takeOver, State.setSession_triggers, State.setReportQueue_triggers])
  have chan : ∀ c, (s.takeOver n).chan c = (s.chan c).takenOver n :=
    State.chan_map rfl (by simp only [State.takeOver, State.setSession_channels, State.setReportQueue_channels])
  have free : (s.takeOver n).session 5 = .free := State.session_setSession_same _ 5 .free (by decide) (by decide)
  have session : ∀ m, m ≠ 5 → (s.takeOver n).session m = s.session m := fun m k => by
    rw [State.takeOver, State.session_setSession_ne _ _ _ _ k.symm, State.setReportQueue_session]
    rfl
  have build : (s.takeOver n).build = s.build := by
    simp only [State.takeOver, State.setSession_build, State.setReportQueue_build]
  have store : (s.takeOver n).store = s.store := by
    simp only [State.takeOver, State.setSession_store, State.setReportQueue_store]
  have faces : ∀ c, (s.chan c).sameFace ((s.takeOver n).chan c) := fun c => chan c ▸ Channel.takenOver_sameFace n _
  have live : s.sessionsLawful → ∀ m, (s.session m).live = true → ((s.takeOver n).session (movedTo n m)).live = true := by
    intro law m k
    have ne : n ≠ 5 := fun five => State.not_host_five law (five ▸ e)
    unfold movedTo
    split
    · rw [session n ne, e]
      rfl
    · rename_i other
      rw [session m other, k]
  have input : ∀ c, (s.inputAt c).isSome = true → ((s.takeOver n).inputAt c).isSome = true := by
    intro c k
    obtain ⟨i, ei⟩ := Option.isSome_iff_exists.1 k
    rw [State.inputAt, chan, State.chan_of_inputAt ei]
    rfl
  have entries : s.sessionsLawful → s.entriesLawful → (s.takeOver n).entriesLawful := by
    intro law h x hx
    rw [queue] at hx
    obtain ⟨y, hy, rfl⟩ := List.mem_map.1 hx
    obtain ⟨alive, ⟨o, eo, own⟩, guards⟩ := h y hy
    refine ⟨live law _ alive, ⟨{ o with owner := if o.owner = some 5 then some n else o.owner },
      State.outputAt_of_chan ?_, ?_⟩, fun g hg => input _ (guards g hg)⟩
    · rw [chan, State.chan_of_outputAt eo]
      rfl
    · simp only [own, movedTo, Option.some.injEq]
      split <;> rfl
  have host : ∀ m x, (s.takeOver n).session m = .host x → s.session m = .host x := by
    intro m x k
    have hm : m ≠ 5 := by
      rintro rfl
      rw [free] at k
      cases k
    rw [← session m hm, k]
  refine ⟨State.pinsAgree_of_faces (fun p => by simp [State.pin, State.takeOver]) faces,
    State.pairsKept_of_faces (fun i => by simp [State.interlock, State.takeOver]) faces (by simp [State.takeOver]), ?_,
    entries, fun law k => ?_⟩
  · rintro ⟨ranges, locals, services, tags⟩
    refine ⟨fun m x k => ranges m x (host m x k), fun m k => ?_,
      fun m m' x x' k k' => services m m' x x' (host m x k) (host m' x' k'),
      fun m m' x x' k k' => tags m m' x x' (host m x k) (host m' x' k')⟩
    by_cases hm : m = 5
    · exact hm
    · exact locals m (session m hm ▸ k)
  · obtain ⟨hentries, triggers, owners, subscribers, builds, stores, startup⟩ := k
    have none : s.store.session? ≠ some 5 := by
      intro k
      obtain ⟨slot, start, reading⟩ := startup k
      simp [State.startupLoading, reading] at loaded
    refine ⟨entries law hentries, fun i r k => ?_, fun c m hm => ?_, fun c i m k hm => ?_, fun b k => ?_, fun m hm => ?_,
      fun h5 => absurd (store ▸ h5) none⟩
    · rw [trigger] at k
      obtain ⟨r', old, rfl⟩ := Option.map_eq_some_iff.1 k
      obtain ⟨alive, bound⟩ := triggers i r' old
      exact ⟨live law _ alive, input _ bound⟩
    · rw [chan, Channel.takenOver_owner] at hm
      obtain ⟨m', own, rfl⟩ := Option.map_eq_some_iff.1 hm
      exact live law m' (owners c m' own)
    · obtain ⟨i', ei, subs⟩ := Channel.takenOver_input (chan c ▸ State.chan_of_inputAt k)
      rcases subs m hm with rfl | ⟨ne, mem⟩
      · rw [session m fun five => State.not_host_five law (five ▸ e), e]
        rfl
      · rw [session m ne]
        exact subscribers c i' m (State.inputAt_of_chan ei) mem
    · obtain ⟨alive, cls⟩ := builds b (build ▸ k)
      have ne : b.owner ≠ 5 := fun five => State.classOf_five law (five ▸ cls)
      rw [State.classOf, session _ ne]
      exact ⟨alive, cls⟩
    · have hm : s.store.session? = some m := store ▸ hm
      rw [session m fun five => none (five ▸ hm)]
      exact stores m hm

/-! ### The rules of the requests -/

/-- The rule of a request of a live host session keeps the laws, whatever the body. -/
def Service.keepsLaws (serve : Service) : Prop :=
  ∀ n h body (s : State), s.session n = .host h → s.keepsLaws (serve n body s).1

theorem State.live_of_host {s : State} {n : Nat} {h : HostSession} (e : s.session n = .host h) :
    (s.session n).live = true := by
  rw [e]
  rfl

theorem State.keepsLaws_asOperator (s : State) (n : Nat) {act : State × Answer} (h : s.keepsLaws act.1) :
    s.keepsLaws (asOperator s n act).1 := by
  unfold asOperator
  split
  · exact .refl s
  · exact h

theorem State.keepsLaws_asService (s : State) (n : Nat) (key : Bool) {act : State × Answer}
    (h : s.classOf n = .service → s.keepsLaws act.1) : s.keepsLaws (asService s n key act).1 := by
  unfold asService
  split
  · rename_i rights
    simp only [State.serviceRights, Bool.and_eq_true, decide_eq_true_eq] at rights
    exact h rights.2
  · exact .refl s

theorem State.keepsLaws_emptyQuery (s : State) (body fields : List Byte) : s.keepsLaws (emptyQuery body s fields).1 := by
  unfold emptyQuery
  split <;> exact .refl s

theorem State.keepsLaws_withBuild (s : State) (n : Nat) (key : Bool) {act : Build → State × Answer}
    (h : ∀ b, s.build = some b → s.keepsLaws (act b).1) : s.keepsLaws (withBuild s n key act).1 := by
  unfold withBuild
  split
  · exact .refl s
  split
  · exact .refl s
  rename_i b built
  split
  · exact .refl s
  split
  · exact .refl s
  · exact h b built

theorem emptyQuery_keepsLaws (fields : State → List Byte) :
    Service.keepsLaws fun _ body s => emptyQuery body s (fields s) :=
  fun _ _ body s _ => s.keepsLaws_emptyQuery body _

theorem serveActionAdd_keepsLaws : Service.keepsLaws serveActionAdd := by
  intro n h body s e
  refine s.keepsLaws_asOperator n ?_
  split
  · exact .refl s
  split
  · rename_i o eo
    split
    · exact .refl s
    rename_i own
    split
    · exact .refl s
    split
    · exact .refl s
    rename_i bound
    split
    · exact .refl s
    · exact State.keepsLaws_admitEntry (State.live_of_host e) ⟨o, eo, not_not.1 own⟩ (Bool.eq_true_of_not_eq_false bound) _ _
  · exact .refl s

theorem serveActionCancel_keepsLaws (key : Bool) : Service.keepsLaws (serveActionCancel key) := by
  intro n h body s e
  refine s.keepsLaws_asOperator n ?_
  split
  · exact .refl s
  split
  · exact .refl s
  split
  · exact .refl s
  · exact (s.works_removeEntry _).keepsLaws

theorem serveGroupCancel_keepsLaws : Service.keepsLaws serveGroupCancel := by
  intro n h body s e
  refine s.keepsLaws_asOperator n ?_
  split
  · exact .refl s
  · exact (s.works_filterQueue _).keepsLaws

theorem serveQueueQuery_keepsLaws : Service.keepsLaws serveQueueQuery := by
  intro n h body s e
  unfold serveQueueQuery
  split <;> exact .refl s

theorem checkedOutput_inRange {pins : List Nat} {pol : Polarity} {drive : Drive} {safe : Level} {settle : Nat}
    {spec : BindSpec} (h : checkedOutput pins pol drive safe settle = some spec) : spec.inRange := by
  unfold checkedOutput at h
  split at h
  · rename_i range
    obtain ⟨below, nodup, low, high, -⟩ := range
    cases h
    exact ⟨by simpa [BindSpec.pins] using below, low, high, by simpa [BindSpec.pins] using nodup⟩
  · cases h

theorem checkedInput_inRange {pins : List Nat} {interval qualify : Nat} {spec : BindSpec}
    (h : checkedInput pins interval qualify = some spec) : spec.inRange := by
  unfold checkedInput at h
  split at h
  · split at h
    · rename_i pin range
      cases h
      exact ⟨by simpa [BindSpec.pins] using range.1, Nat.le_refl 1, (by decide : 1 ≤ 3), List.nodup_singleton _⟩
    · cases h
  · cases h

theorem BindSpec.inRange_of_bodyFor {spec : BindSpec} {c : Nat} {body : List Byte} (h : spec.bodyFor c body) :
    c < 32 ∧ spec.inRange := by
  obtain ⟨hc, places, -, options⟩ := h
  refine ⟨by omega, ?_⟩
  cases spec with
  | output g =>
    obtain ⟨settle, ⟨low, high, nodup, below, -⟩, -⟩ := options
    exact ⟨below, low, high, nodup⟩
  | input pin interval qualify =>
    obtain ⟨⟨below, -⟩, -⟩ := options
    exact ⟨by simpa [BindSpec.pins] using below, Nat.le_refl 1, (by decide : 1 ≤ 3), List.nodup_singleton _⟩

theorem serveBind_keepsLaws : Service.keepsLaws serveBind := by
  intro n h body s e
  refine s.keepsLaws_asOperator n ?_
  split
  · exact .refl s
  rename_i c spec read
  obtain ⟨lt, range⟩ := BindSpec.inRange_of_bodyFor ((readBind_eq_some body c spec).1 read)
  split
  · exact .refl s
  rename_i bound
  split
  · exact .refl s
  · rename_i free
    exact (State.keepsLaws_bindChannel (not_not.1 bound) lt range (by simpa using free)).keepsLaws (State.live_of_host e)

theorem serveUnbind_keepsLaws (key : Bool) : Service.keepsLaws (serveUnbind key) := by
  intro n h body s e
  refine s.keepsLaws_asOperator n ?_
  split
  · exact .refl s
  split
  · exact .refl s
  split
  · exact .refl s
  split
  · exact .refl s
  · rename_i unused
    exact State.keepsLaws_unbindChannel (Bool.eq_false_of_not_eq_true unused)

/-- A FAULTED output rests at its safe level, so that CLEAR_FAULT makes none ACTIVE (R26, R27). -/
theorem State.works_clearFault {s : State} {c : Nat} {o : Output} (e : s.chan c = .output o) (f : o.isFaulted = true) :
    s.works (s.driveOutput c o o.cfg.safe none) := by
  refine State.works_driveOutput e _ _ fun h => ⟨fun _ _ => ⟨rfl, rfl⟩, fun act => .inl ?_⟩
  rw [((s.pairsKept_iff.1 h).1.1 c o e f).1, act]

theorem serveClearFault_keepsLaws (key : Bool) : Service.keepsLaws (serveClearFault key) := by
  intro n h body s e
  refine s.keepsLaws_asOperator n ?_
  split
  · exact .refl s
  split
  · rename_i o eo
    split
    · exact .refl s
    split
    · rename_i f
      exact (State.works_clearFault eo f).keepsLaws
    · exact .refl s
  · exact .refl s

theorem serveRequalify_keepsLaws : Service.keepsLaws serveRequalify := by
  intro n h body s e
  refine s.keepsLaws_asOperator n ?_
  split
  · exact .refl s
  split
  · rename_i i ei
    split
    · exact (State.works_setInput (i' := i.requalified _ _ _) ei rfl rfl fun _ => id).keepsLaws
    · exact .refl s
  · exact .refl s

theorem mem_addMember {ns : List Nat} {n m : Nat} : m ∈ addMember ns n ↔ m = n ∨ m ∈ ns := by
  unfold addMember
  split
  · rename_i k
    have : n ∈ ns := by simpa using k
    constructor
    · exact .inr
    · rintro (rfl | k)
      · exact this
      · exact k
  · simp [or_comm]

theorem mem_dropMember {ns : List Nat} {n m : Nat} : m ∈ dropMember ns n ↔ m ∈ ns ∧ m ≠ n := by
  simp [dropMember]

/-- An input gains a live session as its subscriber (R34). -/
theorem State.keepsLaws_subscribe {s : State} {c n : Nat} {i : Input} (e : s.chan c = .input i)
    (live : (s.session n).live = true) (subs : List Nat) (h : ∀ m ∈ subs, m = n ∨ m ∈ i.subscribers) :
    s.keepsLaws (s.setChan c (.input { i with subscribers := subs })) := by
  refine State.keepsLaws_retie (e ▸ rfl) (fun k x hx t => ?_) (fun k m hm => ?_) fun k x m hx hm => ?_
  · have own := k.target_owner hx
    rw [t, e] at own
    exact own
  · exact k.2.2.1 c m (by rw [e]; exact hm)
  · cases hx
    rcases h m hm with rfl | hm
    · exact live
    · exact k.2.2.2.1 c i m (State.inputAt_of_chan e) hm

/-- Subscribers written on an input for a session (R34). -/
theorem State.keepsLawsIf_subscribe {s : State} {c : Nat} {i : Input} (n : Nat) (e : s.chan c = .input i) (subs : List Nat)
    (h : ∀ m ∈ subs, m = n ∨ m ∈ i.subscribers) :
    s.keepsLawsIf ((s.session n).live = true) (s.setChan c (.input { i with subscribers := subs })) :=
  have faces := State.faces_setChan (r := .input { i with subscribers := subs }) (e ▸ rfl : (s.chan c).sameFace _)
  ⟨State.pinsAgree_of_faces (fun _ => rfl) faces, State.pairsKept_of_faces (fun _ => rfl) faces id,
    State.sessionsLawful_of_eq rfl, fun live => (State.keepsLaws_subscribe e live subs h).entries,
    fun live => (State.keepsLaws_subscribe e live subs h).owned⟩

theorem serveSubscribe_keepsLaws : Service.keepsLaws serveSubscribe := by
  intro n h body s e
  unfold serveSubscribe serveSubscribers
  split
  · exact .refl s
  split
  · rename_i i ei
    exact State.keepsLaws_subscribe ei (State.live_of_host e) _ fun _ => mem_addMember.1
  · exact .refl s

theorem serveUnsubscribe_keepsLaws : Service.keepsLaws serveUnsubscribe := by
  intro n h body s e
  unfold serveUnsubscribe serveSubscribers
  split
  · exact .refl s
  split
  · rename_i i ei
    exact (State.works_setInput (i' := { i with subscribers := dropMember i.subscribers n }) ei rfl rfl fun _ hm =>
      (mem_dropMember.1 hm).1).keepsLaws
  · exact .refl s

theorem serveChannelQuery_keepsLaws : Service.keepsLaws serveChannelQuery := by
  intro n h body s e
  unfold serveChannelQuery
  split <;> exact .refl s

theorem checkedInterlock_ne {a b dead mode : Nat} {r : Interlock} (h : checkedInterlock a b dead mode = some r) :
    r.a ≠ r.b := by
  unfold checkedInterlock at h
  split at h
  · rename_i range
    obtain ⟨m, -, rfl⟩ := Option.map_eq_some_iff.1 h
    exact range.2.2
  · cases h

theorem readInterlockSet_ne {body : List Byte} {number : Option Nat} {r : Interlock}
    (h : readInterlockSet body = some (number, r)) : r.a ≠ r.b := by
  unfold readInterlockSet at h
  dsimp only at h
  split at h
  · obtain ⟨x, checked, eq⟩ := Option.bind_eq_some_iff.1 h
    cases eq
    exact checkedInterlock_ne checked
  · cases h

theorem serveInterlockSet_keepsLaws (key : Bool) : Service.keepsLaws (serveInterlockSet key) := by
  intro n h body s e
  refine s.keepsLaws_asOperator n ?_
  split
  · exact .refl s
  rename_i number r read
  split
  · rename_i a b ha hb
    split
    · exact .refl s
    split
    · exact .refl s
    split
    · rename_i safe
      refine State.keepsLaws_setInterlock _ fun _ x k => ?_
      cases k
      exact State.pairKept_of_pairSafe (readInterlockSet_ne read) ha hb safe
    · exact .refl s
  · exact .refl s

theorem serveInterlockClear_keepsLaws (key : Bool) : Service.keepsLaws (serveInterlockClear key) := by
  intro n h body s e
  refine s.keepsLaws_asService n key fun _ => ?_
  split
  · exact .refl s
  · exact State.keepsLaws_setInterlock _ fun _ x k => nomatch k

theorem servePlanBegin_keepsLaws (key : Bool) : Service.keepsLaws (servePlanBegin key) := by
  intro n h body s e
  refine s.keepsLaws_asService n key fun service => ?_
  split
  · exact .refl s
  split
  · exact .refl s
  · exact State.keepsLaws_newBuild (State.live_of_host e) service

theorem servePlanPut_keepsLaws (key : Bool) : Service.keepsLaws (servePlanPut key) := by
  intro n h body s e
  refine s.keepsLaws_withBuild n key fun b built => ?_
  split
  · exact .refl s
  split
  · exact .refl s
  · refine (State.works_withBuild fun x hx => ?_).keepsLaws
    cases hx
    exact ⟨b, built, rfl⟩

theorem State.works_dropBuild (s : State) : s.works { s with build := none } :=
  State.works_withBuild fun _ h => nomatch h

theorem servePlanAbandon_keepsLaws (key : Bool) : Service.keepsLaws (servePlanAbandon key) := by
  intro n h body s e
  refine s.keepsLaws_withBuild n key fun b _ => ?_
  split
  · exact s.works_dropBuild.keepsLaws
  · exact .refl s

theorem State.works_setSlot (s : State) (k : Nat) (r : Slot) : s.works (s.setSlot k r) := .of_same

theorem servePlanCommit_keepsLaws (key prot : Bool) : Service.keepsLaws (servePlanCommit key prot) := by
  intro n h body s e
  refine s.keepsLaws_withBuild n key fun b _ => ?_
  split
  · exact .refl s
  split
  · exact .refl s
  · have taken : s.works { s.setSlot b.slot ((s.slot b.slot).committing b) with build := none } :=
      (s.works_setSlot _ _).trans (State.works_dropBuild _)
    exact taken.keepsLaws.trans (State.keepsLaws_beginOp (s := { s.setSlot b.slot _ with build := none }) e rfl)

theorem servePlanErase_keepsLaws (key prot : Bool) : Service.keepsLaws (servePlanErase key prot) := by
  intro n h body s e
  refine s.keepsLaws_asService n key fun _ => ?_
  split
  · exact .refl s
  split
  · exact .refl s
  · exact (s.works_setSlot _ _).keepsLaws.trans (State.keepsLaws_beginOp (s := s.setSlot _ _) e rfl)

theorem servePlanLoad_keepsLaws : Service.keepsLaws servePlanLoad := by
  intro n h body s e
  refine s.keepsLaws_asOperator n ?_
  split
  · exact .refl s
  split
  · exact .refl s
  split
  · exact .refl s
  · exact State.keepsLaws_beginOp e rfl

theorem serveDeviceReset_keepsLaws (p : Port) (key : Bool) : Service.keepsLaws (serveDeviceReset p key) := by
  intro n h body s e
  refine s.keepsLaws_asService n key fun _ => ?_
  split
  · exact .refl s
  split
  · exact .refl s
  · exact (State.works.of_same).keepsLaws

theorem readOpen_interval {body : List Byte} {cls : SessionClass} {interval tag : Nat}
    (h : readOpen body = some (cls, interval, tag)) : 1000 ≤ interval ∧ interval ≤ 600000 := by
  unfold readOpen at h
  dsimp only at h
  split at h
  · rename_i range
    obtain ⟨x, -, eq⟩ := Option.bind_eq_some_iff.1 h
    cases eq
    exact range.2
  · cases h

theorem State.freeSession_spec {s : State} {n : Nat} (h : s.freeSession = some n) :
    1 ≤ n ∧ n ≤ 4 ∧ (s.session n).live = false := by
  have free := List.find?_some h
  have mem := List.mem_of_find?_eq_some h
  simp only [List.mem_cons, List.not_mem_nil, or_false] at mem
  exact ⟨by omega, by omega, by simpa using free⟩

theorem State.not_service_of_not_taken {s : State} (h : s.serviceTaken = false) {m : Nat} {x : HostSession}
    (e : s.session m = .host x) : x.cls ≠ .service := by
  intro k
  obtain ⟨low, high⟩ := State.session_ne_zero e
  have mem : m ∈ sessionNumbers := by
    simp only [sessionNumbers, List.mem_cons, List.not_mem_nil, or_false]
    omega
  have := List.any_eq_false.1 h m mem
  simp [e, Session.live, Session.cls, k] at this

theorem State.tag_ne_of_no_holder {s : State} {p : Port} {tag : Nat} (h : s.holderOf p tag = none) {m : Nat} {x : HostSession}
    (high : m ≤ 4) (e : s.session m = .host x) (port : x.port = p) : x.tag ≠ tag := by
  obtain ⟨low, -⟩ := State.session_ne_zero e
  have mem : m ∈ [1, 2, 3, 4] := by
    simp only [List.mem_cons, List.not_mem_nil, or_false]
    omega
  have := List.findSome?_eq_none_iff.1 h m mem
  intro k
  simp [State.routed_eq e port, k] at this

theorem serveOpen_works (p : Port) (key : Bool) (body : List Byte) (s : State) : s.works (serveOpen p key body s).1 := by
  unfold serveOpen
  split
  · exact .refl s
  rename_i cls interval tag read
  split
  · exact .refl s
  rename_i holder
  split
  · exact .refl s
  split
  · exact .refl s
  rename_i untaken
  split
  · exact .refl s
  · rename_i n found
    obtain ⟨low, high, free⟩ := State.freeSession_spec found
    refine .trans (State.works_openSession low high free (readOpen_interval read) (by decide : 0 < 256) (fun k m x e => ?_)
      fun m x hm e port => State.tag_ne_of_no_holder holder hm e port) (State.works_setReportQueue _ _ _)
    exact State.not_service_of_not_taken (Bool.eq_false_of_not_eq_true fun t => untaken ⟨k, t⟩) e

theorem serveClose_keepsLaws : Service.keepsLaws serveClose := by
  intro n h body s e
  unfold serveClose
  split
  · exact s.keepsLaws_teardown n
  · exact .refl s

theorem serveClaim_keepsLaws (key : Bool) : Service.keepsLaws (serveClaim key) := by
  intro n h body s e
  have live := State.live_of_host e
  refine s.keepsLaws_asOperator n ?_
  split
  · exact .refl s
  split
  · exact .refl s
  split
  · rename_i unowned
    refine State.keepsLaws_setOwner (fun law x hx k => ?_) fun m hm => by cases hm; exact live
    have own := law.target_owner hx
    rw [k, unowned] at own
    cases own
  rename_i m owned
  split
  · exact .refl s
  split
  · exact .refl s
  split
  · exact State.keepsLaws_forceClaim owned live
  · exact .refl s

theorem serveRelease_keepsLaws : Service.keepsLaws serveRelease := by
  intro n h body s e
  refine s.keepsLaws_asOperator n ?_
  split
  · exact .refl s
  split
  · exact .refl s
  split
  · exact .refl s
  rename_i mine
  split
  · exact .refl s
  · rename_i untargeted
    refine State.keepsLaws_setOwner (fun law x hx k => ?_) fun m hm => by cases hm
    have own := law.target_owner hx
    rw [k, not_not.1 mine] at own
    refine untargeted (List.any_eq_true.2 ⟨x, hx, ?_⟩)
    simp [k, ← Option.some.inj own]

theorem serveTakeover_keepsLaws : Service.keepsLaws serveTakeover := by
  intro n h body s e
  refine s.keepsLaws_asOperator n ?_
  split
  · exact .refl s
  split
  · exact .refl s
  split
  · exact .refl s
  rename_i loaded
  split
  · exact .refl s
  · exact State.keepsLaws_takeOver e (Bool.eq_false_of_not_eq_true loaded)

theorem serveTriggerSet_keepsLaws : Service.keepsLaws serveTriggerSet := by
  intro n h body s e
  refine s.keepsLaws_asOperator n ?_
  split
  · exact .refl s
  split
  · rename_i i ei
    split
    · exact .refl s
    · exact State.keepsLaws_writeTrigger (State.live_of_host e) (by rw [State.inputAt_of_chan ei]; rfl) _
  · exact .refl s

theorem State.works_clearTrigger (s : State) (t : Nat) : s.works (s.setTrigger t none) :=
  State.works_setTrigger fun _ h => nomatch h

theorem serveTriggerClear_keepsLaws (key : Bool) : Service.keepsLaws (serveTriggerClear key) := by
  intro n h body s e
  refine s.keepsLaws_asOperator n ?_
  split
  · exact .refl s
  split
  · exact .refl s
  · exact (s.works_clearTrigger _).keepsLaws

theorem serveTriggerQuery_keepsLaws : Service.keepsLaws serveTriggerQuery := by
  intro n h body s e
  unfold serveTriggerQuery
  split <;> exact .refl s

theorem serveHalt_keepsLaws : Service.keepsLaws serveHalt := by
  intro n h body s e
  unfold serveHalt
  split
  · exact (s.works_haltBy n).keepsLaws
  · exact .refl s

theorem serveResume_keepsLaws : Service.keepsLaws serveResume := by
  intro n h body s e
  refine s.keepsLaws_asOperator n ?_
  split
  · exact .refl s
  split
  · exact .refl s
  split
  · exact .refl s
  · dsimp only
    exact (s.works_resumeBy n).keepsLaws

theorem serveReportAck_keepsLaws : Service.keepsLaws serveReportAck := by
  intro n h body s e
  unfold serveReportAck
  split
  · exact .refl s
  dsimp only
  split
  · exact (s.works_setReportQueue _ _).keepsLaws
  split
  · exact .refl s
  · exact .refl s

theorem serveReportResend_keepsLaws : Service.keepsLaws serveReportResend := by
  intro n h body s e
  unfold serveReportResend
  split
  · exact (s.works_setReportQueue _ _).keepsLaws
  · exact .refl s

/-! ### The rules that write the Timebase -/

theorem serveTimeTrim_keepsLaws (key : Bool) : Service.keepsLaws (serveTimeTrim key) := by
  intro n h body s e
  refine s.keepsLaws_asService n key fun _ => ?_
  split
  · exact .refl s
  · exact (State.works.of_same).keepsLaws

theorem Channel.shift_sameFace (f : Nat → Nat) (r : Channel) : r.sameFace (r.shift f) := by
  cases r with
  | unbound => trivial
  | output o =>
    refine ⟨rfl, rfl, rfl, fun k => ?_⟩
    show o.release.map f = none
    rw [k]
    rfl
  | input i => rfl

theorem Channel.shift_sameTies (f : Nat → Nat) (r : Channel) : r.sameTies (r.shift f) := by
  cases r with
  | unbound => trivial
  | output o => rfl
  | input i => exact ⟨rfl, fun _ => id⟩

/-- TIME_SET shifts times, and moves neither levels nor owners (R6). -/
theorem State.works_setTime (s : State) (new : Nat) : s.works (s.setTime new) := by
  have chan : ∀ c, (s.setTime new).chan c = (s.chan c).shift (shiftTime s.now new) := s.setTime_chan new
  have faces : ∀ c, (s.chan c).sameFace ((s.setTime new).chan c) := fun c => chan c ▸ Channel.shift_sameFace _ _
  refine ⟨State.pinsAgree_of_faces (fun _ => rfl) faces, State.pairsKept_of_faces (fun _ => rfl) faces id,
    State.sessionsLawful_of_eq rfl,
    .of_parts (fun c => chan c ▸ Channel.shift_sameTies _ _) (fun e he => ?_) fun i r hr => ?_⟩
  · obtain ⟨x, hx, rfl⟩ := List.mem_map.1 ((sortEntries_perm _).mem_iff.1 he)
    exact ⟨x, hx, rfl, rfl, rfl⟩
  · have : (s.setTime new).trigger i =
        (s.trigger i).map fun t => { t with state := t.state.shift (shiftTime s.now new) } := State.trigger_map rfl rfl i
    rw [this] at hr
    obtain ⟨r', hr', rfl⟩ := Option.map_eq_some_iff.1 hr
    exact ⟨i, r', hr', rfl, rfl⟩

theorem serveTimeSet_keepsLaws : Service.keepsLaws serveTimeSet := by
  intro n h body s e
  refine s.keepsLaws_asOperator n ?_
  split
  · exact .refl s
  · exact (s.works_setTime _).keepsLaws

end Sys2Proof.Machine
end

section
/-!
Every command keeps the laws of outputs and owners: O54, O56 and O58.
-/

namespace Sys2Proof.Machine

/-! ### Frames taken and answered -/

theorem State.works_setLink (s : State) (p : Port) (l : Link) : s.works (s.setLink p l) :=
  .of_same (by simp) (by simp) (by simp) (by simp) (by simp) (by simp) (by simp) (by simp) (by simp)

theorem State.works_placeReply (s : State) (p : Port) (r : Frame) (resets : Bool) : s.works (s.placeReply p r resets) :=
  s.works_setLink p _

theorem State.routed_session {s : State} {p : Port} {n : Nat} {h : HostSession} (e : s.routed p n = some h) :
    s.session n = .host h := by
  unfold State.routed at e
  split at e
  · rename_i g found
    split at e
    · cases e
      exact found
    · cases e
  · cases e

theorem State.setHeld_sessions (s : State) (c : Nat) (held : Bool) : (s.setHeld c held).sessions = s.sessions := by
  obtain ⟨ch, frame⟩ := s.setHeld_frame c held
  rw [frame]

theorem State.foldl_setHeld_sessions (l : List Nat) (held : Bool) (s : State) :
    (l.foldl (fun t c => t.setHeld c held) s).sessions = s.sessions := by
  induction l generalizing s with
  | nil => rfl
  | cons c l ih => rw [List.foldl_cons, ih, State.setHeld_sessions]

/-- A frame finds its session, or brings it back, as the host session it was (R125, R128). -/
theorem State.arrive_session {s : State} {n : Nat} {h : HostSession} (e : s.session n = .host h) :
    ∃ g, (s.arrive n h).session n = .host g := by
  obtain ⟨low, high⟩ := State.session_ne_zero e
  unfold State.arrive
  split
  · exact ⟨_, s.session_setSession_same n _ low high⟩
  · unfold State.returnSession
    extract_lets held s1 s2 s3
    have opened : s1.session n = .host { h with life := .opened (s.elapsed + h.interval) } :=
      s.session_setSession_same n _ low high
    have noticed : s3.sessions = s1.sessions := by
      obtain ⟨q, frame⟩ := s2.addReport_frame n s.now (.sessionNotice held.length)
      rw [show s3 = _ from frame]
      exact State.foldl_setHeld_sessions held false s1
    have session : s3.session n = .host { h with life := .opened (s.elapsed + h.interval) } := by
      rw [← opened, State.session, State.session, noticed]
    split
    · exact ⟨_, session⟩
    · obtain ⟨_, _, _, _, _, frame⟩ := s3.dispose_frame (· == n)
      exact ⟨_, by rw [frame]; exact session⟩

theorem State.keepsLaws_routeFrame (s : State) (p : Port) (f : Frame) {serve : Service} (h : serve.keepsLaws) :
    s.keepsLaws (s.routeFrame p f serve) := by
  unfold State.routeFrame
  split
  · rename_i x routed
    have found := State.routed_session routed
    have arrived := (State.works_arrive found).keepsLaws
    obtain ⟨g, here⟩ := State.arrive_session found
    unfold State.frameForSession
    dsimp only
    split
    · exact ((arrived.trans (h _ g _ _ here)).then (State.works_noteReply _ _ _ _ _)).then (State.works_placeReply _ _ _ _)
    · split
      · split <;> exact arrived.then (State.works_placeReply _ _ _ _)
      · exact arrived.then (State.works_placeReply _ _ _ _)
  · exact (s.works_placeReply _ _ _).keepsLaws

theorem State.works_takeFrame {s s1 : State} {p : Port} {sel : Byte → Bool} {f : Frame}
    (taken : s.takeFrame p sel = some (f, s1)) : s.works s1 := by
  obtain ⟨rest, -, -, rfl⟩ := State.takeFrame_eq_some taken
  exact s.works_setLink p _

theorem State.keepsLaws_takeRequest (s : State) (p : Port) (code : Byte) {serve : Service} (h : serve.keepsLaws) :
    s.keepsLaws (s.takeRequest p code serve) := by
  unfold State.takeRequest
  split
  · exact .refl s
  · rename_i f s1 taken
    exact (State.works_takeFrame taken).keepsLaws.trans (s1.keepsLaws_routeFrame p f h)

theorem State.keepsLaws_takeSessionless (s : State) (p : Port) (code : Byte) {bare : List Byte → State → State × Answer}
    {serve : Service} (hb : ∀ body (t : State), t.works (bare body t).1) (h : serve.keepsLaws) :
    s.keepsLaws (s.takeSessionless p code bare serve) := by
  unfold State.takeSessionless
  split
  · exact .refl s
  · rename_i f s1 taken
    have took := State.works_takeFrame taken
    split
    · exact ((took.trans (hb f.body s1)).trans (State.works_placeReply _ _ _ _)).keepsLaws
    · exact took.keepsLaws.trans (s1.keepsLaws_routeFrame p f h)

/-! ### Loads -/

theorem readBindRecord_inRange {b : List Byte} {c : Nat} {spec : BindSpec}
    (h : readBindRecord b = some (.bind c spec)) : c < 32 ∧ spec.inRange := by
  unfold readBindRecord at h
  dsimp only at h
  split at h
  · cases h
  rename_i below
  split at h
  · obtain ⟨x, checked, eq⟩ := Option.map_eq_some_iff.1 h
    cases eq
    exact ⟨by omega, checkedInput_inRange checked⟩
  · obtain ⟨x, checked, eq⟩ := Option.map_eq_some_iff.1 h
    cases eq
    exact ⟨by omega, checkedOutput_inRange checked⟩

/-- What a reader gives of a plan record: pins and channels in range, two distinct channels (R17, R75, R161). -/
def PlanRecord.inRange : PlanRecord → Prop
  | .bind c spec => c < 32 ∧ spec.inRange
  | .interlock r => r.a ≠ r.b
  | _ => True

theorem readRecord_inRange {b : List Byte} {x : PlanRecord} (h : readRecord b = some x) : x.inRange := by
  cases x with
  | bind c spec =>
    unfold readRecord at h
    split at h
    · exact readBindRecord_inRange h
    all_goals
      obtain ⟨y, -, eq⟩ := Option.map_eq_some_iff.1 h
      cases eq
  | interlock r =>
    unfold readRecord at h
    split at h
    · unfold readBindRecord at h
      dsimp only at h
      split at h
      · cases h
      split at h
      all_goals
        obtain ⟨y, -, eq⟩ := Option.map_eq_some_iff.1 h
        cases eq
    · obtain ⟨y, checked, eq⟩ := Option.map_eq_some_iff.1 h
      cases eq
      exact checkedInterlock_ne checked
    all_goals
      obtain ⟨y, -, eq⟩ := Option.map_eq_some_iff.1 h
      cases eq
  | _ => trivial

theorem readPlan_inRange {fuel : Nat} {bytes : List Byte} : ∀ x ∈ readPlan fuel bytes, x.inRange := by
  induction fuel generalizing bytes with
  | zero => exact fun x h => absurd h List.not_mem_nil
  | succ fuel ih =>
    intro x h
    unfold readPlan at h
    split at h
    · cases h
    split at h
    · rw [List.mem_singleton.1 h]
      trivial
    split at h
    · rw [List.mem_singleton.1 h]
      trivial
    · rename_i y read
      rcases List.mem_cons.1 h with rfl | h
      · exact readRecord_inRange read
      · exact ih x h

theorem State.sessions_of_frame {s t : State} (h : ∃ ch ps, t = { s with channels := ch, pins := ps }) :
    t.sessions = s.sessions := by
  obtain ⟨ch, ps, rfl⟩ := h
  rfl

theorem State.bindChannel_frame (s : State) (c n : Nat) (spec : BindSpec) :
    ∃ ch ps, s.bindChannel c n spec = { s with channels := ch, pins := ps } := by
  cases spec <;> exact ⟨_, _, rfl⟩

theorem State.bindForLoad_frame (s : State) (c n : Nat) (spec : BindSpec) :
    ∃ ch ps, s.bindForLoad c n spec = { s with channels := ch, pins := ps } := by
  obtain ⟨ch, ps, frame⟩ := s.bindChannel_frame c n spec
  unfold State.bindForLoad
  rw [frame]
  split <;> exact ⟨_, _, rfl⟩

theorem State.rebindChannel_frame (s : State) (c n : Nat) :
    ∃ ch ps, s.rebindChannel c n = { s with channels := ch, pins := ps } := by
  unfold State.rebindChannel
  split
  · exact ⟨_, _, rfl⟩
  · exact s.driveSafe_frame c
  · exact ⟨_, _, rfl⟩

theorem State.holdFor_frame (s : State) (c n : Nat) :
    ∃ ch ps, s.holdFor c n = { s with channels := ch, pins := ps } := by
  unfold State.holdFor
  split
  · obtain ⟨ch, frame⟩ := s.setHeld_frame c true
    exact ⟨ch, s.pins, frame⟩
  · exact ⟨_, _, rfl⟩

theorem State.applyPlanRecord_sessions (s : State) (target base : Nat) (x : PlanRecord) :
    (s.applyPlanRecord target base x).sessions = s.sessions := by
  cases x with
  | bind c spec =>
    refine (State.sessions_of_frame (State.holdFor_frame _ c target)).trans (State.sessions_of_frame ?_)
    split
    · exact s.bindForLoad_frame c target spec
    · exact s.rebindChannel_frame c target
  | interlock r =>
    unfold State.applyPlanRecord
    dsimp only
    split <;> rfl
  | _ => rfl

theorem State.works_holdFor (s : State) (c n : Nat) : s.works (s.holdFor c n) := by
  unfold State.holdFor
  split
  · exact s.works_setHeld c true
  · exact .refl s

theorem State.keepsLaws_bindForLoad {s : State} {c n : Nat} {spec : BindSpec} (e : s.chan c = .unbound) (lt : c < 32)
    (range : spec.inRange) (free : ∀ p ∈ spec.pins, s.pin p = .isolated) :
    s.keepsLawsIf ((s.session n).live = true) (s.bindForLoad c n spec) := by
  have bound := State.keepsLaws_bindChannel (n := n) e lt range free
  have alive := fun live : (s.session n).live = true =>
    (State.live_of_eq (State.sessions_of_frame (s.bindChannel_frame c n spec)) n live).1
  unfold State.bindForLoad
  split
  · rename_i i ei
    exact bound.trans (State.keepsLawsIf_subscribe n ei _ fun m hm => .inl (List.mem_singleton.1 hm)) alive
  · exact bound

theorem State.keepsLaws_rebindChannel (s : State) (c n : Nat) :
    s.keepsLawsIf ((s.session n).live = true) (s.rebindChannel c n) := by
  unfold State.rebindChannel
  split
  · exact (State.keepsLaws.refl s).given _
  · exact (s.works_driveSafe c).keepsLaws.given _
  · rename_i i ei
    exact State.keepsLawsIf_subscribe n ei _ fun _ => mem_addMember.1

/-- A record in range that passes R178 is applied for its target (R179). -/
theorem State.keepsLaws_applyPlanRecord {s : State} {target : Nat} {x : PlanRecord} (range : x.inRange)
    (passed : s.judgePlanRecord target x = none) (base : Nat) :
    s.keepsLawsIf ((s.session target).live = true) (s.applyPlanRecord target base x) := by
  cases x with
  | bind c spec =>
    refine State.keepsLawsIf.then ?_ (State.works_holdFor _ c target).keepsLaws
    unfold State.judgePlanRecord at passed
    dsimp only at passed
    split
    · rename_i e
      rw [if_pos e] at passed
      split at passed
      · cases passed
      · rename_i free
        exact State.keepsLaws_bindForLoad e range.1 range.2 (by simpa using free)
    · exact s.keepsLaws_rebindChannel c target
  | interlock r =>
    unfold State.judgePlanRecord at passed
    dsimp only at passed
    split at passed
    · rename_i a b ha hb
      have safe : pairSafe a b r.dead = true := by
        by_contra k
        rw [if_pos (Bool.eq_false_of_not_eq_true k)] at passed
        split at passed
        · cases passed
        split at passed
        · cases passed
        · cases passed
      unfold State.applyPlanRecord
      dsimp only
      split
      · refine (State.keepsLaws_setInterlock _ fun _ y k => ?_).given _
        cases k
        exact State.pairKept_of_pairSafe range ha hb safe
      · exact (State.keepsLaws.refl s).given _
    · cases passed
  | trigger t spec =>
    unfold State.judgePlanRecord at passed
    dsimp only at passed
    split at passed
    · cases passed
    · rename_i i ei
      exact State.keepsLawsIf_of_same fun live => State.keepsLaws_writeTrigger live (by rw [ei]; rfl) t
  | action form a =>
    unfold State.judgePlanRecord at passed
    dsimp only at passed
    split at passed
    · cases passed
    rename_i o eo
    split at passed
    · cases passed
    rename_i own
    split at passed
    · cases passed
    rename_i bound
    exact State.keepsLawsIf_of_same fun live => State.keepsLaws_admitEntry live ⟨o, State.chan_of_outputAt eo, not_not.1 own⟩
      (Bool.eq_true_of_not_eq_false bound) _ _
  | unreadable => exact (State.keepsLaws.refl s).given _

theorem State.keepsLaws_runPlan {target base : Nat} {plan : List PlanRecord} (range : ∀ x ∈ plan, x.inRange) :
    ∀ {index : Nat} {s t : State}, State.runPlan target base index plan s = .ok t →
      s.keepsLawsIf ((s.session target).live = true) t := by
  induction plan with
  | nil =>
    intro index s t h
    cases h
    exact (State.keepsLaws.refl s).given _
  | cons x xs ih =>
    intro index s t h
    unfold State.runPlan at h
    split at h
    · cases h
    · rename_i passed
      exact (State.keepsLaws_applyPlanRecord (range x (List.mem_cons_self ..)) passed base).trans
        (ih (fun y hy => range y (List.mem_cons_of_mem _ hy)) h) fun live =>
          (State.live_of_eq (s.applyPlanRecord_sessions target base x) target live).1

theorem State.keepsLaws_settleStartup (s : State) (target : Nat) (outcome : StartupOutcome) (ends : Bool) :
    s.keepsLaws (s.settleStartup target outcome ends) := by
  unfold State.settleStartup
  split
  · extract_lets s1
    have settled : s.works s1 := .of_same
    split
    · exact settled.keepsLaws.trans (s1.keepsLaws_teardown 5)
    · exact settled.keepsLaws
  · exact .refl s

theorem State.keepsLaws_loadFor {s : State} {k target : Nat} {start : LoadStart} {plan : List PlanRecord}
    (range : ∀ x ∈ plan, x.inRange) :
    s.keepsLawsIf ((s.session target).live = true) (s.loadFor k target start plan) := by
  unfold State.loadFor
  dsimp only
  split
  · rename_i s1 ran
    exact (State.keepsLaws_runPlan range ran).then
      ((s1.works_addReport _ _ _).keepsLaws.trans (State.keepsLaws_settleStartup _ _ _ _))
  · exact ((s.works_addReport _ _ _).keepsLaws.trans (State.keepsLaws_settleStartup _ _ _ _)).given _

theorem State.keepsLaws_loadCorrupt (s : State) (k : Nat) (n : Option Nat) : s.keepsLaws (s.loadCorrupt k n) := by
  unfold State.loadCorrupt
  extract_lets s1
  have reported : s.works s1 := (s.works_setSlot k _).trans (State.works_reportTo _ n _)
  split
  · exact reported.keepsLaws
  · exact reported.keepsLaws.trans (s1.keepsLaws_settleStartup _ _ _)

/-! ### The start-up gate -/

/-- The startup load begins for a LOCAL session of its own (R139, R181). -/
theorem State.keepsLaws_beginStartup (s : State) : s.keepsLaws s.beginStartup := by
  unfold State.beginStartup
  split
  · have same : ∀ m, m ≠ 5 → ((s.setSession 5 .localSession).setReportQueue 5 ReportQueue.fresh).session m = s.session m := by
      intro m k
      rw [State.setReportQueue_session, State.session_setSession_ne _ _ _ _ k.symm]
    have here : ((s.setSession 5 .localSession).setReportQueue 5 ReportQueue.fresh).session 5 = .localSession := by
      rw [State.setReportQueue_session, State.session_setSession_same _ 5 _ (by decide) (by decide)]
    have host : ∀ m x, ((s.setSession 5 .localSession).setReportQueue 5 ReportQueue.fresh).session m = .host x →
        s.session m = .host x := by
      intro m x k
      have hm : m ≠ 5 := by
        rintro rfl
        rw [here] at k
        cases k
      rw [← same m hm, k]
    have holdings : s.sessionsLawful →
        s.sameHoldings ((s.setSession 5 .localSession).setReportQueue 5 ReportQueue.fresh) := by
      intro law
      refine .of_live (fun m k => ?_) (State.sameTies_of_eq (by simp)) (State.holds_of_eq (by simp))
        (State.trigger_of_eq (by simp)) (by simp) (by simp)
      by_cases hm : m = 5
      · subst hm
        simp only [State.classOf, here]
        cases e : s.session 5 with
        | free =>
          rw [e] at k
          cases k
        | host g => exact absurd e (State.not_host_five law)
        | localSession => exact ⟨rfl, rfl⟩
      · simp only [State.classOf, same m hm]
        exact ⟨k, trivial⟩
    have created : s.keepsLaws ((s.setSession 5 .localSession).setReportQueue 5 ReportQueue.fresh) := by
      refine ⟨State.pinsAgree_of_eq (by simp) (by simp), State.pairsKept_of_eq (by simp) (by simp) (by simp), ?_,
        fun law => (holdings law).entriesLawful, fun law => (holdings law).ownershipLawful⟩
      rintro ⟨ranges, locals, services, tags⟩
      refine ⟨fun m x k => ranges m x (host m x k), fun m k => ?_,
        fun m m' x x' k k' => services m m' x x' (host m x k) (host m' x' k'),
        fun m m' x x' k k' => tags m m' x x' (host m x k) (host m' x' k')⟩
      by_cases hm : m = 5
      · exact hm
      · exact locals m (same m hm ▸ k)
    refine created.trans (State.keepsLaws_setStore (fun m hm => ?_) fun _ _ => ⟨0, .now, rfl⟩)
    cases hm
    rw [here]
    rfl
  · exact .refl s

theorem State.keepsLaws_qualifyStop (s : State) (k : StopCandidate) : s.keepsLaws (s.qualifyStop k) := by
  unfold State.qualifyStop
  extract_lets firstTime before s1 s2
  have qualified : s.works s1 := s.works_withStop _ id
  have changed : s.works s2 := by
    unfold s2
    split
    · exact qualified
    · exact qualified.trans (s1.works_lineChange _ _)
  split
  · exact changed.keepsLaws.trans s2.keepsLaws_beginStartup
  · exact changed.keepsLaws

theorem State.works_setCandidate (s : State) (k : Option StopCandidate) :
    s.works { s with stop := { s.stop with candidate := k } } :=
  s.works_withStop { s.stop with candidate := k } id

theorem State.keepsLaws_sampleStop (s : State) (asserted : Bool) : s.keepsLaws (s.sampleStop asserted) := by
  unfold State.sampleStop
  extract_lets before s1
  have sampled : s.works s1 := s.works_withStop _ id
  split
  · exact (sampled.trans (s1.works_setCandidate none)).keepsLaws
  · split
    · exact (sampled.trans (s1.works_setCandidate _)).keepsLaws
    · exact sampled.keepsLaws.trans (s1.keepsLaws_qualifyStop _)

end Sys2Proof.Machine
end

section
/-!
Every step keeps the laws of outputs, pins and owners: O54, O56 and O58.
-/

namespace Sys2Proof.Machine

/-! ### Events of the Schedule Engine -/

theorem State.keepsLaws_entryDue {s t : State} (h : execEntryDue s = .next t) : s.keepsLaws t := by
  unfold execEntryDue at h
  split at h
  · cases h
    exact .refl s
  rename_i e next
  obtain ⟨queued, running⟩ := State.nextReached_spec next
  split at h
  · cases h
    exact .refl s
  · cases h
    exact (State.works_applyVerdict running (State.holds_of_mem queued) _).keepsLaws

theorem State.keepsLaws_guardDeadline {s t : State} (h : execGuardDeadline s = .next t) : s.keepsLaws t := by
  unfold execGuardDeadline at h
  split at h
  · cases h
    exact .refl s
  rename_i e next
  split at h
  · cases h
    exact (State.works_failOccurrence (State.holds_of_mem (State.nextReached_spec next).1) _ _).keepsLaws
  · cases h
    exact .refl s

theorem State.keepsLaws_guardReevaluation {s t : State} (h : execGuardReevaluation s = .next t) : s.keepsLaws t := by
  unfold execGuardReevaluation at h
  split at h
  · cases h
    exact .refl s
  split at h
  · cases h
    exact s.works_passOver.keepsLaws
  · rename_i e ls next
    obtain ⟨queued, running⟩ := State.nextReevaluation_spec next
    cases h
    have taken : s.works { s with levelChanges := ls } := .of_same
    exact (taken.trans (State.works_reevaluate running (State.holds_of_mem queued))).keepsLaws

/-- A pulse ends at INACTIVE; a STOPPED part has no pulse left to end (R65, R110). -/
theorem State.keepsLaws_pulseRelease {s t : State} {c : Nat} (h : execPulseRelease c s = .next t) : s.keepsLaws t := by
  unfold execPulseRelease at h
  split at h
  · rename_i o e
    split at h
    · rename_i k release
      split at h
      · cases h
        refine (State.works_driveOutput e .inactive none fun _ => ⟨fun _ rest => ?_, fun k => (nomatch k)⟩).keepsLaws
        rw [rest.2] at release
        cases release
      · cases h
        exact .refl s
    · cases h
      exact .refl s
  · cases h
    exact .refl s

/-! ### Events of the Channel Matrix -/

theorem State.keepsLaws_actionDrive {s t : State} (h : execActionDrive s = .next t) : s.keepsLaws t := by
  unfold execActionDrive at h
  split at h
  · cases h
    exact .refl s
  · cases h
    have taken : s.works { s with inFlight := none } := .of_same
    exact (taken.trans (State.works_settleDrive _ _)).keepsLaws

theorem State.keepsLaws_settleEnd {s t : State} {c : Nat} {wires : BitVec 24} (h : execSettleEnd c wires s = .next t) :
    s.keepsLaws t := by
  unfold execSettleEnd at h
  split at h
  · rename_i o e
    split at h
    · rename_i k settling
      split at h
      · cases h
        unfold State.readback
        split
        · refine (State.works_setChan ?_ ?_).keepsLaws
          · rw [e]
            exact ⟨rfl, rfl, by simp [Output.isFaulted, settling], id⟩
          · rw [e]
            rfl
        · exact (State.works_faultEntry e _).keepsLaws
      · cases h
        exact .refl s
    · cases h
      exact .refl s
  · cases h
    exact .refl s

theorem State.keepsLaws_inputSample {s t : State} {c : Nat} {l : PinLevel} (h : execInputSample c l s = .next t) :
    s.keepsLaws t := by
  unfold execInputSample at h
  split at h
  · rename_i i e
    split at h
    · cases h
      exact (State.works_sampleInput e l).keepsLaws
    · cases h
      exact .refl s
  · cases h
    exact .refl s

/-! ### Events of the Trigger Unit -/

theorem State.keepsLaws_triggerEdge {s t : State} (h : execTriggerEdge s = .next t) : s.keepsLaws t := by
  unfold execTriggerEdge at h
  split at h
  · cases h
    exact .refl s
  · rename_i x xs _
    have taken : s.works { s with edges := xs } := .of_same
    rw [← Host.Outcome.next.inj h]
    exact (taken.trans (.foldl (State.works_visitTrigger x) _ _)).keepsLaws

theorem State.keepsLaws_holdoffEnd {s t : State} {k : Nat} (h : execHoldoffEnd k s = .next t) : s.keepsLaws t := by
  unfold execHoldoffEnd at h
  split at h
  · cases h
    exact .refl s
  rename_i r er
  split at h
  · split at h
    · cases h
      refine (State.works_setTrigger fun x hx => ?_).keepsLaws
      cases hx
      exact ⟨r, er, rfl, rfl⟩
    · cases h
      exact .refl s
  · cases h
    exact .refl s

/-- After work, a queue whose entries stood there, or had the bonds of one that stood there before it. -/
theorem State.works.withQueue {s t : State} (h : s.works t) {q : List Entry} {hc na : Nat}
    (held : ∀ x ∈ q, x ∈ t.queue ∨ s.holds x) :
    s.works { t with queue := q, handleCounter := hc, nextAdmission := na } where
  pins := h.pins
  pairs := h.pairs
  sessions := h.sessions
  holdings :=
    { live := h.holdings.live
      chan := h.holdings.chan
      queue := fun x hx => (held x hx).elim (h.holdings.queue x) id
      trigger := h.holdings.trigger
      build := h.holdings.build
      store := h.holdings.store
      startup := h.holdings.startup }

/-- A template selected at the request's start is converted (R96). -/
theorem State.works.convertTemplate {s t : State} (h : s.works t) (k : Nat) {e : Entry} (he : s.holds e) :
    s.works (t.convertTemplate k e) :=
  h.withQueue fun x hx => by
    rcases (t.mem_requeue { e with phase := .waitingTime (e.dueFrom k) } x).1 hx with rfl | ⟨hx, -⟩
    · exact .inr he
    · exact .inl hx

/-- A template selected at the request's start is copied, or reported (R97). -/
theorem State.works.copyTemplate {s t : State} (h : s.works t) (k : Nat) {e : Entry} (he : s.holds e) :
    s.works (t.copyTemplate k e) := by
  unfold State.copyTemplate
  split
  · refine h.withQueue fun x hx => ?_
    rcases (t.mem_admitEntry e.owner _ e.act _ x).1 hx with rfl | hx
    · exact .inr he
    · exact .inl hx
  · exact h.trans (t.works_addReport _ _ _)

theorem State.works.foldl_held {s : State} {f : State → Entry → State}
    (hf : ∀ (t : State) e, s.works t → s.holds e → s.works (f t e)) {l : List Entry} (hl : ∀ e ∈ l, s.holds e) :
    ∀ {t : State}, s.works t → s.works (l.foldl f t) := by
  induction l with
  | nil => exact id
  | cons e l ih =>
    intro t h
    exact ih (fun x hx => hl x (List.mem_cons_of_mem _ hx)) (hf t e h (hl e (List.mem_cons_self ..)))

theorem State.works_takeFireRequest (s : State) (f : FireReq) : s.works (s.takeFireRequest f) := by
  have held : ∀ e ∈ s.templatesFor f, s.holds e := fun e he => State.holds_of_mem (List.mem_of_mem_filter he)
  unfold State.takeFireRequest
  dsimp only
  split
  · exact (State.works.foldl_held (fun t e h he => h.convertTemplate f.t he) held (.refl s)).trans
      (State.works_addReport _ _ _ _)
  · exact (State.works.foldl_held (fun t e h he => h.copyTemplate f.t he) held (.refl s)).trans
      (State.works_addReport _ _ _ _)

theorem State.keepsLaws_fireRequest {s t : State} (h : execFireRequest s = .next t) : s.keepsLaws t := by
  unfold execFireRequest at h
  split at h
  · cases h
    exact .refl s
  · rename_i f fs _
    cases h
    have taken : s.works { s with fireRequests := fs } := .of_same
    exact (taken.trans (State.works_takeFireRequest _ f)).keepsLaws

/-! ### Events of Stop Control, the sessions and the reports -/

theorem State.keepsLaws_stopNSample {s t : State} {asserted : Bool} (h : execStopNSample asserted s = .next t) :
    s.keepsLaws t := by
  unfold execStopNSample at h
  split at h
  · cases h
    exact s.keepsLaws_sampleStop asserted
  · cases h
    exact .refl s

theorem State.keepsLaws_keepaliveExpiry {s t : State} {n : Nat} (h : execKeepaliveExpiry n s = .next t) :
    s.keepsLaws t := by
  unfold execKeepaliveExpiry at h
  split at h
  · rename_i g e
    split at h
    · split at h
      · cases h
        exact (State.works_lapse e).keepsLaws
      · cases h
        exact .refl s
    · cases h
      exact .refl s
  · cases h
    exact .refl s

theorem State.keepsLaws_graceExpiry {s t : State} {n : Nat} (h : execGraceExpiry n s = .next t) : s.keepsLaws t := by
  unfold execGraceExpiry at h
  split at h
  · split at h
    · split at h
      · cases h
        exact s.keepsLaws_teardown n
      · cases h
        exact .refl s
    · cases h
      exact .refl s
  · cases h
    exact .refl s

theorem State.keepsLaws_reportAdd {s t : State} (h : execReportAdd s = .next t) : s.keepsLaws t := by
  unfold execReportAdd at h
  split at h
  · cases h
    exact .refl s
  · rename_i r rs _
    cases h
    have taken : s.works { s with handed := rs } := .of_same
    exact (taken.trans (State.works_addReport _ _ _ _)).keepsLaws

/-! ### Events of the storage array and the supply -/

/-- A phase or an operation ends: the slot is written, the operation is gone, its session learns of it (R167, R168,
R172). -/
theorem State.works_endOperation (s : State) (k : Nat) (r : Slot) (n : Option Nat) (body : ReportBody) :
    s.works ({ s.setSlot k r with store := .idle }.reportTo n body) :=
  ((s.works_setSlot k r).trans (State.works_idle _)).trans (State.works_reportTo _ n body)

theorem State.keepsLaws_erasePhaseEnd {s t : State} (h : execErasePhaseEnd s = .next t) : s.keepsLaws t := by
  unfold execErasePhaseEnd at h
  split at h
  · rename_i k n image store
    cases h
    have written : s.works (s.setSlot k { s.slot k with state := .programming }) := s.works_setSlot k _
    have same : (s.setSlot k { s.slot k with state := .programming }).store = .commitErasing k n image := by
      exact store
    refine (written.trans (State.works_withStore (fun m hm => ?_) fun j start e => ?_)).keepsLaws
    · rw [same]
      exact hm
    · rw [same] at e
      cases e
  · cases h
    exact .refl s

theorem State.works_endProgramming (s : State) (k : Nat) (n : Option Nat) (image bytes : List Byte) :
    s.works (s.endProgramming k n image bytes) := by
  unfold State.endProgramming
  dsimp only
  split <;> exact s.works_endOperation _ _ _ _

theorem State.keepsLaws_programmingPhaseEnd {s t : State} {readBack : Option (List Byte)}
    (h : execProgrammingPhaseEnd readBack s = .next t) : s.keepsLaws t := by
  unfold execProgrammingPhaseEnd at h
  split at h
  · cases h
    exact (s.works_endProgramming _ _ _ _).keepsLaws
  · cases h
    exact .refl s

theorem State.keepsLaws_eraseEnd {s t : State} (h : execEraseEnd s = .next t) : s.keepsLaws t := by
  unfold execEraseEnd at h
  split at h
  · cases h
    exact (s.works_endOperation _ _ _ _).keepsLaws
  · cases h
    exact .refl s

theorem State.works_abortByLow (s : State) : s.works s.abortByLow := by
  unfold State.abortByLow
  split
  · exact .refl s
  · exact .refl s
  all_goals exact s.works_endOperation _ _ _ _

theorem State.keepsLaws_supplyChange {s t : State} {level : SupplyLevel} (h : execSupplyChange level s = .next t) :
    s.keepsLaws t := by
  unfold execSupplyChange at h
  split at h
  · cases h
    exact .refl s
  · cases h
    have set : s.works { s with supply := level } := .of_same
    split
    · exact (set.trans (State.works_abortByLow _)).keepsLaws
    · exact set.keepsLaws

/-- A read ends, for a target whose liveness the store operation's law says, or for none (R177 to R182). -/
theorem State.keepsLaws_completeRead {s : State} {k : Nat} {n : Option Nat} (start : LoadStart) (bytes : List Byte) :
    s.keepsLawsIf (∀ m, n = some m → (s.session m).live = true) (s.completeRead k n start bytes) := by
  unfold State.completeRead
  extract_lets s1
  have ended : s.keepsLaws s1 := s.works_idle.keepsLaws
  split
  · exact (ended.trans (s1.keepsLaws_loadCorrupt k n)).given _
  · split
    · exact ended.given _
    · exact (ended.given _).trans (State.keepsLaws_loadFor readPlan_inRange) fun live => live _ rfl

/-! ### Ports -/

theorem State.works_receive (s : State) (p : Port) (f : Frame) : s.works (s.receive p f) := by
  unfold State.receive
  dsimp only
  split <;> exact s.works_setLink p _

theorem State.works_countError (s : State) (p : Port) : s.works (s.countError p) := s.works_setLink p _

theorem State.works_rxPhase (s : State) (ph : RxPhase) : s.works (s.rxPhase ph) := .of_same

theorem State.works_discard (s : State) : s.works s.discard := (s.works_countError .a).trans (State.works_rxPhase _ _)

theorem State.works_checkFrame (s : State) (len : Nat) (kept : List Byte) : s.works (s.checkFrame len kept) := by
  unfold State.checkFrame
  split
  · exact (s.works_receive .a _).trans (State.works_rxPhase _ _)
  · exact s.works_discard

theorem State.works_gapTimeout (s : State) : s.works s.gapTimeout := by
  unfold State.gapTimeout
  split
  · exact s.works_discard
  · exact .refl s

theorem State.works_judgeByte (s : State) (b : RxByte) : s.works (s.judgeByte b) := by
  unfold State.judgeByte
  split
  · split
    · exact s.works_rxPhase _
    · exact .refl s
  · split
    · exact s.works_rxPhase _
    · exact s.works_discard
  · split
    · exact s.works_discard
    split
    · exact s.works_checkFrame _ _
    · exact s.works_rxPhase _

theorem State.works_takeByte (s : State) (b : RxByte) : s.works (s.takeByte b) := by
  have noted : s.gapTimeout.works { s.gapTimeout with rxA := { s.gapTimeout.rxA with lastByte := s.elapsed } } := .of_same
  exact (s.works_gapTimeout.trans noted).trans (State.works_judgeByte _ b)

theorem State.works_judgeWrite (s : State) (bytes : List Byte) : s.works (s.judgeWrite bytes) := by
  unfold State.judgeWrite
  split
  · exact s.works_countError .b
  · split
    · exact s.works_receive .b _
    · exact s.works_countError .b

theorem State.works_choose {s s1 : State} {p : Port} {f : OutFrame} (h : s.choose p = some (f, s1)) : s.works s1 := by
  unfold State.choose at h
  split at h
  · cases h
    exact s.works_setLink p _
  split at h
  · cases h
  split at h
  · cases h
  unfold State.handOver at h
  dsimp only at h
  split at h
  · cases h
  · cases h
    exact (s.works_setReportQueue _ _).trans (State.works_setLink _ p _)

theorem State.works_offer {s s1 : State} {f : OutFrame} (h : s.offer = some (f, s1)) : s.works s1 := by
  unfold State.offer at h
  split at h
  · cases h
    exact .refl s
  · obtain ⟨⟨g, s2⟩, chosen, eq⟩ := Option.map_eq_some_iff.1 h
    cases eq
    exact (State.works_choose chosen).trans .of_same

theorem State.keepsLaws_portATransmit {s t : State} (h : execPortATransmit s = .next t) : s.keepsLaws t := by
  unfold execPortATransmit at h
  split at h
  · cases h
    exact .refl s
  split at h
  · cases h
    exact .refl s
  · rename_i f s1 chosen
    cases h
    exact ((State.works_choose chosen).trans .of_same).keepsLaws

theorem State.works_withMiso (s : State) (bytes : List Byte) : s.works { s with miso := bytes } := .of_same

theorem State.works_withReading (s : State) (r : ReadTxn) : s.works { s with reading := some r } := .of_same

theorem State.keepsLaws_write {s t : State} {bytes : List Byte} {cut : Bool} (h : execWrite bytes cut s = .next t) :
    s.keepsLaws t := by
  unfold execWrite at h
  split at h
  · cases h
    exact .refl s
  · cases h
    have judged : s.works (if cut then s.countError .b else s.judgeWrite bytes) := by
      split
      · exact s.works_countError .b
      · exact s.works_judgeWrite bytes
    exact (judged.trans (State.works_withMiso _ _)).keepsLaws

theorem State.keepsLaws_level {s t : State} {clocked : Nat} (h : execLevel clocked s = .next t) : s.keepsLaws t := by
  unfold execLevel at h
  split at h
  · cases h
    exact .refl s
  · cases h
    exact (s.works_withMiso _).keepsLaws

theorem State.keepsLaws_read {s t : State} (h : execRead s = .next t) : s.keepsLaws t := by
  unfold execRead at h
  split at h
  · cases h
    exact .refl s
  split at h
  · rename_i f s1 offered
    cases h
    exact ((State.works_offer offered).trans (s1.works_withReading _)).keepsLaws
  · cases h
    exact (s.works_withReading _).keepsLaws

theorem State.keepsLaws_unknownSpiCommand {s t : State} {command : Byte} {clocked : Nat}
    (h : execUnknownSpiCommand command clocked s = .next t) : s.keepsLaws t := by
  unfold execUnknownSpiCommand at h
  split at h
  · cases h
    exact .refl s
  split at h
  · cases h
    exact .refl s
  · cases h
    exact ((s.works_countError .b).trans (State.works_withMiso _ _)).keepsLaws

theorem State.keepsLaws_unknownRequestKind {s t : State} {p : Port} (h : execUnknownRequestKind p s = .next t) :
    s.keepsLaws t := by
  unfold execUnknownRequestKind at h
  split at h
  · cases h
    exact .refl s
  · rename_i f s1 taken
    have took := State.works_takeFrame taken
    split at h
    · cases h
      exact (took.trans (State.works_placeReply _ _ _ _)).keepsLaws
    · cases h
      exact took.keepsLaws.trans (s1.keepsLaws_routeFrame p f fun _ _ _ s _ => .refl s)

theorem emptyQuery_state (body fields : List Byte) (s : State) : (emptyQuery body s fields).1 = s := by
  unfold emptyQuery
  split <;> rfl

theorem State.works_withTime (s : State) (g : Timebase) : s.works { s with time := g } := .of_same

/-! ### Steps -/

/-- What a step keeps: pins, pairs and sessions each by itself, entries where the store operation's session is live, and
all of ownership where the law of resets holds. -/
structure State.stepKeeps (s t : State) : Prop where
  pins : s.pinsAgree → t.pinsAgree
  pairs : s.pairsKept → t.pairsKept
  sessions : s.sessionsLawful → t.sessionsLawful
  entries : s.sessionsLawful → (∀ m, s.store.session? = some m → (s.session m).live = true) → s.entriesLawful →
    t.entriesLawful
  owned : s.sessionsLawful → s.resetLawful → s.ownershipLawful → t.ownershipLawful

theorem State.keepsLaws.stepKeeps {s t : State} (h : s.keepsLaws t) : s.stepKeeps t :=
  ⟨h.pins, h.pairs, h.sessions, fun law _ => h.entries law, fun law _ => h.owned law⟩

theorem State.stepKeeps_readCompletion {s t : State} {bytesRead : Option (List Byte)}
    (h : execReadCompletion bytesRead s = .next t) : s.stepKeeps t := by
  unfold execReadCompletion at h
  split at h
  · rename_i k n start store
    cases h
    have kept := s.keepsLaws_completeRead (k := k) (n := n) start (bytesRead.getD (s.slot k).contents)
    have session : s.store.session? = n := by rw [store]; rfl
    exact ⟨kept.pins, kept.pairs, kept.sessions, fun law live => kept.entries (session ▸ live) law,
      fun law _ owned => kept.owned (session ▸ owned.2.2.2.2.2.1) law owned⟩
  · cases h
    exact (State.keepsLaws.refl s).stepKeeps

/-- A reset leaves every law as the reset state has it; the store operation, which a soft reset does not end, is none
once a DEVICE_RESET is accepted (R190). -/
theorem State.stepKeeps_softReset {s u : State} (store : s.resetLawful → u.store = .idle) : s.stepKeeps u.softReset where
  pins := fun _ => State.pinsAgree_of_eq (s := .reset) rfl rfl State.reset_pinsAgree
  pairs := fun _ => State.pairsKept_of_eq (s := .reset) rfl rfl id State.reset_pairsKept
  sessions := fun _ => State.sessionsLawful_of_eq (s := .reset) rfl State.reset_sessionsLawful
  entries := fun _ _ _ _ he => absurd he List.not_mem_nil
  owned := fun _ law _ =>
    (State.sameHoldings.of_same (s := .reset) (t := u.softReset) (ho := store law)).ownershipLawful
      State.reset_ownershipLawful

theorem State.stepKeeps_hardReset {s t : State} {a b : Bool} {l : SupplyLevel} {x : List (Nat × List Byte)}
    (h : execHardReset a b l x s = .next t) : s.stepKeeps t := by
  cases h
  exact
    { pins := fun _ => State.pinsAgree_of_eq (s := .reset) rfl rfl State.reset_pinsAgree
      pairs := fun _ => State.pairsKept_of_eq (s := .reset) rfl rfl id State.reset_pairsKept
      sessions := fun _ => State.sessionsLawful_of_eq (s := .reset) rfl State.reset_sessionsLawful
      entries := fun _ _ _ _ he => absurd he List.not_mem_nil
      owned := fun _ _ _ => (State.sameHoldings.of_same (s := .reset)).ownershipLawful State.reset_ownershipLawful }

theorem State.stepKeeps_deviceResetTimeout {s t : State} (h : execDeviceResetTimeout s = .next t) : s.stepKeeps t := by
  unfold execDeviceResetTimeout at h
  split at h
  · rename_i r accepted
    split at h
    · cases h
      exact State.stepKeeps_softReset fun law => law.2.1 (by rw [accepted]; rfl)
    · cases h
      exact (State.keepsLaws.refl s).stepKeeps
  · cases h
    exact (State.keepsLaws.refl s).stepKeeps

/-- A frame that resets is on its way only once its DEVICE_RESET is accepted (R190). -/
theorem State.stepKeeps_transmitted {s u : State} {f : OutFrame} (onWay : s.sendingA = some f ∨ s.offered = some f)
    (kept : s.works u) (store : u.store = s.store) : s.stepKeeps (u.transmitted f) := by
  unfold State.transmitted
  split
  · rename_i resets
    refine State.stepKeeps_softReset fun ⟨_, idle, frames⟩ => ?_
    rw [store]
    exact idle (frames f resets (.inr (.inr onWay)))
  · exact kept.keepsLaws.stepKeeps

theorem State.stepKeeps_portAFrameSent {s t : State} (h : execPortAFrameSent s = .next t) : s.stepKeeps t := by
  unfold execPortAFrameSent at h
  split at h
  · cases h
    exact (State.keepsLaws.refl s).stepKeeps
  · rename_i f sending
    cases h
    exact State.stepKeeps_transmitted (.inl sending) .of_same rfl

theorem State.stepKeeps_readEnd {s t : State} {clocked before : Nat} (h : execReadEnd clocked before s = .next t) :
    s.stepKeeps t := by
  unfold execReadEnd at h
  split at h
  · cases h
    exact (State.keepsLaws.refl s).stepKeeps
  rename_i r _
  have ended : ∀ out, s.works { s with reading := none, miso := out } := fun _ => .of_same
  split at h
  · cases h
    exact (ended _).keepsLaws.stepKeeps
  · cases h
    unfold State.finishRead
    split
    · split
      · rename_i f offered
        exact State.stepKeeps_transmitted (.inr offered) .of_same rfl
      · exact (ended _).keepsLaws.stepKeeps
    · exact (ended _).keepsLaws.stepKeeps

/-- Every command keeps the laws. -/
theorem exec_stepKeeps {c : Instr} {s t : State} (h : exec c s = .next t) : s.stepKeeps t := by
  have request : ∀ p code {serve : Service}, serve.keepsLaws →
      (Host.Outcome.next (s.takeRequest p code serve) : Host.Outcome State Fault Refusal) = .next t → s.stepKeeps t := by
    rintro p code serve kept eq
    cases eq
    exact (s.keepsLaws_takeRequest p code kept).stepKeeps
  have query : ∀ p code (fields : State → List Byte) {serve : Service}, serve.keepsLaws →
      (Host.Outcome.next (s.takeSessionless p code (fun body u => emptyQuery body u (fields u)) serve) :
        Host.Outcome State Fault Refusal) = .next t → s.stepKeeps t := by
    rintro p code fields serve kept eq
    cases eq
    refine (s.keepsLaws_takeSessionless p code (fun body u => ?_) kept).stepKeeps
    rw [emptyQuery_state]
  cases c with
  | openSession p key =>
    cases h
    exact (s.keepsLaws_takeSessionless p _ (serveOpen_works p key) fun _ _ _ u _ => .refl u).stepKeeps
  | identify p => exact query p _ _ (emptyQuery_keepsLaws _) h
  | status p => exact query p _ _ (emptyQuery_keepsLaws _) h
  | close p => exact request p _ serveClose_keepsLaws h
  | keepalive p => exact request p _ (emptyQuery_keepsLaws _) h
  | timeGet p => exact request p _ (emptyQuery_keepsLaws _) h
  | timeSet p => exact request p _ serveTimeSet_keepsLaws h
  | timeTrim p key => exact request p _ (serveTimeTrim_keepsLaws key) h
  | bind p => exact request p _ serveBind_keepsLaws h
  | unbind p key => exact request p _ (serveUnbind_keepsLaws key) h
  | clearFault p key => exact request p _ (serveClearFault_keepsLaws key) h
  | requalify p => exact request p _ serveRequalify_keepsLaws h
  | channelQuery p => exact request p _ serveChannelQuery_keepsLaws h
  | subscribe p => exact request p _ serveSubscribe_keepsLaws h
  | unsubscribe p => exact request p _ serveUnsubscribe_keepsLaws h
  | claim p key => exact request p _ (serveClaim_keepsLaws key) h
  | release p => exact request p _ serveRelease_keepsLaws h
  | takeover p => exact request p _ serveTakeover_keepsLaws h
  | actionAdd p => exact request p _ serveActionAdd_keepsLaws h
  | actionCancel p key => exact request p _ (serveActionCancel_keepsLaws key) h
  | groupCancel p => exact request p _ serveGroupCancel_keepsLaws h
  | queueQuery p => exact request p _ serveQueueQuery_keepsLaws h
  | interlockSet p key => exact request p _ (serveInterlockSet_keepsLaws key) h
  | interlockClear p key => exact request p _ (serveInterlockClear_keepsLaws key) h
  | interlockQuery p => exact request p _ (emptyQuery_keepsLaws _) h
  | triggerSet p => exact request p _ serveTriggerSet_keepsLaws h
  | triggerClear p key => exact request p _ (serveTriggerClear_keepsLaws key) h
  | triggerQuery p => exact request p _ serveTriggerQuery_keepsLaws h
  | halt p => exact request p _ serveHalt_keepsLaws h
  | resume p => exact request p _ serveResume_keepsLaws h
  | reportAck p => exact request p _ serveReportAck_keepsLaws h
  | reportResend p => exact request p _ serveReportResend_keepsLaws h
  | planBegin p key => exact request p _ (servePlanBegin_keepsLaws key) h
  | planPut p key => exact request p _ (servePlanPut_keepsLaws key) h
  | planAbandon p key => exact request p _ (servePlanAbandon_keepsLaws key) h
  | planCommit p key prot => exact request p _ (servePlanCommit_keepsLaws key prot) h
  | planErase p key prot => exact request p _ (servePlanErase_keepsLaws key prot) h
  | planList p => exact request p _ (emptyQuery_keepsLaws _) h
  | planLoad p => exact request p _ servePlanLoad_keepsLaws h
  | deviceReset p key => exact request p _ (serveDeviceReset_keepsLaws p key) h
  | unknownRequestKind p => exact (State.keepsLaws_unknownRequestKind h).stepKeeps
  | tick =>
    cases h
    exact (s.works_withTime _).keepsLaws.stepKeeps
  | trimWindowEnd =>
    cases h
    exact (s.works_withTime _).keepsLaws.stepKeeps
  | entryDue => exact (State.keepsLaws_entryDue h).stepKeeps
  | actionDrive => exact (State.keepsLaws_actionDrive h).stepKeeps
  | guardDeadline => exact (State.keepsLaws_guardDeadline h).stepKeeps
  | guardReevaluation => exact (State.keepsLaws_guardReevaluation h).stepKeeps
  | pulseRelease c => exact (State.keepsLaws_pulseRelease h).stepKeeps
  | settleEnd c wires => exact (State.keepsLaws_settleEnd h).stepKeeps
  | inputSample c level => exact (State.keepsLaws_inputSample h).stepKeeps
  | triggerEdge => exact (State.keepsLaws_triggerEdge h).stepKeeps
  | fireRequest => exact (State.keepsLaws_fireRequest h).stepKeeps
  | holdoffEnd k => exact (State.keepsLaws_holdoffEnd h).stepKeeps
  | stopNSample asserted => exact (State.keepsLaws_stopNSample h).stepKeeps
  | keepaliveExpiry n => exact (State.keepsLaws_keepaliveExpiry h).stepKeeps
  | graceExpiry n => exact (State.keepsLaws_graceExpiry h).stepKeeps
  | reportAdd => exact (State.keepsLaws_reportAdd h).stepKeeps
  | erasePhaseEnd => exact (State.keepsLaws_erasePhaseEnd h).stepKeeps
  | programmingPhaseEnd readBack => exact (State.keepsLaws_programmingPhaseEnd h).stepKeeps
  | eraseEnd => exact (State.keepsLaws_eraseEnd h).stepKeeps
  | readCompletion bytesRead => exact State.stepKeeps_readCompletion h
  | supplyChange level => exact (State.keepsLaws_supplyChange h).stepKeeps
  | hardReset a b l x => exact State.stepKeeps_hardReset h
  | portAFrame bytes =>
    rw [← Host.Outcome.next.inj h]
    exact (State.works.foldl State.works_takeByte bytes s).keepsLaws.stepKeeps
  | portAGapTimeout =>
    cases h
    exact s.works_gapTimeout.keepsLaws.stepKeeps
  | portATransmit => exact (State.keepsLaws_portATransmit h).stepKeeps
  | portAFrameSent => exact State.stepKeeps_portAFrameSent h
  | deviceResetTimeout => exact State.stepKeeps_deviceResetTimeout h
  | write bytes cut => exact (State.keepsLaws_write h).stepKeeps
  | level clocked => exact (State.keepsLaws_level h).stepKeeps
  | read => exact (State.keepsLaws_read h).stepKeeps
  | readEnd clocked before => exact State.stepKeeps_readEnd h
  | unknownSpiCommand command clocked => exact (State.keepsLaws_unknownSpiCommand h).stepKeeps

/-- A step is its command on the state without it, of which every law says the same. -/
theorem step_stepKeeps {s t : State} (h : step s = .next t) : s.stepKeeps t := by
  unfold step at h
  split at h
  · cases h
    exact (State.keepsLaws.refl s).stepKeeps
  · rename_i c rest _
    have taken : { s with pending := rest }.stepKeeps t := exec_stepKeeps h
    exact ⟨taken.pins, taken.pairs, taken.sessions, taken.entries, taken.owned⟩

/-- Settles O54: each drive that a step makes of an interlocked output finds its partners INACTIVE or breaks them, and
at a stop entry the drives bring every output to rest. -/
theorem pairsStayKept : Obligations.PairsStayKept := fun _ _ kept h => (step_stepKeeps h).pairs kept

/-- Settles O56: each write of a channel record that changes what its pins present writes the pins with it. -/
theorem pinsStayAgreed : Obligations.PinsStayAgreed := fun _ _ agree h => (step_stepKeeps h).pins agree

/-- Settles O58: work on what belongs to a session leaves its owner, and what is made anew is made for a live session;
the resets and the completion of a read lean on the law of resets and on that of the store operation. -/
theorem entriesStayOwned : Obligations.EntriesStayOwned := fun _ _ lawful h =>
  have kept := step_stepKeeps h
  ⟨kept.sessions lawful, kept.entries lawful, kept.owned lawful⟩

end Sys2Proof.Machine
end

section
/-!
The requests of the Channel Matrix: BIND, UNBIND, CLEAR_FAULT, REQUALIFY, SUBSCRIBE, UNSUBSCRIBE (R16 to R20, R22, R27,
R33, R34).
-/

namespace Sys2Proof.Machine

section
variable {s : State} {p : Port} {n : Nat} {h : HostSession} {f : Frame} {rest : List Frame} {code : Byte}

/-! ### Requests that write a channel and its pins -/

theorem State.setPins_setChan (s : State) (qs : List Nat) (x : PinRec) (c : Nat) (r : Channel) :
    (s.setPins qs x).setChan c r = (s.setChan c r).setPins qs x := rfl

/-- A request in sequence that writes one channel and some pins: the same writes on the answered state. -/
theorem State.takeRequest_channel (received : s.receives p n h f rest code) (serve : Service) (c : Nat) (r : Channel)
    (qs : List Nat) (x : PinRec)
    (served : serve n f.body (s.arrived p n h rest) = (((s.arrived p n h rest).setChan c r).setPins qs x, okWith [])) :
    s.takeRequest p code serve = ((s.answered p n h f rest .ok []).setChan c r).setPins qs x :=
  State.takeRequest_effect received serve .ok [] (fun t => (t.setChan c r).setPins qs x) served
    (fun t => by simp) (fun t q => by rw [State.setSession_setPins, State.setSession_setChan]) (fun t => by simp)
    (fun t q => by rw [State.setLink_setPins, State.setLink_setChan])

theorem asOperator_arrived (received : s.receives p n h f rest code) (operator : h.cls ≠ .observer) (act : State × Answer) :
    asOperator (s.arrived p n h rest) n act = act := by
  obtain ⟨⟨_, _, _, _, live, _⟩, _⟩ := received
  exact if_neg (by rwa [State.arrived_classOf live])

/-- The requester owns the channel, or nobody does, or the rights of SERVICE stand in (R20, R27). -/
theorem State.channelRefusal_arrived (received : s.receives p n h f rest code) {c : Nat} {key : Bool}
    (rights : ∀ m, (s.chan c).owner = some m → m = n ∨ h.cls = .service ∧ key = true) :
    (s.arrived p n h rest).channelRefusal n c key = none := by
  obtain ⟨⟨_, _, _, _, live, _⟩, _⟩ := received
  unfold State.channelRefusal
  rw [State.arrived_chan]
  split
  · rfl
  · rename_i m owner
    rcases rights m owner with rfl | ⟨service, rfl⟩
    · exact if_pos rfl
    · rw [foreignRefusal, State.arrived_classOf live, if_pos service]
      exact ite_self none

theorem State.inUse_arrived (c : Nat) : (s.arrived p n h rest).inUse c = s.inUse c := by
  rw [Bool.eq_iff_iff, State.inUse_iff, State.inUse_iff]
  simp

/-! ### BIND -/

/-- A BIND whose body is read (R17). -/
theorem serveBind_read (received : s.receives p n h f rest code) (operator : h.cls ≠ .observer) {c : Nat} {spec : BindSpec}
    (body : spec.bodyFor c f.body) :
    serveBind n f.body (s.arrived p n h rest) =
      if s.chan c ≠ .unbound then (s.arrived p n h rest, refuse .alreadyBound)
      else if spec.pins.any (fun q => s.pin q != .isolated) then (s.arrived p n h rest, refuse .pinBusy)
      else ((s.arrived p n h rest).bindChannel c n spec, okWith []) := by
  rw [serveBind, asOperator_arrived received operator, (readBind_eq_some f.body c spec).2 body]
  simp only [State.arrived_chan, State.arrived_pin]

theorem serveBind_accepted (received : s.receives p n h f rest code) (operator : h.cls ≠ .observer) {c : Nat}
    {spec : BindSpec} (body : spec.bodyFor c f.body) (unbound : s.chan c = .unbound)
    (free : ∀ q ∈ spec.pins, s.pin q = .isolated) :
    serveBind n f.body (s.arrived p n h rest) = ((s.arrived p n h rest).bindChannel c n spec, okWith []) := by
  rw [serveBind_read received operator body, if_neg (not_not.2 unbound), if_neg (by simpa using free)]

/-- A new output at its safe level has not left ACTIVE (R18, R21). -/
theorem OutConfig.fresh_lastOffAfter (g : OutConfig) (n now : Nat) : (g.fresh n).lastOffAfter g.safe now = none := by
  unfold OutConfig.fresh Output.lastOffAfter
  cases g.safe <;> rfl

/-- The eight cases of R22. -/
theorem OutConfig.presents_cases (g : OutConfig) :
    g.presents .active = (match g.polarity, g.drive with
      | .activeHigh, .pushPull => .high
      | .activeHigh, .openDrain => .released
      | .activeLow, _ => .low) ∧
    g.presents .inactive = (match g.polarity, g.drive with
      | .activeHigh, _ => .low
      | .activeLow, .pushPull => .high
      | .activeLow, .openDrain => .released) := by
  unfold OutConfig.presents OutConfig.intended
  cases g.polarity <;> cases g.drive <;> exact ⟨rfl, rfl⟩

theorem execBind_refused (received : s.receives p n h f rest 0x10) {r : Result}
    (served : serveBind n f.body (s.arrived p n h rest) = (s.arrived p n h rest, refuse r)) :
    exec (.bind p) s = .next (s.answered p n h f rest r []) :=
  congrArg Host.Outcome.next (State.takeRequest_answered received serveBind r [] served)

end

/-- Settles O14: the reader gives exactly what the body spells, and each outcome is that of the rule's branches. -/
theorem bindsOrRefuses : Obligations.BindsOrRefuses := by
  refine ⟨readBind_eq_some, fun s p n h f rest operator received unread => ?_, OutConfig.presents_cases,
    fun s p n h f rest c g received operator body unbound free => ?_,
    fun s p n h f rest c pin interval qualify received operator body unbound free => ?_,
    fun s p n h f rest c spec received operator body => ⟨fun bound => ?_, fun unbound busy => ?_⟩⟩
  · refine execBind_refused received ?_
    rw [serveBind, asOperator_arrived received operator]
    cases e : readBind f.body with
    | none => rfl
    | some x => exact absurd ((readBind_eq_some f.body x.1 x.2).1 e) (unread x.1 x.2)
  · refine congrArg Host.Outcome.next (State.takeRequest_channel received serveBind c _ g.pins _ ?_)
    rw [serveBind_accepted received operator body unbound free, State.bindChannel, State.driveOutput,
      OutConfig.fresh_lastOffAfter, State.arrived_elapsed]
    rfl
  · refine congrArg Host.Outcome.next (State.takeRequest_channel received serveBind c _ [pin] _ ?_)
    rw [serveBind_accepted received operator body unbound fun q hq => List.mem_singleton.1 hq ▸ free, State.bindChannel,
      State.arrived_elapsed]
  · refine execBind_refused received ?_
    rw [serveBind_read received operator body, if_pos bound]
  · refine execBind_refused received ?_
    rw [serveBind_read received operator body, if_neg (not_not.2 unbound), if_pos (by simpa using busy)]

section
variable {s : State} {p : Port} {n : Nat} {h : HostSession} {f : Frame} {rest : List Frame} {code : Byte}

/-! ### UNBIND and CLEAR_FAULT -/

/-- An UNBIND of a bound channel by one who may (R20). -/
theorem serveUnbind_read (received : s.receives p n h f rest code) (operator : h.cls ≠ .observer) {c : Nat} {key : Bool}
    (range : c ≤ 31) (body : f.body = [BitVec.ofNat 8 c]) (bound : s.chan c ≠ .unbound)
    (rights : ∀ m, (s.chan c).owner = some m → m = n ∨ h.cls = .service ∧ key = true) :
    serveUnbind key n f.body (s.arrived p n h rest) =
      if s.inUse c then (s.arrived p n h rest, refuse .inUse)
      else ((s.arrived p n h rest).unbindChannel c, okWith []) := by
  simp only [serveUnbind, asOperator_arrived received operator, body, readIndex_single c 32 (by omega) (by omega),
    State.arrived_chan, if_neg bound, State.channelRefusal_arrived received rights, State.inUse_arrived]

/-- A CLEAR_FAULT of an output by one who may (R27). -/
theorem serveClearFault_read (received : s.receives p n h f rest code) (operator : h.cls ≠ .observer) {c : Nat}
    {key : Bool} {o : Output} (range : c ≤ 31) (body : f.body = [BitVec.ofNat 8 c]) (output : s.chan c = .output o)
    (rights : ∀ m, o.owner = some m → m = n ∨ h.cls = .service ∧ key = true) :
    serveClearFault key n f.body (s.arrived p n h rest) =
      if o.isFaulted then ((s.arrived p n h rest).driveOutput c o o.cfg.safe none, okWith [])
      else (s.arrived p n h rest, refuse .notFaulted) := by
  have owner : ∀ m, (s.chan c).owner = some m → m = n ∨ h.cls = .service ∧ key = true := by
    rw [output]
    exact rights
  simp only [serveClearFault, asOperator_arrived received operator, body, readIndex_single c 32 (by omega) (by omega),
    State.arrived_chan, output, State.channelRefusal_arrived received owner]

end

/-- Settles O15: what names the channel is what IN_USE asks of. -/
theorem unbindIsolates : Obligations.UnbindIsolates := by
  intro s p key n h f rest c received operator range body bound rights
  have served := serveUnbind_read received operator range body bound rights
  refine ⟨fun entries triggers interlocks => ?_, fun named => ?_⟩
  · have unused : ¬s.inUse c = true := by
      rw [State.inUse_iff]
      rintro (⟨e, he, target | ⟨g, hg, guards⟩⟩ | ⟨t, r, hr, source⟩ | ⟨i, r, hr, named⟩)
      · exact (entries e he).1 target
      · exact (entries e he).2 g hg guards
      · exact triggers t r hr source
      · exact named.elim (interlocks i r hr).1 (interlocks i r hr).2
    rw [if_neg unused, State.unbindChannel, State.setPins_setChan, State.arrived_chan] at served
    exact congrArg Host.Outcome.next (State.takeRequest_channel received _ c .unbound _ _ served)
  · rw [if_pos ((s.inUse_iff c).2 named)] at served
    exact congrArg Host.Outcome.next (State.takeRequest_answered received _ .inUse [] served)

/-- Settles O16: a FAULTED output at its safe level is driven there again, and does not leave ACTIVE. -/
theorem clearFaultStartsWindow : Obligations.ClearFaultStartsWindow := by
  intro s p key n h f rest c o received operator range body output rights
  have served := serveClearFault_read received operator range body (State.chan_of_outputAt output) rights
  refine ⟨fun faulted safe => ?_, fun sound => ?_⟩
  · have stays : o.lastOffAfter o.cfg.safe (s.arrived p n h rest).now = o.lastOff := by
      rw [Output.lastOffAfter, safe]
      cases o.cfg.safe <;> rfl
    rw [if_pos faulted, State.driveOutput, stays, State.arrived_elapsed, ← safe] at served
    rw [← safe]
    exact congrArg Host.Outcome.next (State.takeRequest_channel received _ c _ _ _ served)
  · rw [if_neg (by rw [sound]; exact Bool.false_ne_true)] at served
    exact congrArg Host.Outcome.next (State.takeRequest_answered received _ .notFaulted [] served)

/-! ### Inputs -/

/-- A REQUALIFY body in range is read as the numbers it spells (R33). -/
theorem readRequalify_spelled {c interval qualify : Nat} (range : c ≤ 31) (h1 : 1 ≤ interval) (h2 : interval ≤ 250)
    (h3 : 2 ≤ qualify) (h4 : qualify ≤ 16) :
    readRequalify [BitVec.ofNat 8 c, BitVec.ofNat 8 interval, BitVec.ofNat 8 qualify] = some (c, interval, qualify) := by
  have channel : field [BitVec.ofNat 8 c, BitVec.ofNat 8 interval, BitVec.ofNat 8 qualify] 0 1 = c :=
    (field_byte _ _ 0 rfl).trans (toByte_toNat c (by omega))
  have samples : field [BitVec.ofNat 8 c, BitVec.ofNat 8 interval, BitVec.ofNat 8 qualify] 1 1 = interval :=
    (field_byte _ _ 1 rfl).trans (toByte_toNat interval (by omega))
  have count : field [BitVec.ofNat 8 c, BitVec.ofNat 8 interval, BitVec.ofNat 8 qualify] 2 1 = qualify :=
    (field_byte _ _ 2 rfl).trans (toByte_toNat qualify (by omega))
  simp only [readRequalify, channel, samples, count]
  refine if_pos ⟨rfl, range, ?_⟩
  simp [samplingInRange, h1, h2, h3, h4]

/-- SUBSCRIBE and UNSUBSCRIBE of a bound input, from any session (R34). -/
theorem serveSubscribers_arrived {s : State} {p : Port} {n : Nat} {h : HostSession} {rest : List Frame}
    {body : List Byte} {c : Nat} {i : Input} (change : List Nat → List Nat) (range : c ≤ 31)
    (spelled : body = [BitVec.ofNat 8 c]) (input : s.inputAt c = some i) :
    serveSubscribers change body (s.arrived p n h rest) =
      ((s.arrived p n h rest).setChan c (.input { i with subscribers := change i.subscribers }), okWith []) := by
  simp only [serveSubscribers, spelled, readIndex_single c 32 (by omega) (by omega), State.arrived_chan,
    State.chan_of_inputAt input]

/-- Settles O17: the three rules write the record of the input that the body names. -/
theorem inputRequestsWrite : Obligations.InputRequestsWrite := by
  refine ⟨fun s p n h f rest c interval qualify i received operator range h1 h2 h3 h4 body input => ?_,
    fun s p n h f rest c i range body input => ⟨fun received => ?_, fun received => ?_⟩⟩
  · have served : serveRequalify n f.body (s.arrived p n h rest) =
        if i.owner = some n then
          ((s.arrived p n h rest).setChan c (.input (i.requalified interval qualify s.elapsed)), okWith [])
        else (s.arrived p n h rest, refuse .notOwner) := by
      simp only [serveRequalify, asOperator_arrived received operator, body, readRequalify_spelled range h1 h2 h3 h4,
        State.arrived_chan, State.chan_of_inputAt input, State.arrived_elapsed]
    refine ⟨fun own => ?_, fun foreign => ?_⟩
    · rw [if_pos own] at served
      exact congrArg Host.Outcome.next (State.takeRequest_channel received _ c _ [] .isolated served)
    · rw [if_neg foreign] at served
      exact congrArg Host.Outcome.next (State.takeRequest_answered received _ .notOwner [] served)
  · exact ⟨addMember i.subscribers n, fun m => mem_addMember,
      congrArg Host.Outcome.next (State.takeRequest_channel received serveSubscribe c _ [] .isolated
        (serveSubscribers_arrived _ range body input))⟩
  · exact ⟨dropMember i.subscribers n, fun m => mem_dropMember.trans and_comm,
      congrArg Host.Outcome.next (State.takeRequest_channel received serveUnsubscribe c _ [] .isolated
        (serveSubscribers_arrived _ range body input))⟩

end Sys2Proof.Machine
end

section
/-!
The drive request of an occurrence at the Channel Matrix: ACTION_DRIVE (R21, R23, R49, R62, R83, R110, R134).
-/

namespace Sys2Proof.Machine

/-- The partner of a record of two distinct channels is the one that it names beside `x`. -/
theorem Interlock.partner_of_names {r : Interlock} {x y : Nat} (ne : r.a ≠ r.b)
    (h : r.a = x ∧ r.b = y ∨ r.b = x ∧ r.a = y) : r.partner x = some y := by
  unfold Interlock.partner
  rcases h with ⟨rfl, rfl⟩ | ⟨rfl, rfl⟩
  · exact if_pos rfl
  · rw [if_neg ne, if_pos rfl]

/-- The confirmation of a record whose partner is an output. -/
theorem State.confirms_iff {s : State} {x y : Nat} {r : Interlock} {o : Output} (partner : r.partner x = some y)
    (output : s.outputAt y = some o) :
    s.confirms x r = true ↔ o.level = .inactive ∧ ∀ k, o.lastOff = some k → k + r.dead ≤ s.now := by
  simp only [State.confirms, partner, State.chan_of_outputAt output, Bool.and_eq_true, decide_eq_true_eq]
  refine and_congr_right fun _ => ?_
  cases o.lastOff <;> simp

/-- A record that is clear lets `x` become ACTIVE (R83). -/
theorem State.clearOf.confirms {s : State} {x : Nat} {r : Interlock} (clear : s.clearOf x r) : s.confirms x r = true := by
  cases partner : r.partner x with
  | none => simp only [State.confirms, partner]
  | some y =>
    obtain ⟨o, output, off, dead⟩ := clear y (Interlock.partner_eq_some partner)
    exact (State.confirms_iff partner output).2 ⟨off, dead⟩

theorem State.interlockConfirmed_of_clear {s : State} {x : Nat}
    (clear : ∀ i r, s.interlock i = some r → s.clearOf x r) : s.interlockConfirmed x = true := by
  refine List.all_eq_true.2 fun r hr => ?_
  obtain ⟨i, hi⟩ := (s.mem_interlockList r).1 hr
  exact (clear i r hi).confirms

/-- A record of two bound outputs that is not clear stops `x` from becoming ACTIVE (R83). -/
theorem State.not_confirmed_of_not_clear {s : State} {x i : Nat} {r : Interlock} (hr : s.interlock i = some r)
    (ne : r.a ≠ r.b) (ha : (s.outputAt r.a).isSome = true) (hb : (s.outputAt r.b).isSome = true)
    (blocked : ¬s.clearOf x r) : s.interlockConfirmed x = false := by
  refine Bool.eq_false_iff.2 fun confirmed => blocked fun y names => ?_
  have bound : (s.outputAt y).isSome = true := by
    rcases names with ⟨-, rfl⟩ | ⟨-, rfl⟩
    · exact hb
    · exact ha
  obtain ⟨o, output⟩ := Option.isSome_iff_exists.1 bound
  have confirms := List.all_eq_true.1 confirmed r ((s.mem_interlockList r).2 ⟨i, hr⟩)
  exact ⟨o, output, (State.confirms_iff (Interlock.partner_of_names ne names) output).1 confirms⟩

section
variable {s : State} {f : InFlight} {o : Output}

/-! ### The answers of R134 -/

theorem State.judgeDrive_returned (output : s.chan f.target = .output o)
    (h : f.owner = none ∨ o.owner ≠ f.owner ∨ o.held = true ∨ s.stop.run = .stopped) : s.judgeDrive f = .returned := by
  simp only [State.judgeDrive, output]
  split
  · rfl
  · rename_i mine
    have stopped : s.stop.run = .stopped := by
      rcases h with h | h | h | h
      · exact absurd (.inl h) mine
      · exact absurd (.inr (.inl h)) mine
      · exact absurd (.inr (.inr h)) mine
      · exact h
    exact if_pos (decide_eq_true stopped)

/-- A drive request of the session that owns the target, which is not held, on a running part (R134). -/
theorem State.judgeDrive_admitted (output : s.chan f.target = .output o) (live : f.owner ≠ none) (own : o.owner = f.owner)
    (held : o.held = false) (run : s.stop.run = .running) :
    s.judgeDrive f =
      if o.isFaulted then (if f.level = o.cfg.safe ∧ f.release = none then .taken else .faulted)
      else if o.level = .inactive ∧ f.level = .active ∧ s.interlockConfirmed f.target = false then .interlocked
      else .taken := by
  simp only [State.judgeDrive, output]
  rw [if_neg (by simp [live, own, held]), if_neg (by simp [State.stopped, run])]

theorem State.settleDrive_returned (h : s.judgeDrive f = .returned) : s.settleDrive f = s := by
  rw [State.settleDrive, h]

theorem State.settleDrive_taken (h : s.judgeDrive f = .taken) :
    s.settleDrive f = (s.driveAction f).endingOf f.adm fun t e => t.succeed e f.fireTime := by
  obtain ⟨ch, ps, frame⟩ := s.driveAction_frame f
  have queue : (s.driveAction f).queue = s.queue := by rw [frame]
  rw [State.settleDrive, h, State.endingOf, queue]
  rfl

theorem State.settleDrive_faulted (h : s.judgeDrive f = .faulted) :
    s.settleDrive f = s.endingOf f.adm fun t e => t.failOccurrence e .channelFaulted s.now := by
  rw [State.settleDrive, h]
  rfl

theorem State.settleDrive_interlocked (h : s.judgeDrive f = .interlocked) :
    s.settleDrive f = s.endingOf f.adm fun t e => t.failOccurrence e .interlocked s.now := by
  rw [State.settleDrive, h]
  rfl

theorem State.driveAction_faulted (output : s.chan f.target = .output o) (faulted : o.isFaulted = true) :
    s.driveAction f = s := by
  simp only [State.driveAction, output, faulted, if_true]

theorem State.driveAction_sound (output : s.chan f.target = .output o) (sound : o.isFaulted = false) :
    s.driveAction f = (s.setChan f.target (.output (o.takes f s.now s.elapsed))).setPins o.cfg.pins
      (.driving f.target (o.cfg.presents f.level)) := by
  simp only [State.driveAction, output, sound, Bool.false_eq_true, if_false]
  rfl

end

/-- Settles O39: each answer of R134, and what the engine makes of it. -/
theorem actionDriveTaken : Obligations.ActionDriveTaken := by
  rintro s s0 f o flying rfl output
  have run : exec .actionDrive s = .next ({ s with inFlight := none }.settleDrive f) := by
    simp only [exec, execActionDrive, flying]
  have target : { s with inFlight := none }.chan f.target = .output o := State.chan_of_outputAt output
  rw [run]
  refine ⟨fun back => ?_, fun live own held running => ?_⟩
  · rw [State.settleDrive_returned (State.judgeDrive_returned target back)]
  have judged := State.judgeDrive_admitted (f := f) target live own held running
  refine ⟨fun faulted level release => ?_, fun faulted other => ?_, fun sound off act ⟨i, r, hr, ne, ha, hb, blocked⟩ => ?_,
    fun sound clear => ?_⟩
  · rw [if_pos faulted, if_pos ⟨level, release⟩] at judged
    rw [State.settleDrive_taken judged, State.driveAction_faulted target faulted]
  · rw [if_pos faulted, if_neg (by tauto)] at judged
    rw [State.settleDrive_faulted judged]
    rfl
  · have refused : { s with inFlight := none }.interlockConfirmed f.target = false :=
      State.not_confirmed_of_not_clear (s := { s with inFlight := none }) hr ne ha hb blocked
    rw [if_neg (by simp [sound]), if_pos ⟨off, act, refused⟩] at judged
    rw [State.settleDrive_interlocked judged]
    rfl
  · have free : ¬(o.level = .inactive ∧ f.level = .active ∧
        { s with inFlight := none }.interlockConfirmed f.target = false) := by
      rintro ⟨off, act, refused⟩
      rcases clear with level | level | clear
      · rw [off] at level
        cases level
      · rw [act] at level
        cases level
      · rw [State.interlockConfirmed_of_clear (s := { s with inFlight := none }) clear] at refused
        cases refused
    rw [if_neg (by simp [sound]), if_neg free] at judged
    rw [State.settleDrive_taken judged, State.driveAction_sound target sound]
    rfl

end Sys2Proof.Machine
end

section
/-!
The end of a settle window: readback and fault entry (R24 to R26, R85).
-/

namespace Sys2Proof.Machine

/-! ### The readback of R25 -/

/-- A level is presented HIGH exactly when it is ACTIVE at ACTIVE_HIGH, or INACTIVE at ACTIVE_LOW (R22). -/
theorem OutConfig.intended_eq_high (g : OutConfig) (l : Level) :
    g.intended l = .high ↔ (l = .active ↔ g.polarity = .activeHigh) := by
  unfold OutConfig.intended
  cases l <;> cases g.polarity <;> simp

/-- A pin matches the intended level when its wire has it. -/
theorem readPin_ne_iff (wires : BitVec 24) (p : Nat) (l : PinLevel) :
    readPin wires p ≠ l ↔ (wires.getLsbD p != decide (l = .high)) = true := by
  unfold readPin
  cases wires.getLsbD p <;> cases l <;> simp

theorem Output.mismatches_eq (o : Output) (wires : BitVec 24) {want : Bool}
    (hwant : want = decide (o.level = .active ↔ o.cfg.polarity = .activeHigh)) :
    o.mismatches wires =
      if o.cfg.drive = .openDrain ∧ want = true then [] else o.cfg.pins.filter fun q => wires.getLsbD q != want := by
  have high : want = decide (o.cfg.intended o.level = .high) := by
    rw [hwant]
    exact decide_eq_decide.2 (OutConfig.intended_eq_high _ _).symm
  subst high
  simp only [Output.mismatches, decide_eq_true_eq, readPin_ne_iff, Bool.decide_eq_true]

theorem execSettleEnd_reached {s : State} {c k : Nat} {o : Output} (wires : BitVec 24) (output : s.outputAt c = some o)
    (settling : o.condition = .settling k) (reached : k ≤ s.elapsed) :
    exec (.settleEnd c wires) s = .next (s.readback c o wires) := by
  simp only [exec, execSettleEnd, State.chan_of_outputAt output, settling, if_pos reached]

theorem State.readback_matching {s : State} {c : Nat} {o : Output} {wires : BitVec 24} (h : o.mismatches wires = []) :
    s.readback c o wires = s.setChan c (.output { o with condition := .ready }) := if_pos h

theorem State.readback_mismatching {s : State} {c : Nat} {o : Output} {wires : BitVec 24} (h : o.mismatches wires ≠ []) :
    s.readback c o wires = s.faultEntry c o (o.mismatches wires) := if_neg h

/-! ### The fault entry of R26 -/

/-- The output at its safe level, FAULTED with its fault pins. -/
def Output.faultedWith (o : Output) (bad : List Nat) (now : Nat) : Output :=
  { o with level := o.cfg.safe, lastOff := o.lastOffAfter o.cfg.safe now, release := none, condition := .faulted bad }

/-- The partners of an output that becomes ACTIVE at its fault are broken first (R85). -/
def State.brokenFirst (s : State) (c : Nat) (o : Output) : State :=
  if o.cfg.safe = .active ∧ o.level = .inactive then s.breakPartners c else s

/-- The fault entry before its report. -/
def State.faulted (s : State) (c : Nat) (o : Output) (bad : List Nat) : State :=
  (s.brokenFirst c o).putOutput c (o.faultedWith bad s.now)

theorem State.faultEntry_eq (s : State) (c : Nat) (o : Output) (bad : List Nat) :
    s.faultEntry c o bad =
      match o.owner with
      | some n => (s.faulted c o bad).addReport n s.now (.channelFault c bad o.level)
      | none => s.faulted c o bad := rfl

theorem State.faulted_chan_same (s : State) {c : Nat} (o : Output) (bad : List Nat) (lt : c < 32) :
    (s.faulted c o bad).chan c = .output (o.faultedWith bad s.now) :=
  State.putOutput_chan_same _ _ _ lt

theorem State.faultEntry_chan (s : State) (c : Nat) (o : Output) (bad : List Nat) (d : Nat) :
    (s.faultEntry c o bad).chan d = (s.faulted c o bad).chan d := by
  rw [State.faultEntry_eq]
  split
  · exact State.addReport_chan _ _ _ _ _
  · rfl

theorem State.brokenFirst_frame (s : State) (c : Nat) (o : Output) :
    ∃ ch ps, s.brokenFirst c o = { s with channels := ch, pins := ps } := by
  unfold State.brokenFirst
  split
  · exact s.breakPartners_frame c
  · exact ⟨_, _, rfl⟩

theorem State.faulted_frame (s : State) (c : Nat) (o : Output) (bad : List Nat) :
    ∃ ch ps, s.faulted c o bad = { s with channels := ch, pins := ps } := by
  obtain ⟨ch, ps, frame⟩ := s.brokenFirst_frame c o
  rw [State.faulted, frame]
  exact ⟨_, _, rfl⟩

/-- Settles O40: the mismatching pins of the model are those of R25, and they are the fault pins. -/
theorem settleEndJudgesPins : Obligations.SettleEndJudgesPins := by
  intro s c k o wires want bad output settling reached hwant hbad
  rw [execSettleEnd_reached wires output settling reached]
  rw [← Output.mismatches_eq o wires hwant] at hbad
  subst hbad
  refine ⟨fun none => by rw [State.readback_matching none], fun some => ⟨_, o.faultedWith _ s.now, rfl, ?_, rfl⟩⟩
  have lt := s.lt_of_bound (c := c) (by simp [State.chan_of_outputAt output])
  rw [State.readback_mismatching some]
  refine State.outputAt_of_chan ?_
  rw [State.faultEntry_chan, State.faulted_chan_same s o _ lt]

/-! ### The partners broken -/

theorem Interlock.partner_eq_some_iff (r : Interlock) {x y : Nat} (ne : y ≠ x) :
    r.partner x = some y ↔ r.a = x ∧ r.b = y ∨ r.a = y ∧ r.b = x := by
  constructor
  · intro h
    rcases Interlock.partner_eq_some h with names | ⟨hb, ha⟩
    · exact .inl names
    · exact .inr ⟨ha, hb⟩
  · unfold Interlock.partner
    rintro (⟨ha, hb⟩ | ⟨ha, hb⟩)
    · rw [if_pos ha, hb]
    · rw [if_neg (ha ▸ ne), if_pos hb, ha]

/-- `d` is driven INACTIVE before `c` is: an ACTIVE partner that is not FAULTED, of an INACTIVE output whose safe level
is ACTIVE (R85). -/
def State.breaks (s : State) (c : Nat) (o : Output) (d : Nat) (od : Output) : Prop :=
  d ≠ c ∧ s.outputAt d = some od ∧ o.cfg.safe = .active ∧ o.level = .inactive ∧ od.level = .active ∧
    od.isFaulted = false ∧ ∃ i r, s.interlock i = some r ∧ (r.a = c ∧ r.b = d ∨ r.a = d ∧ r.b = c)

theorem State.breaks_iff (s : State) {c d : Nat} (o od : Output) (ne : d ≠ c) : s.breaks c o d od ↔
    s.chan d = .output od ∧ (o.cfg.safe = .active ∧ o.level = .inactive) ∧ d ∈ s.partnersOf c ∧ od.level = .active ∧
      od.isFaulted = false := by
  simp only [State.breaks, State.outputAt_eq_some, State.mem_partnersOf, Interlock.partner_eq_some_iff _ ne]
  exact ⟨fun ⟨_, output, safe, off, act, sound, partner⟩ => ⟨output, ⟨safe, off⟩, partner, act, sound⟩,
    fun ⟨output, ⟨safe, off⟩, partner, act, sound⟩ => ⟨ne, output, safe, off, act, sound, partner⟩⟩

theorem State.brokenFirst_chan {s : State} {c d : Nat} {o : Output} (ne : d ≠ c) :
    (∀ od, s.breaks c o d od → (s.brokenFirst c o).chan d = .output (od.drivenTo .inactive s.now s.elapsed)) ∧
      ((∀ od, ¬s.breaks c o d od) → (s.brokenFirst c o).chan d = s.chan d) := by
  obtain ⟨broken, same⟩ := State.foldl_breakPartner_chan (s.partnersOf c) s d
  simp only [s.breaks_iff o _ ne]
  unfold State.brokenFirst
  refine ⟨fun od ⟨output, first, partner, act, sound⟩ => ?_, fun none => ?_⟩
  · rw [if_pos first]
    exact broken od output partner act sound
  · split
    · rename_i first
      exact same fun od output ⟨partner, act, sound⟩ => none od ⟨output, first, partner, act, sound⟩
    · rfl

/-- No pin changes but those of the broken partners; the channel itself, INACTIVE, is none of them. -/
theorem State.brokenFirst_pin {s : State} {c q : Nat} {o : Output} (output : s.chan c = .output o)
    (untouched : ∀ d od, s.breaks c o d od → q ∉ od.cfg.pins) : (s.brokenFirst c o).pin q = s.pin q := by
  unfold State.brokenFirst
  split
  · rename_i first
    refine State.foldl_breakPartner_pin_ne _ s q fun d partner od eod act sound => ?_
    by_cases hd : d = c
    · subst hd
      rw [output] at eod
      cases eod
      rw [first.2] at act
      cases act
    · exact untouched d od ((s.breaks_iff o od hd).2 ⟨eod, first, partner, act, sound⟩)
  · rfl

theorem State.faulted_chan_ne {s : State} {c d : Nat} (o : Output) (bad : List Nat) (ne : d ≠ c) :
    (s.faulted c o bad).chan d = (s.brokenFirst c o).chan d :=
  State.putOutput_chan_ne _ _ _ ne

theorem State.faulted_pin (s : State) (c : Nat) (o : Output) (bad : List Nat) (q : Nat) :
    (s.faulted c o bad).pin q =
      if q ∈ o.cfg.pins ∧ q < 24 then .driving c (o.cfg.presents o.cfg.safe) else (s.brokenFirst c o).pin q :=
  State.putOutput_pin _ _ _ _

theorem State.pinsAgree_faulted {s : State} {c : Nat} {o : Output} (output : s.chan c = .output o) (bad : List Nat)
    (h : s.pinsAgree) : (s.faulted c o bad).pinsAgree :=
  (State.works_breakThenPut (o' := o.faultedWith bad s.now) output rfl rfl ⟨rfl, rfl⟩).pins h

/-- Settles O41: the fault entry is the drives of the broken partners, the write of the output and its report. -/
theorem faultEntered : Obligations.FaultEntered := by
  intro s c k o wires output settling
  refine ⟨fun early => ?_, fun reached mismatch => ⟨s.faulted c o (o.mismatches wires), ?_, ?_, ?_, ?_, ?_⟩⟩
  · simp only [exec, execSettleEnd, State.chan_of_outputAt output, settling, if_neg (Nat.not_le_of_lt early)]
  · have entered : exec (.settleEnd c wires) s = .next (s.faultEntry c o (o.mismatches wires)) := by
      rw [execSettleEnd_reached wires output settling reached, State.readback_mismatching mismatch]
    exact entered
  · exact State.outputAt_of_chan
      (State.faulted_chan_same s o _ (s.lt_of_bound (by simp [State.chan_of_outputAt output])))
  · intro q hq lt
    rw [State.faulted_pin, if_pos ⟨hq, lt⟩]
  · obtain ⟨ch, ps, frame⟩ := s.faulted_frame c o (o.mismatches wires)
    rw [frame]
  · intro broken hbroken
    have same : ∀ d od, broken d od ↔ s.breaks c o d od := hbroken
    simp only [same]
    have driven : ∀ d od, s.breaks c o d od →
        (s.faulted c o (o.mismatches wires)).chan d = .output (od.drivenTo .inactive s.now s.elapsed) := fun d od hd => by
      rw [State.faulted_chan_ne _ _ hd.1]
      exact (State.brokenFirst_chan hd.1).1 od hd
    refine ⟨fun d od hd => ⟨State.outputAt_of_chan (driven d od hd), fun agree q hq => ?_⟩, fun d ne none => ?_,
      fun q out untouched => ?_⟩
    · obtain ⟨drives, -⟩ := (State.pinsAgree_iff _).1
        (State.pinsAgree_faulted (State.chan_of_outputAt output) (o.mismatches wires) agree)
      rw [drives, driven d od hd]
      exact ⟨hq, rfl⟩
    · rw [State.faulted_chan_ne _ _ ne]
      exact (State.brokenFirst_chan ne).2 none
    · rw [State.faulted_pin, if_neg fun hq => out hq.1]
      exact State.brokenFirst_pin (State.chan_of_outputAt output) untouched

end Sys2Proof.Machine
end

section
/-!
The samples of an input: INPUT_SAMPLE (R29 to R32).
-/

namespace Sys2Proof.Machine

/-! ### The candidate of R30 and R31 -/

theorem QLevel.equals_iff (q : QLevel) (l : PinLevel) : q.equals l = true ↔ q = qualifiedAs l := by
  cases q <;> cases l <;> simp [QLevel.equals, qualifiedAs]

theorem Input.count_qualified {i : Input} {l : PinLevel} (h : i.level = qualifiedAs l) (now : Nat) :
    i.count l now = none := if_pos ((QLevel.equals_iff _ _).2 h)

/-- A sample at another level than the qualified one counts on from the candidate of that level, or begins one. -/
theorem Input.count_other {i : Input} {l : PinLevel} (h : i.level ≠ qualifiedAs l) {k first now : Nat}
    (candidate : i.candidate = some ⟨l, k, first⟩ ∨
      (∀ k' first', i.candidate ≠ some ⟨l, k', first'⟩) ∧ k = 0 ∧ first = now) :
    i.count l now = some ⟨l, k + 1, first⟩ := by
  rw [Input.count, if_neg (mt (QLevel.equals_iff _ _).1 h)]
  rcases candidate with e | ⟨other, rfl, rfl⟩
  · rw [e]
    exact if_pos rfl
  · split
    · rfl
    · rename_i x e
      refine if_neg fun same => other x.count x.first ?_
      rw [e, ← same]

/-! ### The hand-over of R57 -/

/-- The entries then waiting on channel `c`, by admission number. -/
def State.waitingOn (s : State) (c : Nat) : List Nat := (s.queue.filter (s.reevaluates c)).map Entry.adm

theorem State.not_withheld_eq (s : State) (e : Entry) :
    (!s.withheld e) = ((s.session e.owner).isOpen && decide (s.stop.run = .running)) := by
  unfold State.withheld State.stopped
  cases s.stop.run <;> cases (s.session e.owner).isOpen <;> rfl

theorem State.waitingOn_eq (s : State) (c : Nat) : s.waitingOn c =
    (s.queue.filter fun e => e.phase.isWaitingGuard && (e.act.grd.any fun g => g.channel == c) &&
      (s.session e.owner).isOpen && decide (s.stop.run = .running)).map Entry.adm := by
  refine congrArg (List.map Entry.adm) (congrArg (List.filter · s.queue) (funext fun e => ?_))
  rw [State.reevaluates, State.not_withheld_eq, ← Bool.and_assoc]

theorem State.handLevelChange_eq (s : State) (c : Nat) :
    s.handLevelChange c =
      { s with levelChanges := s.levelChanges ++ (if s.waitingOn c = [] then [] else [⟨c, s.waitingOn c⟩]) } := by
  show (if s.waitingOn c = [] then s else { s with levelChanges := s.levelChanges ++ [⟨c, s.waitingOn c⟩] }) = _
  split
  · rw [List.append_nil]
  · rfl

/-! ### One sample -/

section
variable {s : State} {c : Nat} {i : Input} {l : PinLevel}

theorem execInputSample_eq (input : s.inputAt c = some i) (l : PinLevel) :
    exec (.inputSample c l) s = if i.nextSample ≤ s.elapsed then .next (s.sampleInput c i l) else .next s := by
  simp only [exec, execInputSample, State.chan_of_inputAt input]

theorem State.sampleInput_qualified (h : i.count l s.now = none) :
    s.sampleInput c i l =
      s.setChan c (.input { i with candidate := none, nextSample := i.nextSample + i.interval }) := by
  simp only [State.sampleInput, h]

theorem State.sampleInput_counted {k : Candidate} (h : i.count l s.now = some k) (few : k.count < i.qualify) :
    s.sampleInput c i l =
      s.setChan c (.input { i with candidate := some k, nextSample := i.nextSample + i.interval }) := by
  simp only [State.sampleInput, h, if_pos few]

/-- The first level of an input that was UNKNOWN: no edge (R31). -/
theorem State.sampleInput_first {k : Candidate} (h : i.count l s.now = some k) (enough : i.qualify ≤ k.count)
    (unknown : i.level = .unknown) :
    s.sampleInput c i l =
      (s.setChan c (.input { i with
        level := qualifiedAs k.level, candidate := none, nextSample := i.nextSample + i.interval })).handLevelChange c := by
  simp only [State.sampleInput, h, if_neg (Nat.not_lt_of_le enough), if_pos unknown]

theorem State.sampleInput_edge {k : Candidate} (h : i.count l s.now = some k) (enough : i.qualify ≤ k.count)
    (known : i.level ≠ .unknown) :
    s.sampleInput c i l =
      (s.setChan c (.input { i with
        level := qualifiedAs k.level, candidate := none, lastEdge := some k.first
        nextSample := i.nextSample + i.interval })).handEdge c i.subscribers (decide (k.level = .high)) k.first := by
  simp only [State.sampleInput, h, if_neg (Nat.not_lt_of_le enough), if_neg known]

end

/-- Settles O42: the candidate of the sample decides the branch, and the entries handed over are those of `waitingOn`. -/
theorem inputSampleQualifies : Obligations.InputSampleQualifies := by
  intro s c i l q k first waiting input hq candidate hwaiting
  have qualified : q = qualifiedAs l := hq
  rw [← State.waitingOn_eq] at hwaiting
  subst qualified hwaiting
  rw [execInputSample_eq input]
  refine ⟨fun early => if_neg (Nat.not_le_of_lt early), fun due => ?_⟩
  rw [if_pos due]
  refine ⟨fun same => ?_, fun other few => ?_, fun other enough => ⟨fun unknown => ?_, fun known => ?_⟩⟩
  · rw [State.sampleInput_qualified (Input.count_qualified same _)]
  · rw [State.sampleInput_counted (Input.count_other other candidate) few]
  · rw [State.sampleInput_first (Input.count_other other candidate) enough unknown, State.handLevelChange_eq]
    rfl
  · rw [State.sampleInput_edge (Input.count_other other candidate) enough known, State.handEdge, State.handLevelChange_eq]
    rfl

end Sys2Proof.Machine
end

section
/-!
The layout of records in replies, and the room that a reply has (R15, R37, R74, R79, R88, R93, R117, R158, R165, R173,
R192).
-/

namespace Sys2Proof.Machine

/-! ### The bound of 248 bytes -/

theorem takeFitting_length_le (room : Nat) (rs : List (List Byte)) : (takeFitting room rs).flatten.length ≤ room := by
  obtain ⟨_, _, fits, _⟩ := takeFitting_fitsFirst room rs
  rwa [List.length_flatten]

theorem length_u8 (n : Nat) : (u8 n).length = 1 := rfl

theorem State.channelReply_length (s : State) (first count : Nat) : (s.channelReply first count).length + 1 ≤ 248 := by
  have fits := takeFitting_length_le 246 (((channelNumbers.drop first).take count).map fun c => channelRecord c (s.chan c))
  show (u8 _ ++ (takeFitting 246 _).flatten).length + 1 ≤ 248
  rw [List.length_append, length_u8]
  omega

theorem State.triggerReply_length (s : State) (first count : Nat) : (s.triggerReply first count).length + 1 ≤ 248 := by
  have fits := takeFitting_length_le 245
    (((s.triggerList.filter fun x => first ≤ x.1).take count).map fun x => triggerRecord x.1 x.2)
  show (u8 _ ++ u8 _ ++ (takeFitting 245 _).flatten).length + 1 ≤ 248
  rw [List.length_append, List.length_append, length_u8, length_u8]
  omega

theorem State.queueReply_length (s : State) (first count filter : Nat) :
    (s.queueReply first count filter).length + 1 ≤ 248 := by
  have fits := takeFitting_length_le 231 ((((s.filtered filter).drop first).take count).map entryRecord)
  rw [s.queueReply_eq first count filter _ rfl]
  simp only [List.length_append, leBytes_length]
  omega

theorem storeRecord_length_le (op : StoreOp) : (storeRecord op).length ≤ 6 := by
  cases op <;> exact Nat.le_of_ble_eq_true rfl

theorem buildRecord_length_le (b : Option Build) : (buildRecord b).length ≤ 8 := by
  cases b <;> exact Nat.le_of_ble_eq_true rfl

theorem State.planListReply_length (s : State) : s.planListReply.length + 1 ≤ 248 := by
  have store := storeRecord_length_le s.store
  have build := buildRecord_length_le s.build
  have fits := takeFitting_length_le
    (Config.maxBody - 1 - (storeRecord s.store ++ u8 (supplyCode s.supply) ++ buildRecord s.build).length)
    ((List.range 8).map fun k => slotRecord k (s.slot k))
  simp only [State.planListReply, List.length_append, length_u8, Config.maxBody] at fits ⊢
  omega

theorem State.interlockReply_length (s : State) : s.interlockReply.length + 1 ≤ 248 := by
  have records : ∀ l : List Nat,
      ((l.filterMap fun i => (s.interlock i).map (interlockRecord i)).flatten).length ≤ 6 * l.length := by
    intro l
    induction l with
    | nil => exact Nat.zero_le _
    | cons i l ih =>
      rw [List.filterMap_cons, List.length_cons]
      cases s.interlock i with
      | none => exact Nat.le_trans ih (by omega)
      | some r =>
        show (interlockRecord i r ++ _).length ≤ _
        rw [List.length_append, show (interlockRecord i r).length = 6 from rfl]
        omega
  have all := records (List.range 12)
  rw [List.length_range] at all
  show (u8 _ ++ _).length + 1 ≤ 248
  rw [List.length_append, length_u8]
  omega

/-! ### Fields -/

/-- Bit n - 1 of the byte stands for session n, whichever the five sessions are (R192). -/
theorem sessionBits (a b c d e : Bool) (x : Byte)
    (h : x = toByte ((if a then 1 else 0) + ((if b then 2 else 0) + ((if c then 4 else 0) + ((if d then 8 else 0) +
      ((if e then 16 else 0) + 0)))))) :
    x.toNat < 32 ∧ x.getLsbD 0 = a ∧ x.getLsbD 1 = b ∧ x.getLsbD 2 = c ∧ x.getLsbD 3 = d ∧ x.getLsbD 4 = e := by
  subst h
  revert a b c d e
  decide

theorem sessionSet_spec (ms : List Nat) : ∃ b : Byte, sessionSet ms = [b] ∧ b.toNat < 32 ∧
    ∀ n, 1 ≤ n → n ≤ 5 → b.getLsbD (n - 1) = ms.contains n := by
  obtain ⟨small, h1, h2, h3, h4, h5⟩ := sessionBits (ms.contains 1) (ms.contains 2) (ms.contains 3) (ms.contains 4)
    (ms.contains 5) _ rfl
  refine ⟨_, rfl, small, fun n low high => ?_⟩
  obtain rfl | rfl | rfl | rfl | rfl : n = 1 ∨ n = 2 ∨ n = 3 ∨ n = 4 ∨ n = 5 := by omega
  · exact h1
  · exact h2
  · exact h3
  · exact h4
  · exact h5

/-! ### Presence fields -/

/-- The number that a presence field spells, bit 0 for the first optional field (R192). -/
def presenceNumber (l : List (Option (List Byte))) : Nat :=
  (l.map fun o => if o.isSome then 1 else 0).foldr (fun b n => b + 2 * n) 0

theorem presence_eq (width : Nat) (l : List (Option (List Byte))) : presence width l = leBytes width (presenceNumber l) :=
  rfl

theorem presence_one (l : List (Option (List Byte))) : presence 1 l = [BitVec.ofNat 8 (presenceNumber l)] := rfl

theorem presenceNumber_nil : presenceNumber [] = 0 := rfl

theorem presenceNumber_cons (o : Option (List Byte)) (l : List (Option (List Byte))) :
    presenceNumber (o :: l) = presentBit o 1 + 2 * presenceNumber l := by
  simp only [presenceNumber, List.map_cons, List.foldr_cons, presentBit]

theorem presentBit_map {α β : Type} (g : α → β) (o : Option α) (v : Nat) :
    presentBit (o.map g) v = presentBit o v := by
  cases o <;> rfl

theorem presentBit_some {α : Type} (a : α) (v : Nat) : presentBit (some a) v = v := rfl

theorem presentBit_none {α : Type} (v : Nat) : presentBit (none : Option α) v = 0 := rfl

theorem presentBit_eq {α : Type} (o : Option α) (v : Nat) : presentBit o v = v * presentBit o 1 := by
  cases o <;> simp [presentBit]

/-! ### Records -/

theorem presenceNumber_output (o : Output) :
    presenceNumber (Channel.output o).optionals = 0xFE + presentBit o.owner 1 + presentBit o.release 256 +
      presentBit o.lastOff 512 + presentBit o.faultPins 1024 := by
  simp only [Channel.optionals, presenceNumber_cons, presenceNumber_nil, presentBit_map, presentBit_some, presentBit_none,
    presentBit_eq _ 256, presentBit_eq _ 512, presentBit_eq _ 1024]
  omega

theorem channelRecord_output (c : Nat) (o : Output) : channelRecord c (.output o) = lengthFirst (
    leBytes 3 (0xFE + presentBit o.owner 1 + presentBit o.release 256 + presentBit o.lastOff 512 +
      presentBit o.faultPins 1024) ++ [BitVec.ofNat 8 c, 1] ++ pinPlaces o.cfg.pins ++
    (o.owner.map u8).getD [] ++
    [BitVec.ofNat 8 o.cfg.polarity.code, BitVec.ofNat 8 o.cfg.drive.code, BitVec.ofNat 8 o.cfg.safe.code] ++
    leBytes 2 o.cfg.settle ++
    [BitVec.ofNat 8 o.level.code, BitVec.ofNat 8 o.condition.code, if o.held then 1 else 0] ++
    (o.release.map (leBytes 6)).getD [] ++ (o.lastOff.map (leBytes 6)).getD [] ++
    (o.faultPins.map pinPlaces).getD []) := by
  refine congrArg lengthFirst ?_
  rw [presence_eq, presenceNumber_output]
  simp only [Channel.head, Channel.optionals, List.map_cons, List.map_nil, List.flatten_cons, List.flatten_nil, optBytes,
    Option.getD_some, Option.getD_none, u8, u16, flag, toByte, List.append_assoc, List.cons_append, List.nil_append,
    List.append_nil]
  rfl

theorem presenceNumber_input (i : Input) :
    presenceNumber (Channel.input i).optionals = 276480 + presentBit i.owner 1 + presentBit i.candidate 114688 +
      presentBit i.lastEdge 131072 := by
  simp only [Channel.optionals, presenceNumber_cons, presenceNumber_nil, presentBit_map, presentBit_some, presentBit_none,
    presentBit_eq _ 114688, presentBit_eq _ 131072]
  omega

theorem channelRecord_input (c : Nat) (i : Input) : channelRecord c (.input i) = lengthFirst (
    leBytes 3 (276480 + presentBit i.owner 1 + presentBit i.candidate 114688 + presentBit i.lastEdge 131072) ++
    [BitVec.ofNat 8 c, 2, BitVec.ofNat 8 i.pin, 0xFF, 0xFF] ++ (i.owner.map u8).getD [] ++
    [BitVec.ofNat 8 i.interval, BitVec.ofNat 8 i.qualify, BitVec.ofNat 8 i.level.code] ++
    (i.candidate.map fun k => u8 (pinLevelCode k.level) ++ u8 k.count ++ leBytes 6 k.first).getD [] ++
    (i.lastEdge.map (leBytes 6)).getD [] ++ sessionSet i.subscribers) := by
  have candidate : (i.candidate.map fun k => u8 (pinLevelCode k.level) ++ u8 k.count ++ leBytes 6 k.first).getD [] =
      (i.candidate.map fun k => u8 (pinLevelCode k.level)).getD [] ++
        ((i.candidate.map fun k => u8 k.count).getD [] ++ (i.candidate.map fun k => u48 k.first).getD []) := by
    cases i.candidate <;> rfl
  refine congrArg lengthFirst ?_
  rw [presence_eq, presenceNumber_input, candidate]
  simp only [Channel.head, Channel.optionals, List.map_cons, List.map_nil, List.flatten_cons, List.flatten_nil, optBytes,
    Option.getD_some, Option.getD_none, u8, toByte, List.append_assoc, List.cons_append, List.nil_append, List.append_nil]
  rfl

theorem guardBytes_eq (g : Guard) : guardBytes g =
    [BitVec.ofNat 8 g.channel, BitVec.ofNat 8 (pinLevelCode g.level)] ++
      match g.mode with
      | .skip => [0, 0, 0, 0]
      | .wait k => 1 :: leBytes 3 k := by
  unfold guardBytes
  cases g.mode <;> rfl

theorem originBytes_eq (x : Origin) : originBytes x =
    match x with
    | .request => [0, 0, 0]
    | .load => [1, 0, 0]
    | .trigger k => 2 :: leBytes 2 k := by
  cases x <;> rfl

theorem entryRecord_eq (e : Entry) : entryRecord e = lengthFirst (
    [BitVec.ofNat 8 (presentBit e.act.kind.width? 1 + presentBit e.phase.due? 2 + presentBit e.phase.effective? 4 +
      presentBit e.phase.offset? 8 + presentBit e.act.rep 16 + presentBit e.act.grd 32)] ++ leBytes 2 e.handle ++
    [BitVec.ofNat 8 e.owner, if e.phase.isTemplate then 1 else 0, BitVec.ofNat 8 e.phase.state.code,
      BitVec.ofNat 8 e.act.target, BitVec.ofNat 8 e.act.kind.code] ++
    (e.act.kind.width?.map (leBytes 3)).getD [] ++ (e.phase.due?.map (leBytes 6)).getD [] ++
    (e.phase.effective?.map (leBytes 6)).getD [] ++ (e.phase.offset?.map (leBytes 4)).getD [] ++
    [BitVec.ofNat 8 e.act.tag] ++ (e.act.rep.map repetitionBytes).getD [] ++ (e.act.grd.map guardBytes).getD [] ++
    [if e.act.report then 1 else 0, if e.act.carry then 1 else 0] ++ originBytes e.origin ++ leBytes 2 e.skipped) := by
  have bits : presence 1 [e.act.kind.width?.map u24, e.phase.due?.map u48, e.phase.effective?.map u48,
      e.phase.offset?.map u32, e.act.rep.map repetitionBytes, e.act.grd.map guardBytes] =
      [BitVec.ofNat 8 (presentBit e.act.kind.width? 1 + presentBit e.phase.due? 2 + presentBit e.phase.effective? 4 +
        presentBit e.phase.offset? 8 + presentBit e.act.rep 16 + presentBit e.act.grd 32)] := by
    rw [presence_one]
    refine congrArg (fun n => [BitVec.ofNat 8 n]) ?_
    simp only [presenceNumber_cons, presenceNumber_nil, presentBit_map, presentBit_eq _ 2, presentBit_eq _ 4,
      presentBit_eq _ 8, presentBit_eq _ 16, presentBit_eq _ 32]
    omega
  refine congrArg lengthFirst ?_
  rw [bits]
  simp only [optBytes, u8, u16, flag, toByte, List.append_assoc, List.cons_append, List.nil_append]
  rfl

theorem triggerRecord_eq (t : Nat) (r : Trigger) : triggerRecord t r = lengthFirst (
    [BitVec.ofNat 8 (presentBit r.state.endsAt? 1 + presentBit r.lastFire 2), BitVec.ofNat 8 t,
      BitVec.ofNat 8 r.owner, BitVec.ofNat 8 r.spec.source, BitVec.ofNat 8 r.spec.edge.code,
      BitVec.ofNat 8 r.spec.tag, BitVec.ofNat 8 r.spec.mode.code] ++ leBytes 3 r.spec.holdoff ++
    [BitVec.ofNat 8 r.state.code] ++ (r.state.endsAt?.map (leBytes 6)).getD [] ++
    (r.lastFire.map (leBytes 6)).getD []) := by
  have bits : presence 1 [r.state.endsAt?.map u48, r.lastFire.map u48] =
      [BitVec.ofNat 8 (presentBit r.state.endsAt? 1 + presentBit r.lastFire 2)] := by
    rw [presence_one]
    refine congrArg (fun n => [BitVec.ofNat 8 n]) ?_
    simp only [presenceNumber_cons, presenceNumber_nil, presentBit_map, presentBit_eq _ 2]
    omega
  refine congrArg lengthFirst ?_
  rw [bits]
  simp only [optBytes, u8, toByte, List.append_assoc, List.cons_append, List.nil_append]
  rfl

theorem slotRecord_eq (k : Nat) (r : Slot) : slotRecord k r = lengthFirst (
    [BitVec.ofNat 8 (presentBit r.name 1 + presentBit r.check 2), BitVec.ofNat 8 k] ++
    leBytes 2 (if k < 3 then 4096 else 12288) ++ [BitVec.ofNat 8 r.state.code] ++
    (r.name.map fun x => BitVec.ofNat 8 x.length :: x).getD [] ++ [if r.autostart then 1 else 0] ++
    leBytes 4 r.generation ++ leBytes 2 r.size ++ (r.check.map fun x => leBytes 4 x.toNat).getD []) := by
  have bits : presence 1 [r.name.map fun n => toByte n.length :: n, r.check.map fun x => u32 x.toNat] =
      [BitVec.ofNat 8 (presentBit r.name 1 + presentBit r.check 2)] := by
    rw [presence_one]
    refine congrArg (fun n => [BitVec.ofNat 8 n]) ?_
    simp only [presenceNumber_cons, presenceNumber_nil, presentBit_map, presentBit_eq _ 2]
    omega
  refine congrArg lengthFirst ?_
  rw [bits]
  simp only [optBytes, u8, flag, toByte, List.append_assoc, List.cons_append, List.nil_append]
  rfl

theorem buildRecord_some (b : Build) : buildRecord (some b) = [7, 15, BitVec.ofNat 8 b.owner, BitVec.ofNat 8 b.slot] ++
    leBytes 2 b.records.length ++ leBytes 2 b.records.flatten.length := by
  rw [List.length_flatten]
  rfl

/-! ### What the statement calls present -/

theorem Output.faultPins_eq {o : Output} {pins : Option (List Nat)} (h : ∀ ps, o.condition = .faulted ps ↔ pins = some ps) :
    o.faultPins = pins := by
  refine Option.ext fun ps => ?_
  rw [← h ps, Output.faultPins]
  cases o.condition <;> simp

theorem TriggerState.endsAt?_eq {r : TriggerState} {ends : Option Nat} (h : ∀ k, r = .holdoff k ↔ ends = some k) :
    r.endsAt? = ends := by
  refine Option.ext fun k => ?_
  rw [← h k]
  cases r <;> simp [TriggerState.endsAt?]

theorem Phase.times_eq {x : Phase} {due effective offset : Option Nat}
    (h : (due, effective, offset) = (match x with
      | .waitingTime d => (some d, none, none)
      | .waitingGuard d t => (some d, some t, none)
      | .deferred d t => (some d, some t, none)
      | .template k => (none, none, some k))) :
    due = x.due? ∧ effective = x.effective? ∧ offset = x.offset? := by
  cases x <;> cases h <;> exact ⟨rfl, rfl, rfl⟩

/-- Settles O8: the lengths follow from what `takeFitting` keeps, and each record is the layout of its rule. -/
theorem recordRepliesFit : Obligations.RecordRepliesFit := by
  refine ⟨fun s first count filter => ⟨s.channelReply_length first count, s.triggerReply_length first count,
      s.queueReply_length first count filter, s.planListReply_length, s.interlockReply_length⟩,
    fun w n => ⟨rfl, rfl, rfl⟩, fun x y z => ⟨rfl, rfl, rfl⟩, sessionSet_spec,
    fun k ps => ⟨rfl, rfl, rfl, rfl, rfl, rfl, rfl, rfl, rfl, rfl, rfl, rfl, rfl, rfl⟩, fun tell told => ?_⟩
  obtain rfl : tell = lengthFirst := funext told
  refine ⟨fun c => rfl, fun c o pins faulted => ?_, channelRecord_input, fun e width due effective offset hwidth htimes => ?_,
    fun i r => rfl, fun i r ends holdoff => ?_, slotRecord_eq, fun k m => ⟨rfl, fun _ => rfl, fun _ => rfl, fun _ => rfl, rfl⟩,
    rfl, buildRecord_some⟩
  · rw [← Output.faultPins_eq faulted, channelRecord_output]
  · obtain ⟨rfl, rfl, rfl⟩ := Phase.times_eq htimes
    have kind : width = e.act.kind.width? := hwidth.trans (by cases e.act.kind <;> rfl)
    subst kind
    rw [entryRecord_eq, originBytes_eq, funext guardBytes_eq]
    rfl
  · rw [← TriggerState.endsAt?_eq holdoff, triggerRecord_eq]

end Sys2Proof.Machine
end

section
/-!
The action queue: the law of its order and limits, its requests, the firing sequence, the ends of occurrences, fire
requests, stop and resume, lapse and return.

Here one proof is elaborated after another. The memory that the check gives counts the stack of every thread, and proofs
that wait for one another would hold more of them than fit.
-/

set_option Elab.async false

section
/-!
The queue by itself: the search for an unused handle (R41), entries told apart by their admission numbers, and what each
writer of the queue keeps of its law (R40 to R42).
-/

namespace Sys2Proof.Machine

/-! ### Handles -/

/-- The handle `i` places after `h`, from 65535 round to 1 (R41). -/
theorem nextHandle_iterate {h : Nat} (low : 1 ≤ h) (high : h ≤ 65535) (i : Nat) :
    nextHandle^[i] h = (h - 1 + i) % 65535 + 1 := by
  induction i with
  | zero => simp only [Function.iterate_zero, id_eq]; omega
  | succ i ih =>
    rw [Function.iterate_succ_apply', ih, nextHandle]
    split <;> omega

theorem nextHandle_eq {h : Nat} (low : 1 ≤ h) (high : h ≤ 65535) : nextHandle h = h % 65535 + 1 := by
  unfold nextHandle
  split <;> omega

/-- The search passes over handles in use, and stops at the first that is not, or when its tries are used up. -/
theorem freeHandle_spec (used : List Nat) (fuel h : Nat) :
    ∃ j, j ≤ fuel ∧ freeHandle used fuel h = nextHandle^[j] h ∧ (∀ i, i < j → nextHandle^[i] h ∈ used) ∧
      (j < fuel → nextHandle^[j] h ∉ used) := by
  induction fuel generalizing h with
  | zero => exact ⟨0, Nat.le_refl 0, rfl, fun i hi => absurd hi (Nat.not_lt_zero i), fun k => absurd k (Nat.not_lt_zero 0)⟩
  | succ fuel ih =>
    unfold freeHandle
    by_cases taken : h ∈ used
    · obtain ⟨j, hj, eq, passed, free⟩ := ih (nextHandle h)
      rw [if_pos (by simpa using taken)]
      refine ⟨j + 1, Nat.succ_le_succ hj, eq, fun i hi => ?_, fun k => free (Nat.lt_of_succ_lt_succ k)⟩
      cases i with
      | zero => exact taken
      | succ i => exact passed i (Nat.lt_of_succ_lt_succ hi)
    · rw [if_neg (by simpa using taken)]
      exact ⟨0, Nat.zero_le _, rfl, fun i hi => absurd hi (Nat.not_lt_zero i), fun _ => taken⟩

/-- With more tries than handles in use, the search finds the first that is not in use (R41). -/
theorem freeHandle_firstFree {used : List Nat} {fuel h : Nat} (low : 1 ≤ h) (high : h ≤ 65535)
    (enough : used.length < fuel) (wraps : fuel ≤ 65535) : firstFree used h (freeHandle used fuel h) := by
  obtain ⟨j, hj, eq, passed, free⟩ := freeHandle_spec used fuel h
  simp only [nextHandle_iterate low high] at eq passed free
  refine ⟨j, eq, ?_, passed⟩
  rw [eq]
  refine free (Nat.lt_of_le_of_ne hj fun full => ?_)
  have distinct : ((List.range fuel).map fun i => (h - 1 + i) % 65535 + 1).Nodup := by
    refine List.Nodup.map_on (fun a ha b hb same => ?_) List.nodup_range
    simp only [List.mem_range] at ha hb
    omega
  have inUse : ((List.range fuel).map fun i => (h - 1 + i) % 65535 + 1) ⊆ used := by
    intro x hx
    obtain ⟨i, hi, rfl⟩ := List.mem_map.1 hx
    exact passed i (full ▸ List.mem_range.1 hi)
  have := (List.subperm_of_subset distinct inUse).length_le
  simp only [List.length_map, List.length_range] at this
  omega

theorem firstFree.range {used : List Nat} {h k : Nat} (f : firstFree used h k) : 1 ≤ k ∧ k ≤ 65535 := by
  obtain ⟨j, rfl, -⟩ := f
  omega

theorem firstFree.not_mem {used : List Nat} {h k : Nat} (f : firstFree used h k) : k ∉ used := by
  obtain ⟨_, _, free, -⟩ := f
  exact free

/-! ### The law read off -/

/-- Two entries of the queue with one admission number are one entry. -/
theorem State.queueLawful.eq_of_adm {s : State} (h : s.queueLawful) {x y : Entry} (hx : x ∈ s.queue) (hy : y ∈ s.queue)
    (same : x.adm = y.adm) : x = y :=
  List.inj_on_of_nodup_map h.2.1 hx hy same

theorem State.queueLawful.eq_of_handle {s : State} (h : s.queueLawful) {x y : Entry} (hx : x ∈ s.queue)
    (hy : y ∈ s.queue) (same : x.handle = y.handle) : x = y :=
  List.inj_on_of_nodup_map h.2.2.2.1 hx hy same

theorem State.queueLawful.adm_lt {s : State} (h : s.queueLawful) {x : Entry} (hx : x ∈ s.queue) :
    x.adm < s.nextAdmission := h.2.2.1 x hx

theorem State.queueLawful.ordered {s : State} (h : s.queueLawful) :
    s.queue.Pairwise fun a b => a.before b = true := h.1

/-- The handle that an admission gives is the first unused one (R41). -/
theorem State.queueLawful.newHandle {s : State} (h : s.queueLawful) :
    firstFree (s.queue.map Entry.handle) s.handleCounter s.newHandle := by
  obtain ⟨-, -, -, -, -, low, high, pool, -⟩ := h
  exact freeHandle_firstFree low high (by simpa using Nat.lt_succ_of_le pool) (by decide)

/-- The entry of that admission number is found. -/
theorem State.queueLawful.entry?_eq {s : State} (h : s.queueLawful) {e : Entry} (he : e ∈ s.queue) :
    s.entry? e.adm = some e := by
  unfold State.entry?
  cases found : s.queue.find? fun x => x.adm == e.adm with
  | none => exact absurd (List.find?_eq_none.1 found e he) (by simp)
  | some x =>
    have same : x.adm = e.adm := by simpa using List.find?_some found
    rw [h.eq_of_adm (List.mem_of_find?_eq_some found) he same]

/-! ### Writers of the queue -/

/-- Entries are taken out of the queue. -/
theorem State.queueLawful_of_sublist {s t : State} (h : s.queueLawful) (sub : t.queue.Sublist s.queue)
    (hc : t.handleCounter = s.handleCounter := by rfl) (hn : t.nextAdmission = s.nextAdmission := by rfl) :
    t.queueLawful := by
  obtain ⟨ordered, adms, given, handles, range, low, high, pool, quota⟩ := h
  refine ⟨ordered.sublist sub, adms.sublist (sub.map _), fun e he => hn ▸ given e (sub.subset he),
    handles.sublist (sub.map _), fun e he => range e (sub.subset he), hc ▸ low, hc ▸ high,
    Nat.le_trans sub.length_le pool, fun n => Nat.le_trans ?_ (quota n)⟩
  exact (sub.filter _).length_le

/-- An entry is put among some of the queue's entries, with its own admission number and handle, where pool and quota
have room for it. -/
theorem State.queueLawful_of_insert {s t : State} {e : Entry} {q : List Entry} (h : s.queueLawful)
    (sub : q.Sublist s.queue) (hq : t.queue = insertEntry e q) (adm : ∀ x ∈ q, x.adm ≠ e.adm)
    (handle : ∀ x ∈ q, x.handle ≠ e.handle) (given : e.adm < t.nextAdmission) (later : s.nextAdmission ≤ t.nextAdmission)
    (range : 1 ≤ e.handle ∧ e.handle ≤ 65535) (counter : 1 ≤ t.handleCounter ∧ t.handleCounter ≤ 65535)
    (room : q.length < Config.queueCapacity) (mine : (q.filter fun x => x.owner == e.owner).length < Config.quota) :
    t.queueLawful := by
  have perm : t.queue.Perm (e :: q) := hq ▸ insertEntry_perm e q
  obtain ⟨ordered, adms, before, handles, ranges, -, -, -, quota⟩ := h
  refine ⟨?_, ?_, fun x hx => ?_, ?_, fun x hx => ?_, counter.1, counter.2, ?_, fun n => ?_⟩
  · rw [hq]
    exact insertEntry_pairwise e q (ordered.sublist sub) adm
  · rw [(perm.map _).nodup_iff, List.map_cons, List.nodup_cons]
    refine ⟨fun k => ?_, adms.sublist (sub.map _)⟩
    obtain ⟨x, hx, same⟩ := List.mem_map.1 k
    exact adm x hx same
  · rcases List.mem_cons.1 (perm.mem_iff.1 hx) with rfl | hx
    · exact given
    · exact Nat.lt_of_lt_of_le (before x (sub.subset hx)) later
  · rw [(perm.map _).nodup_iff, List.map_cons, List.nodup_cons]
    refine ⟨fun k => ?_, handles.sublist (sub.map _)⟩
    obtain ⟨x, hx, same⟩ := List.mem_map.1 k
    exact handle x hx same
  · rcases List.mem_cons.1 (perm.mem_iff.1 hx) with rfl | hx
    · exact range
    · exact ranges x (sub.subset hx)
  · rw [perm.length_eq]
    exact room
  · rw [State.entriesOwned, (perm.filter _).length_eq, List.filter_cons]
    split
    · rename_i own
      rw [← beq_iff_eq.1 own]
      exact mine
    · exact Nat.le_trans ((sub.filter _).length_le) (quota n)

/-- Each entry is rewritten, with its admission number and handle, and no session gets above its quota. -/
theorem State.queueLawful_of_map {s t : State} {g : Entry → Entry} (h : s.queueLawful)
    (perm : t.queue.Perm (s.queue.map g)) (adm : ∀ e, (g e).adm = e.adm) (handle : ∀ e, (g e).handle = e.handle)
    (ordered : t.queue.Pairwise fun a b => a.before b = true) (quota : ∀ n, t.entriesOwned n ≤ Config.quota)
    (hc : t.handleCounter = s.handleCounter := by rfl) (hn : t.nextAdmission = s.nextAdmission := by rfl) :
    t.queueLawful := by
  obtain ⟨-, adms, given, handles, range, low, high, pool, -⟩ := h
  have sameAdm : (s.queue.map g).map Entry.adm = s.queue.map Entry.adm := by
    rw [List.map_map]
    exact List.map_congr_left fun e _ => adm e
  have sameHandle : (s.queue.map g).map Entry.handle = s.queue.map Entry.handle := by
    rw [List.map_map]
    exact List.map_congr_left fun e _ => handle e
  have from_old : ∀ e ∈ t.queue, ∃ x ∈ s.queue, e.adm = x.adm ∧ e.handle = x.handle := by
    intro e he
    obtain ⟨x, hx, rfl⟩ := List.mem_map.1 (perm.mem_iff.1 he)
    exact ⟨x, hx, adm x, handle x⟩
  refine ⟨ordered, ?_, fun e he => ?_, ?_, fun e he => ?_, hc ▸ low, hc ▸ high, ?_, quota⟩
  · rw [(perm.map _).nodup_iff, sameAdm]
    exact adms
  · obtain ⟨x, hx, ea, -⟩ := from_old e he
    rw [ea, hn]
    exact given x hx
  · rw [(perm.map _).nodup_iff, sameHandle]
    exact handles
  · obtain ⟨x, hx, -, eh⟩ := from_old e he
    rw [eh]
    exact range x hx
  · rw [perm.length_eq, List.length_map]
    exact pool

theorem sortEntries_pairwise (q : List Entry) (adms : (q.map Entry.adm).Nodup) :
    (sortEntries q).Pairwise fun a b => a.before b = true := by
  induction q with
  | nil => exact List.Pairwise.nil
  | cons e q ih =>
    rw [List.map_cons, List.nodup_cons] at adms
    refine insertEntry_pairwise e _ (ih adms.2) fun x hx same => adms.1 ?_
    exact List.mem_map.2 ⟨x, (sortEntries_perm q).mem_iff.1 hx, same⟩

/-- The queue holds the entry that `e` is written over: one with its admission number, handle and owner. -/
def State.hasEntry (s : State) (e : Entry) : Prop :=
  ∃ x ∈ s.queue, x.adm = e.adm ∧ x.handle = e.handle ∧ x.owner = e.owner

theorem State.hasEntry_of_mem {s : State} {e : Entry} (h : e ∈ s.queue) : s.hasEntry e := ⟨e, h, rfl, rfl, rfl⟩

/-- One entry is taken out: its handle is gone with it, and pool and quota have room for it again. -/
theorem State.hasEntry.removed {s : State} {e : Entry} (h : s.hasEntry e) (law : s.queueLawful) :
    (∀ x ∈ (s.removeEntry e.adm).queue, x.handle ≠ e.handle) ∧ (1 ≤ e.handle ∧ e.handle ≤ 65535) ∧
      (s.removeEntry e.adm).queue.length < Config.queueCapacity ∧
      ((s.removeEntry e.adm).queue.filter fun x => x.owner == e.owner).length < Config.quota := by
  obtain ⟨y, hy, adm, handle, owner⟩ := h
  have gone : ¬(y.adm != e.adm) = true := by simp [adm]
  refine ⟨fun x hx same => ?_, handle ▸ law.2.2.2.2.1 y hy, ?_, ?_⟩
  · obtain ⟨hx, ne⟩ := (s.mem_removeEntry e.adm x).1 hx
    exact ne (law.eq_of_handle hx hy (same.trans handle.symm) ▸ adm)
  · exact Nat.lt_of_lt_of_le (List.length_filter_lt_length_iff_exists.2 ⟨y, hy, gone⟩) law.2.2.2.2.2.2.2.1
  · refine Nat.lt_of_lt_of_le ?_ (law.2.2.2.2.2.2.2.2 e.owner)
    rw [State.removeEntry, List.filter_comm]
    exact List.length_filter_lt_length_iff_exists.2 ⟨y, List.mem_filter.2 ⟨hy, by simp [owner]⟩, gone⟩

theorem State.removeEntry_sublist (s : State) (adm : Nat) : (s.removeEntry adm).queue.Sublist s.queue :=
  List.filter_sublist

/-- An entry that the queue holds is put anew into its place in queue order, at the same admission number (R40). -/
theorem State.queueLawful_rephase {s : State} {e : Entry} (h : s.hasEntry e) (ph : Phase) (law : s.queueLawful) :
    (s.rephase e ph).queueLawful := by
  obtain ⟨handle, range, room, mine⟩ := h.removed law
  obtain ⟨y, hy, adm, -⟩ := h
  exact State.queueLawful_of_insert (e := { e with phase := ph }) law (s.removeEntry_sublist e.adm) rfl
    (fun x hx => ((s.mem_removeEntry e.adm x).1 hx).2) handle (adm ▸ law.adm_lt hy) (Nat.le_refl _) range
    ⟨law.2.2.2.2.2.1, law.2.2.2.2.2.2.1⟩ room mine

/-- An entry that the queue holds is put anew into its place in queue order, at a new admission number (R67, R96). -/
theorem State.queueLawful_requeue {s : State} {e : Entry} (h : s.hasEntry e) (law : s.queueLawful) :
    (s.requeue e).queueLawful := by
  obtain ⟨handle, range, room, mine⟩ := h.removed law
  exact State.queueLawful_of_insert (e := { e with adm := s.nextAdmission }) law (s.removeEntry_sublist e.adm) rfl
    (fun x hx => Nat.ne_of_lt (law.adm_lt ((s.removeEntry_sublist e.adm).subset hx))) handle (Nat.lt_succ_self _)
    (Nat.le_succ _) range ⟨law.2.2.2.2.2.1, law.2.2.2.2.2.2.1⟩ room mine

/-- An entry is admitted where pool and quota have room (R41, R42). -/
theorem State.queueLawful_admitEntry {s : State} {n : Nat} (room : s.poolHasRoom = true) (mine : s.quotaHasRoom n = true)
    (ph : Phase) (a : Action) (origin : Origin) (law : s.queueLawful) : (s.admitEntry n ph a origin).queueLawful := by
  have new := law.newHandle
  have next := nextHandle_eq new.range.1 new.range.2
  refine State.queueLawful_of_insert (e := s.newEntry n ph a origin) law (List.Sublist.refl _) rfl
    (fun x hx => Nat.ne_of_lt (law.adm_lt hx)) (fun x hx same => ?_) (Nat.lt_succ_self _) (Nat.le_succ _) new.range ?_
    (of_decide_eq_true room) (of_decide_eq_true mine)
  · exact new.not_mem (List.mem_map.2 ⟨x, hx, same⟩)
  · show 1 ≤ nextHandle s.newHandle ∧ nextHandle s.newHandle ≤ 65535
    omega

end Sys2Proof.Machine
end

section
/-!
Occurrences, the overdue disposition, sessions, stop entries and loads keep the law of the queue (R40 to R42).
-/

namespace Sys2Proof.Machine

/-! ### Work that keeps the law -/

/-- From `s` to `t` the law of the queue is not lost. -/
def State.keepsQueue (s t : State) : Prop := s.queueLawful → t.queueLawful

@[refl] theorem State.keepsQueue.refl (s : State) : s.keepsQueue s := id

@[trans] theorem State.keepsQueue.trans {s t u : State} (h : s.keepsQueue t) (k : t.keepsQueue u) : s.keepsQueue u := k ∘ h

/-- Work that leaves the queue, the handle counter and the admission number as they are. -/
theorem State.keepsQueue.of_same {s t : State} (hq : t.queue = s.queue := by rfl)
    (hc : t.handleCounter = s.handleCounter := by rfl) (hn : t.nextAdmission = s.nextAdmission := by rfl) :
    s.keepsQueue t := fun law => State.queueLawful_of_sublist law (hq ▸ List.Sublist.refl _) hc hn

theorem State.keepsQueue.of_frame {s t : State} (h : ∃ ch ps, t = { s with channels := ch, pins := ps }) :
    s.keepsQueue t := by
  obtain ⟨ch, ps, rfl⟩ := h
  exact .of_same

theorem State.keepsQueue.foldl {α : Type} {f : State → α → State} (hf : ∀ (s : State) a, s.keepsQueue (f s a)) (l : List α)
    (s : State) : s.keepsQueue (l.foldl f s) := by
  induction l generalizing s with
  | nil => exact .refl s
  | cons a l ih => exact (hf s a).trans (ih (f s a))

theorem State.keepsQueue_addReport (s : State) (n time : Nat) (body : ReportBody) :
    s.keepsQueue (s.addReport n time body) := .of_same (by simp) (by simp) (by simp)

theorem State.keepsQueue_reportTo (s : State) (n : Option Nat) (body : ReportBody) :
    s.keepsQueue (s.reportTo n body) := by
  cases n with
  | none => exact .refl s
  | some m => exact s.keepsQueue_addReport m s.now body

theorem State.keepsQueue_reportStop (s : State) (change : StopChange) (byLine : Bool) (n : Nat) (first : Option Nat) :
    s.keepsQueue (s.reportStop change byLine n first) :=
  .foldl (fun t m => t.keepsQueue_addReport m _ _) _ s

theorem State.keepsQueue_setSession (s : State) (n : Nat) (r : Session) : s.keepsQueue (s.setSession n r) :=
  .of_same (by simp) (by simp) (by simp)

theorem State.keepsQueue_setReportQueue (s : State) (n : Nat) (q : ReportQueue) : s.keepsQueue (s.setReportQueue n q) :=
  .of_same (by simp) (by simp) (by simp)

theorem State.keepsQueue_setLink (s : State) (p : Port) (l : Link) : s.keepsQueue (s.setLink p l) :=
  .of_same (by simp) (by simp) (by simp)

theorem State.keepsQueue_removeEntry (s : State) (adm : Nat) : s.keepsQueue (s.removeEntry adm) :=
  fun law => State.queueLawful_of_sublist law (s.removeEntry_sublist adm)

theorem State.keepsQueue_filter (s : State) (f : Entry → Bool) : s.keepsQueue { s with queue := s.queue.filter f } :=
  fun law => State.queueLawful_of_sublist law List.filter_sublist

/-! ### Occurrences, verdicts and the overdue disposition -/

theorem State.hasEntry_addReport {s : State} {e : Entry} (h : s.hasEntry e) (n time : Nat) (body : ReportBody) :
    (s.addReport n time body).hasEntry e := by
  unfold State.hasEntry
  rw [State.addReport_queue]
  exact h

theorem State.keepsQueue_repeatStep {s : State} {e : Entry} (h : s.hasEntry e) : s.keepsQueue (s.repeatStep e) := by
  unfold State.repeatStep
  split
  · exact s.keepsQueue_removeEntry e.adm
  · split
    · exact State.queueLawful_requeue h
    · exact (s.keepsQueue_removeEntry e.adm).trans (State.keepsQueue_addReport _ _ _ _)

theorem State.keepsQueue_failOccurrence {s : State} {e : Entry} (h : s.hasEntry e) (reason : FailReason) (time : Nat) :
    s.keepsQueue (s.failOccurrence e reason time) :=
  (s.keepsQueue_addReport _ _ _).trans
    (State.keepsQueue_repeatStep (e := { e with skipped := 0 }) (State.hasEntry_addReport h _ _ _))

theorem State.keepsQueue_succeed {s : State} {e : Entry} (h : s.hasEntry e) (time : Nat) :
    s.keepsQueue (s.succeed e time) := by
  unfold State.succeed
  split
  · exact (s.keepsQueue_addReport _ _ _).trans
      (State.keepsQueue_repeatStep (e := { e with skipped := 0 }) (State.hasEntry_addReport h _ _ _))
  · exact State.keepsQueue_repeatStep h

theorem State.keepsQueue_deferral {s : State} {e : Entry} (h : s.hasEntry e) (broken : Option Nat) (ph : Phase) :
    s.keepsQueue ((s.breakFor broken).rephase e ph) := by
  cases broken with
  | none => exact State.queueLawful_rephase h ph
  | some y =>
    refine (State.keepsQueue.of_frame (s.breakPartner_frame y)).trans (State.queueLawful_rephase ?_ ph)
    rw [State.hasEntry, State.breakPartner_queue]
    exact h

theorem State.keepsQueue_applyVerdict {s : State} {e : Entry} (h : s.hasEntry e) (v : Verdict) :
    s.keepsQueue (s.applyVerdict e v) := by
  cases v with
  | fail reason => exact State.keepsQueue_failOccurrence h reason s.now
  | waitGuard k => exact State.queueLawful_rephase h _
  | defer k broken => exact State.keepsQueue_deferral h broken _
  | drive l release => exact .of_same

theorem State.hasEntry_of_found {s : State} {adm : Nat} {e : Entry} (h : s.entry? adm = some e) : s.hasEntry e :=
  State.hasEntry_of_mem (State.mem_entry? h)

theorem State.keepsQueue_settleDrive (s : State) (f : InFlight) : s.keepsQueue (s.settleDrive f) := by
  unfold State.settleDrive
  split
  · have driven := State.keepsQueue.of_frame (s.driveAction_frame f)
    obtain ⟨ch, ps, frame⟩ := s.driveAction_frame f
    dsimp only
    split
    · rename_i e found
      refine driven.trans (State.keepsQueue_succeed ?_ _)
      rw [State.hasEntry, frame]
      exact State.hasEntry_of_found found
    · exact driven
  · exact .refl s
  all_goals
    split
    · rename_i e found
      exact State.keepsQueue_failOccurrence (State.hasEntry_of_found found) _ _
    · exact .refl s

theorem State.keepsQueue_applyVerdictNow {s : State} {e : Entry} (h : s.hasEntry e) (v : Verdict) :
    s.keepsQueue (s.applyVerdictNow e v) := by
  cases v with
  | fail reason => exact State.keepsQueue_failOccurrence h reason s.now
  | waitGuard k => exact State.queueLawful_rephase h _
  | defer k broken => exact State.keepsQueue_deferral h broken _
  | drive l release => exact s.keepsQueue_settleDrive _

theorem State.keepsQueue_expire {s : State} {e : Entry} (h : s.hasEntry e) : s.keepsQueue (s.expire e) := by
  unfold State.expire
  dsimp only
  split
  · exact (s.keepsQueue_removeEntry _).trans (State.keepsQueue_addReport _ _ _ _)
  · split
    · refine .trans (State.queueLawful_requeue ?_) (State.keepsQueue_addReport _ _ _ _)
      exact h
    · exact (s.keepsQueue_removeEntry _).trans (State.keepsQueue_addReport _ _ _ _)

theorem State.keepsQueue_disposeEntry {s : State} {e : Entry} (h : s.hasEntry e) : s.keepsQueue (s.disposeEntry e) := by
  have overdue : ∀ key, s.keepsQueue
      (if key < s.now then if e.act.carry then s.applyVerdictNow e (s.judge e) else s.expire e else s) := by
    intro key
    split
    · split
      · exact State.keepsQueue_applyVerdictNow h _
      · exact State.keepsQueue_expire h
    · exact .refl s
  unfold State.disposeEntry
  split
  · split
    · exact State.keepsQueue_failOccurrence h _ _
    · split
      · split
        · exact State.keepsQueue_applyVerdictNow h _
        · exact .refl s
      · exact .refl s
  · exact .refl s
  · exact overdue _
  · exact overdue _

theorem State.keepsQueue_visitOverdue (s : State) (adm : Nat) : s.keepsQueue (s.visitOverdue adm) := by
  unfold State.visitOverdue
  split
  · exact .refl s
  · rename_i e found
    have queued := State.hasEntry_of_found found
    split
    · split
      · exact .refl s
      · exact State.keepsQueue_disposeEntry queued
    · exact State.keepsQueue_disposeEntry queued

theorem State.keepsQueue_dispose (s : State) (owners : Nat → Bool) : s.keepsQueue (s.dispose owners) :=
  .foldl State.keepsQueue_visitOverdue _ s

theorem State.keepsQueue_reevaluate {s : State} {e : Entry} (h : s.hasEntry e) : s.keepsQueue (s.reevaluate e) := by
  unfold State.reevaluate
  split
  · exact .refl s
  · split
    · exact State.keepsQueue_applyVerdict h _
    · exact .refl s

/-! ### Fire requests -/

/-- The templates of a fire request are converted one after another: those still to come stay in the queue, for each has
an admission number of its own (R96). -/
theorem State.keepsQueue_convertTemplates (k : Nat) (l : List Entry) (adms : (l.map Entry.adm).Nodup) (s : State)
    (queued : ∀ e ∈ l, e ∈ s.queue) : s.keepsQueue (l.foldl (State.convertTemplate k) s) := by
  induction l generalizing s with
  | nil => exact .refl s
  | cons e l ih =>
    rw [List.map_cons, List.nodup_cons] at adms
    have here : s.hasEntry { e with phase := .waitingTime (e.dueFrom k) } :=
      ⟨e, queued e (List.mem_cons_self ..), rfl, rfl, rfl⟩
    refine .trans (State.queueLawful_requeue here) (ih adms.2 _ fun x hx => ?_)
    refine (s.mem_requeue _ x).2 (.inr ⟨queued x (List.mem_cons_of_mem _ hx), fun same => adms.1 ?_⟩)
    exact List.mem_map.2 ⟨x, hx, same⟩

theorem State.keepsQueue_copyTemplate (k : Nat) (s : State) (e : Entry) : s.keepsQueue (s.copyTemplate k e) := by
  unfold State.copyTemplate
  split
  · rename_i room
    obtain ⟨pool, mine⟩ := Bool.and_eq_true_iff.1 room
    exact State.queueLawful_admitEntry pool mine _ _ _
  · exact s.keepsQueue_addReport _ _ _

theorem State.keepsQueue_takeFireRequest (s : State) (f : FireReq) : s.keepsQueue (s.takeFireRequest f) := by
  unfold State.takeFireRequest
  dsimp only
  split
  · intro law
    have adms : ((s.templatesFor f).map Entry.adm).Nodup := law.2.1.sublist (List.filter_sublist.map _)
    exact (State.keepsQueue_convertTemplates f.t _ adms s fun _ he => List.mem_of_mem_filter he).trans
      (State.keepsQueue_addReport _ _ _ _) law
  · exact .trans (.foldl (State.keepsQueue_copyTemplate f.t) _ s) (State.keepsQueue_addReport _ _ _ _)

/-! ### Sessions -/

theorem State.keepsQueue_setHeld (s : State) (c : Nat) (held : Bool) : s.keepsQueue (s.setHeld c held) := by
  obtain ⟨ch, frame⟩ := s.setHeld_frame c held
  rw [frame]
  exact .of_same

theorem State.keepsQueue_foldl_setHeld (l : List Nat) (held : Bool) (s : State) :
    s.keepsQueue (l.foldl (fun t c => t.setHeld c held) s) := .foldl (fun t c => t.keepsQueue_setHeld c held) l s

theorem State.keepsQueue_returnSession (s : State) (n : Nat) (h : HostSession) : s.keepsQueue (s.returnSession n h) := by
  unfold State.returnSession
  extract_lets held s1 s2 s3
  have opened : s.keepsQueue s1 := s.keepsQueue_setSession n _
  have released : s1.keepsQueue s2 := s1.keepsQueue_foldl_setHeld held false
  have noticed : s.keepsQueue s3 := (opened.trans released).trans (s2.keepsQueue_addReport _ _ _)
  split
  · exact noticed
  · exact noticed.trans (s3.keepsQueue_dispose _)

theorem State.keepsQueue_arrive (s : State) (n : Nat) (h : HostSession) : s.keepsQueue (s.arrive n h) := by
  unfold State.arrive
  split
  · exact s.keepsQueue_setSession n _
  · exact s.keepsQueue_returnSession n h

theorem State.keepsQueue_noteReply (s : State) (n seq : Nat) (r : Frame) (cached : Bool) :
    s.keepsQueue (s.noteReply n seq r cached) := by
  unfold State.noteReply
  split
  · exact s.keepsQueue_setSession n _
  · exact .refl s

theorem State.keepsQueue_foldl_driveSafe (l : List Nat) (s : State) : s.keepsQueue (l.foldl State.driveSafe s) :=
  .of_frame (State.foldl_driveSafe_frame l s)

theorem State.keepsQueue_teardown (s : State) (n : Nat) : s.keepsQueue (s.teardown n) := by
  unfold State.teardown
  extract_lets s1 s2 s3
  have removed : s.keepsQueue s1 := s.keepsQueue_filter fun e => e.owner != n
  have driven : s1.keepsQueue s2 := State.keepsQueue_foldl_driveSafe _ s1
  have disowned : s2.keepsQueue s3 := .of_same
  exact (((removed.trans driven).trans disowned).trans (s3.keepsQueue_setReportQueue n _)).trans
    (State.keepsQueue_setSession _ n _)

theorem State.keepsQueue_lapse (s : State) (n : Nat) (h : HostSession) : s.keepsQueue (s.lapse n h) := by
  unfold State.lapse
  extract_lets s1 owned
  have lapsed : s.keepsQueue s1 := (s.keepsQueue_setSession n _).trans .of_same
  exact (lapsed.trans (State.keepsQueue_foldl_driveSafe owned s1)).trans (State.keepsQueue_foldl_setHeld owned true _)

theorem State.keepsQueue_cancelClaimed (s : State) (e : Entry) : s.keepsQueue (s.cancelClaimed e) :=
  (s.keepsQueue_removeEntry e.adm).trans (State.keepsQueue_addReport _ _ _ _)

theorem State.keepsQueue_forceClaim (s : State) (c m n : Nat) : s.keepsQueue (s.forceClaim c m n) := by
  unfold State.forceClaim
  extract_lets gone s1 s2
  have cancelled : s.keepsQueue s1 := .foldl State.keepsQueue_cancelClaimed gone s
  have claimed : s1.keepsQueue s2 := .of_same
  exact (cancelled.trans claimed).trans (s2.keepsQueue_addReport _ _ _)

/-- After a TAKEOVER the requester owns its own entries and LOCAL's, and no other session more than before (R141). -/
theorem State.entriesOwned_takeOver (s : State) (n m : Nat) :
    (s.takeOver n).entriesOwned m ≤ if m = n then s.entriesOwned n + s.entriesOwned 5 else s.entriesOwned m := by
  have queue : (s.takeOver n).queue = s.queue.map fun e => { e with owner := movedTo n e.owner } := by
    simp only [State.takeOver, State.setSession_queue, State.setReportQueue_queue]
  simp only [State.entriesOwned, queue, ← List.countP_eq_length_filter, List.countP_map]
  split
  · rename_i same
    subst same
    induction s.queue with
    | nil => exact Nat.zero_le _
    | cons e q ih =>
      have one : (if movedTo m e.owner = m then 1 else 0) ≤
          (if e.owner = m then 1 else 0) + if e.owner = 5 then 1 else 0 := by
        unfold movedTo
        split_ifs <;> omega
      simp only [List.countP_cons, Function.comp_apply, beq_iff_eq]
      omega
  · rename_i other
    refine List.countP_mono_left fun e _ own => ?_
    simp only [Function.comp_apply, beq_iff_eq, movedTo] at own ⊢
    split at own
    · exact absurd own.symm other
    · exact own

theorem State.keepsQueue_takeOver {s : State} {n : Nat} (room : s.entriesOwned n + s.entriesOwned 5 ≤ Config.quota) :
    s.keepsQueue (s.takeOver n) := by
  intro law
  have queue : (s.takeOver n).queue = s.queue.map fun e => { e with owner := movedTo n e.owner } := by
    simp only [State.takeOver, State.setSession_queue, State.setReportQueue_queue]
  refine State.queueLawful_of_map law (g := fun e => { e with owner := movedTo n e.owner }) (queue ▸ List.Perm.refl _)
    (fun _ => rfl) (fun _ => rfl) ?_ (fun m => Nat.le_trans (s.entriesOwned_takeOver n m) ?_)
    (by simp [State.takeOver]) (by simp [State.takeOver])
  · rw [queue, List.pairwise_map]
    exact law.ordered
  · split
    · exact room
    · exact law.2.2.2.2.2.2.2.2 m

/-- TIME_SET moves effective times, and the entries take their new places in queue order (R6, R40). -/
theorem State.keepsQueue_setTime (s : State) (new : Nat) : s.keepsQueue (s.setTime new) := by
  intro law
  have queue : (s.setTime new).queue =
      sortEntries (s.queue.map fun e => { e with phase := e.phase.shift (shiftTime s.now new) }) := rfl
  have adms : ((s.queue.map fun e => { e with phase := e.phase.shift (shiftTime s.now new) }).map Entry.adm).Nodup := by
    rw [List.map_map]
    exact law.2.1
  refine State.queueLawful_of_map law (g := fun e => { e with phase := e.phase.shift (shiftTime s.now new) })
    (sortEntries_perm _) (fun _ => rfl) (fun _ => rfl) (sortEntries_pairwise _ adms) fun n => ?_
  rw [State.entriesOwned, queue, ((sortEntries_perm _).filter _).length_eq, List.filter_map, List.length_map]
  exact law.2.2.2.2.2.2.2.2 n

/-! ### Stop Control -/

theorem State.keepsQueue_withStop (s : State) (c : StopControl) : s.keepsQueue { s with stop := c } := .of_same

theorem State.keepsQueue_enterStopped (s : State) (byLine : Bool) (n : Nat) (first : Option Nat) :
    s.keepsQueue (s.enterStopped byLine n first) := by
  unfold State.enterStopped
  extract_lets cause s1 s2 raised s3
  have stopped : s.keepsQueue s1.passOver := .of_same
  have driven : s1.passOver.keepsQueue s2 := State.keepsQueue_foldl_driveSafe channelNumbers _
  have signalled : s2.keepsQueue s3 := s2.keepsQueue_withStop _
  exact ((stopped.trans driven).trans signalled).trans (s3.keepsQueue_reportStop _ _ _ _)

theorem State.keepsQueue_addCause (s : State) (byLine : Bool) (n : Nat) (first : Option Nat) :
    s.keepsQueue (s.addCause byLine n first) := (s.keepsQueue_withStop _).trans (State.keepsQueue_reportStop _ _ _ _ _)

theorem State.keepsQueue_haltBy (s : State) (n : Nat) : s.keepsQueue (s.haltBy n) := by
  unfold State.haltBy
  split
  · exact s.keepsQueue_enterStopped _ _ _
  · split
    · exact .refl s
    · exact s.keepsQueue_addCause _ _ _

theorem State.keepsQueue_resumeBy (s : State) (n : Nat) : s.keepsQueue (s.resumeBy n) := by
  unfold State.resumeBy
  extract_lets before s1 s2
  have reported : s1.keepsQueue s2 := s1.keepsQueue_reportStop _ _ _ _
  exact ((s.keepsQueue_withStop _).trans reported).trans (s2.keepsQueue_dispose _)

theorem State.keepsQueue_lineChange (s : State) (asserted : Bool) (first : Nat) :
    s.keepsQueue (s.lineChange asserted first) := by
  unfold State.lineChange
  split
  · split
    · exact s.keepsQueue_enterStopped _ _ _
    · exact s.keepsQueue_addCause _ _ _
  · exact (s.keepsQueue_withStop _).trans (State.keepsQueue_reportStop _ _ _ _ _)

theorem State.keepsQueue_beginStartup (s : State) : s.keepsQueue s.beginStartup := by
  unfold State.beginStartup
  split
  · have created := (s.keepsQueue_setSession 5 .localSession).trans
      (State.keepsQueue_setReportQueue _ 5 ReportQueue.fresh)
    exact created.trans .of_same
  · exact .refl s

theorem State.keepsQueue_sampleStop (s : State) (asserted : Bool) : s.keepsQueue (s.sampleStop asserted) := by
  have qualified : ∀ (t : State) k, t.keepsQueue (t.qualifyStop k) := by
    intro t k
    unfold State.qualifyStop
    extract_lets firstTime before t1 t2
    have changed : t.keepsQueue t2 := by
      unfold t2
      split
      · exact t.keepsQueue_withStop _
      · exact (t.keepsQueue_withStop _).trans (t1.keepsQueue_lineChange _ _)
    split
    · exact changed.trans t2.keepsQueue_beginStartup
    · exact changed
  unfold State.sampleStop
  extract_lets before s1
  have sampled : s.keepsQueue s1 := s.keepsQueue_withStop _
  split
  · exact sampled.trans (s1.keepsQueue_withStop _)
  · split
    · exact sampled.trans (s1.keepsQueue_withStop _)
    · exact sampled.trans (qualified s1 _)

/-! ### Loads -/

theorem State.roomRefusal_eq_none {s : State} {n : Nat} :
    s.roomRefusal n = none ↔ s.poolHasRoom = true ∧ s.quotaHasRoom n = true := by
  unfold State.roomRefusal
  cases s.poolHasRoom <;> cases s.quotaHasRoom n <;> simp

/-- A record that has passed is applied: an action has found room in pool and quota (R178, R179). -/
theorem State.keepsQueue_applyPlanRecord {s : State} {target : Nat} {x : PlanRecord}
    (passed : s.judgePlanRecord target x = none) (base : Nat) : s.keepsQueue (s.applyPlanRecord target base x) := by
  cases x with
  | bind c spec =>
    refine .trans (.of_frame ?_) (.of_frame (State.holdFor_frame _ c target))
    split
    · exact s.bindForLoad_frame c target spec
    · exact s.rebindChannel_frame c target
  | interlock r =>
    unfold State.applyPlanRecord
    dsimp only
    split <;> exact .of_same
  | trigger t spec => exact .of_same
  | action form a =>
    have room : s.roomRefusal target = none := by
      unfold State.judgePlanRecord at passed
      dsimp only at passed
      split at passed
      · cases passed
      split at passed
      · cases passed
      split at passed
      · cases passed
      · exact passed
    obtain ⟨pool, mine⟩ := State.roomRefusal_eq_none.1 room
    exact State.queueLawful_admitEntry pool mine _ _ _
  | unreadable => exact .refl s

theorem State.keepsQueue_runPlan {target base : Nat} {plan : List PlanRecord} :
    ∀ {index : Nat} {s t : State}, State.runPlan target base index plan s = .ok t → s.keepsQueue t := by
  induction plan with
  | nil =>
    intro index s t h
    cases h
    exact .refl s
  | cons x xs ih =>
    intro index s t h
    unfold State.runPlan at h
    split at h
    · cases h
    · rename_i passed
      exact (State.keepsQueue_applyPlanRecord passed base).trans (ih h)

theorem State.keepsQueue_settleStartup (s : State) (target : Nat) (outcome : StartupOutcome) (ends : Bool) :
    s.keepsQueue (s.settleStartup target outcome ends) := by
  unfold State.settleStartup
  split
  · extract_lets s1
    have settled : s.keepsQueue s1 := .of_same
    split
    · exact settled.trans (s1.keepsQueue_teardown 5)
    · exact settled
  · exact .refl s

theorem State.keepsQueue_loadFor (s : State) (k target : Nat) (start : LoadStart) (plan : List PlanRecord) :
    s.keepsQueue (s.loadFor k target start plan) := by
  unfold State.loadFor
  dsimp only
  split
  · rename_i s1 ran
    exact ((State.keepsQueue_runPlan ran).trans (s1.keepsQueue_addReport _ _ _)).trans
      (State.keepsQueue_settleStartup _ _ _ _)
  · exact (s.keepsQueue_addReport _ _ _).trans (State.keepsQueue_settleStartup _ _ _ _)

theorem State.keepsQueue_completeRead (s : State) (k : Nat) (n : Option Nat) (start : LoadStart) (bytes : List Byte) :
    s.keepsQueue (s.completeRead k n start bytes) := by
  unfold State.completeRead
  extract_lets s1
  have ended : s.keepsQueue s1 := .of_same
  have invalidated : s1.keepsQueue (s1.setSlot k (s1.slot k).invalidated) := .of_same
  split
  · unfold State.loadCorrupt
    extract_lets s2
    have reported : s.keepsQueue s2 := (ended.trans invalidated).trans (State.keepsQueue_reportTo _ n _)
    split
    · exact reported
    · exact reported.trans (s2.keepsQueue_settleStartup _ _ _)
  · split
    · exact ended
    · exact ended.trans (s1.keepsQueue_loadFor _ _ _ _)

end Sys2Proof.Machine
end

section
/-!
Every command keeps the law of the queue (R40 to R42): O57.
-/

namespace Sys2Proof.Machine

/-! ### The rules of the requests -/

/-- The rule of a request keeps the law of the queue, whatever the session, the body and the state. -/
def Service.keepsQueue (serve : Service) : Prop := ∀ n body (s : State), s.keepsQueue (serve n body s).1

theorem State.keepsQueue_asOperator (s : State) (n : Nat) {act : State × Answer} (h : s.keepsQueue act.1) :
    s.keepsQueue (asOperator s n act).1 := by
  unfold asOperator
  split
  · exact .refl s
  · exact h

theorem State.keepsQueue_asService (s : State) (n : Nat) (key : Bool) {act : State × Answer}
    (h : s.keepsQueue act.1) : s.keepsQueue (asService s n key act).1 := by
  unfold asService
  split
  · exact h
  · exact .refl s

theorem State.keepsQueue_withBuild (s : State) (n : Nat) (key : Bool) {act : Build → State × Answer}
    (h : ∀ b, s.keepsQueue (act b).1) : s.keepsQueue (withBuild s n key act).1 := by
  unfold withBuild
  split
  · exact .refl s
  split
  · exact .refl s
  split
  · exact .refl s
  split
  · exact .refl s
  · exact h _

/-- A query changes nothing. -/
theorem Service.keepsQueue_of_state {serve : Service} (h : ∀ n body s, (serve n body s).1 = s) : serve.keepsQueue := by
  intro n body s
  rw [h]

theorem emptyQuery_keepsQueue (fields : State → List Byte) :
    Service.keepsQueue fun _ body s => emptyQuery body s (fields s) :=
  Service.keepsQueue_of_state fun _ body s => emptyQuery_state body _ s

theorem serveQueueQuery_keepsQueue : Service.keepsQueue serveQueueQuery := by
  refine Service.keepsQueue_of_state fun n body s => ?_
  unfold serveQueueQuery
  split <;> rfl

theorem serveChannelQuery_keepsQueue : Service.keepsQueue serveChannelQuery := by
  refine Service.keepsQueue_of_state fun n body s => ?_
  unfold serveChannelQuery
  split <;> rfl

theorem serveTriggerQuery_keepsQueue : Service.keepsQueue serveTriggerQuery := by
  refine Service.keepsQueue_of_state fun n body s => ?_
  unfold serveTriggerQuery
  split <;> rfl

/-- ACTION_ADD admits where it has found room in pool and quota (R44). -/
theorem serveActionAdd_keepsQueue : Service.keepsQueue serveActionAdd := by
  intro n body s
  refine s.keepsQueue_asOperator n ?_
  split
  · exact .refl s
  split
  · split
    · exact .refl s
    split
    · exact .refl s
    split
    · exact .refl s
    split
    · exact .refl s
    · rename_i room
      exact State.queueLawful_admitEntry (State.roomRefusal_eq_none.1 room).1 (State.roomRefusal_eq_none.1 room).2 _ _ _
  · exact .refl s

theorem serveActionCancel_keepsQueue (key : Bool) : Service.keepsQueue (serveActionCancel key) := by
  intro n body s
  refine s.keepsQueue_asOperator n ?_
  split
  · exact .refl s
  split
  · exact .refl s
  split
  · exact .refl s
  · exact s.keepsQueue_removeEntry _

theorem serveGroupCancel_keepsQueue : Service.keepsQueue serveGroupCancel := by
  intro n body s
  refine s.keepsQueue_asOperator n ?_
  split
  · exact .refl s
  · exact s.keepsQueue_filter _

theorem serveTimeSet_keepsQueue : Service.keepsQueue serveTimeSet := by
  intro n body s
  refine s.keepsQueue_asOperator n ?_
  split
  · exact .refl s
  · exact s.keepsQueue_setTime _

theorem serveTimeTrim_keepsQueue (key : Bool) : Service.keepsQueue (serveTimeTrim key) := by
  intro n body s
  refine s.keepsQueue_asService n key ?_
  split <;> exact .of_same

theorem serveBind_keepsQueue : Service.keepsQueue serveBind := by
  intro n body s
  refine s.keepsQueue_asOperator n ?_
  split
  · exact .refl s
  split
  · exact .refl s
  split
  · exact .refl s
  · exact .of_frame (s.bindChannel_frame _ n _)

theorem serveUnbind_keepsQueue (key : Bool) : Service.keepsQueue (serveUnbind key) := by
  intro n body s
  refine s.keepsQueue_asOperator n ?_
  split
  · exact .refl s
  split
  · exact .refl s
  split
  · exact .refl s
  split <;> exact .of_same

theorem serveClearFault_keepsQueue (key : Bool) : Service.keepsQueue (serveClearFault key) := by
  intro n body s
  refine s.keepsQueue_asOperator n ?_
  split
  · exact .refl s
  split
  · split
    · exact .refl s
    split <;> exact .of_same
  · exact .refl s

theorem serveRequalify_keepsQueue : Service.keepsQueue serveRequalify := by
  intro n body s
  refine s.keepsQueue_asOperator n ?_
  split
  · exact .refl s
  split
  · split <;> exact .of_same
  · exact .refl s

theorem serveSubscribers_keepsQueue (change : List Nat → List Nat) (body : List Byte) (s : State) :
    s.keepsQueue (serveSubscribers change body s).1 := by
  unfold serveSubscribers
  split
  · exact .refl s
  split <;> exact .of_same

theorem serveInterlockSet_keepsQueue (key : Bool) : Service.keepsQueue (serveInterlockSet key) := by
  intro n body s
  refine s.keepsQueue_asOperator n ?_
  split
  · exact .refl s
  split
  · split
    · exact .refl s
    split
    · exact .refl s
    split <;> exact .of_same
  · exact .refl s

theorem serveInterlockClear_keepsQueue (key : Bool) : Service.keepsQueue (serveInterlockClear key) := by
  intro n body s
  refine s.keepsQueue_asService n key ?_
  split <;> exact .of_same

theorem serveTriggerSet_keepsQueue : Service.keepsQueue serveTriggerSet := by
  intro n body s
  refine s.keepsQueue_asOperator n ?_
  split
  · exact .refl s
  split
  · split <;> exact .of_same
  · exact .refl s

theorem serveTriggerClear_keepsQueue (key : Bool) : Service.keepsQueue (serveTriggerClear key) := by
  intro n body s
  refine s.keepsQueue_asOperator n ?_
  split
  · exact .refl s
  split <;> exact .of_same

theorem servePlanBegin_keepsQueue (key : Bool) : Service.keepsQueue (servePlanBegin key) := by
  intro n body s
  refine s.keepsQueue_asService n key ?_
  split
  · exact .refl s
  split <;> exact .of_same

theorem servePlanPut_keepsQueue (key : Bool) : Service.keepsQueue (servePlanPut key) := by
  intro n body s
  refine s.keepsQueue_withBuild n key fun b => ?_
  split
  · exact .refl s
  split <;> exact .of_same

theorem servePlanAbandon_keepsQueue (key : Bool) : Service.keepsQueue (servePlanAbandon key) := by
  intro n body s
  refine s.keepsQueue_withBuild n key fun b => ?_
  split <;> exact .of_same

theorem servePlanCommit_keepsQueue (key prot : Bool) : Service.keepsQueue (servePlanCommit key prot) := by
  intro n body s
  refine s.keepsQueue_withBuild n key fun b => ?_
  split
  · exact .refl s
  split <;> exact .of_same

theorem servePlanErase_keepsQueue (key prot : Bool) : Service.keepsQueue (servePlanErase key prot) := by
  intro n body s
  refine s.keepsQueue_asService n key ?_
  split
  · exact .refl s
  split <;> exact .of_same

theorem servePlanLoad_keepsQueue : Service.keepsQueue servePlanLoad := by
  intro n body s
  refine s.keepsQueue_asOperator n ?_
  split
  · exact .refl s
  split
  · exact .refl s
  split <;> exact .of_same

theorem serveDeviceReset_keepsQueue (p : Port) (key : Bool) : Service.keepsQueue (serveDeviceReset p key) := by
  intro n body s
  refine s.keepsQueue_asService n key ?_
  split
  · exact .refl s
  split <;> exact .of_same

theorem serveOpen_keepsQueue (p : Port) (key : Bool) (body : List Byte) (s : State) :
    s.keepsQueue (serveOpen p key body s).1 := by
  unfold serveOpen
  split
  · exact .refl s
  split
  · exact .refl s
  split
  · exact .refl s
  split
  · exact .refl s
  split
  · exact .refl s
  · exact (s.keepsQueue_setSession _ _).trans (State.keepsQueue_setReportQueue _ _ _)

theorem serveClose_keepsQueue : Service.keepsQueue serveClose := by
  intro n body s
  unfold serveClose
  split
  · exact s.keepsQueue_teardown n
  · exact .refl s

theorem serveClaim_keepsQueue (key : Bool) : Service.keepsQueue (serveClaim key) := by
  intro n body s
  refine s.keepsQueue_asOperator n ?_
  split
  · exact .refl s
  split
  · exact .refl s
  split
  · exact .of_same
  split
  · exact .refl s
  split
  · exact .refl s
  split
  · exact s.keepsQueue_forceClaim _ _ n
  · exact .refl s

theorem serveRelease_keepsQueue : Service.keepsQueue serveRelease := by
  intro n body s
  refine s.keepsQueue_asOperator n ?_
  split
  · exact .refl s
  split
  · exact .refl s
  split
  · exact .refl s
  split <;> exact .of_same

/-- TAKEOVER moves LOCAL's entries where they and the requester's are within one quota (R140, R141). -/
theorem serveTakeover_keepsQueue : Service.keepsQueue serveTakeover := by
  intro n body s
  refine s.keepsQueue_asOperator n ?_
  split
  · exact .refl s
  split
  · exact .refl s
  split
  · exact .refl s
  split
  · exact .refl s
  · rename_i within
    exact State.keepsQueue_takeOver (Nat.le_of_not_lt within)

theorem serveHalt_keepsQueue : Service.keepsQueue serveHalt := by
  intro n body s
  unfold serveHalt
  split
  · exact s.keepsQueue_haltBy n
  · exact .refl s

theorem serveResume_keepsQueue : Service.keepsQueue serveResume := by
  intro n body s
  refine s.keepsQueue_asOperator n ?_
  split
  · exact .refl s
  split
  · exact .refl s
  split
  · exact .refl s
  · dsimp only
    exact s.keepsQueue_resumeBy n

theorem serveReportAck_keepsQueue : Service.keepsQueue serveReportAck := by
  intro n body s
  unfold serveReportAck
  split
  · exact .refl s
  dsimp only
  split
  · exact s.keepsQueue_setReportQueue n _
  split <;> exact .refl s

theorem serveReportResend_keepsQueue : Service.keepsQueue serveReportResend := by
  intro n body s
  unfold serveReportResend
  split
  · exact s.keepsQueue_setReportQueue n _
  · exact .refl s

/-! ### Frames taken and answered -/

theorem State.keepsQueue_placeReply (s : State) (p : Port) (r : Frame) (resets : Bool) :
    s.keepsQueue (s.placeReply p r resets) := s.keepsQueue_setLink p _

theorem State.keepsQueue_routeFrame (s : State) (p : Port) (f : Frame) {serve : Service} (h : serve.keepsQueue) :
    s.keepsQueue (s.routeFrame p f serve) := by
  unfold State.routeFrame
  split
  · rename_i x _
    have arrived := s.keepsQueue_arrive f.ses.toNat x
    unfold State.frameForSession
    dsimp only
    split
    · exact ((arrived.trans (h _ _ _)).trans (State.keepsQueue_noteReply _ _ _ _ _)).trans
        (State.keepsQueue_placeReply _ _ _ _)
    · split
      · split <;> exact arrived.trans (State.keepsQueue_placeReply _ _ _ _)
      · exact arrived.trans (State.keepsQueue_placeReply _ _ _ _)
  · exact s.keepsQueue_placeReply _ _ _

theorem State.keepsQueue_takeFrame {s s1 : State} {p : Port} {sel : Byte → Bool} {f : Frame}
    (taken : s.takeFrame p sel = some (f, s1)) : s.keepsQueue s1 := by
  obtain ⟨rest, -, -, rfl⟩ := State.takeFrame_eq_some taken
  exact s.keepsQueue_setLink p _

theorem State.keepsQueue_takeRequest (s : State) (p : Port) (code : Byte) {serve : Service} (h : serve.keepsQueue) :
    s.keepsQueue (s.takeRequest p code serve) := by
  unfold State.takeRequest
  split
  · exact .refl s
  · rename_i f s1 taken
    exact (State.keepsQueue_takeFrame taken).trans (s1.keepsQueue_routeFrame p f h)

theorem State.keepsQueue_takeSessionless (s : State) (p : Port) (code : Byte)
    {bare : List Byte → State → State × Answer} {serve : Service}
    (hb : ∀ body (t : State), t.keepsQueue (bare body t).1) (h : serve.keepsQueue) :
    s.keepsQueue (s.takeSessionless p code bare serve) := by
  unfold State.takeSessionless
  split
  · exact .refl s
  · rename_i f s1 taken
    have took := State.keepsQueue_takeFrame taken
    split
    · exact (took.trans (hb f.body s1)).trans (State.keepsQueue_placeReply _ _ _ _)
    · exact took.trans (s1.keepsQueue_routeFrame p f h)

/-! ### Events -/

/-- Whatever next state the command ends in, the law of the queue is not lost. -/
def State.endsKept (s : State) (o : Host.Outcome State Fault Refusal) : Prop := ∀ t, o = .next t → s.keepsQueue t

theorem State.keepsQueue.ends {s t : State} (h : s.keepsQueue t) : s.endsKept (.next t) := by
  rintro _ ⟨⟩
  exact h

theorem State.endsKept_idle (s : State) : s.endsKept (.next s) := (State.keepsQueue.refl s).ends

theorem execUnknownRequestKind_endsKept (p : Port) (s : State) : s.endsKept (execUnknownRequestKind p s) := by
  unfold execUnknownRequestKind
  split
  · exact s.endsKept_idle
  · rename_i f s1 taken
    have took := State.keepsQueue_takeFrame taken
    split
    · exact (took.trans (State.keepsQueue_placeReply _ _ _ _)).ends
    · exact (took.trans (s1.keepsQueue_routeFrame p f fun _ _ t => .refl t)).ends

theorem execEntryDue_endsKept (s : State) : s.endsKept (execEntryDue s) := by
  unfold execEntryDue
  split
  · exact s.endsKept_idle
  · rename_i e next
    have queued := State.hasEntry_of_mem (State.nextReached_spec next).1
    split
    · exact s.endsKept_idle
    · exact (State.keepsQueue_applyVerdict queued _).ends

theorem execGuardDeadline_endsKept (s : State) : s.endsKept (execGuardDeadline s) := by
  unfold execGuardDeadline
  split
  · exact s.endsKept_idle
  · rename_i e next
    have queued := State.hasEntry_of_mem (State.nextReached_spec next).1
    split
    · exact (State.keepsQueue_failOccurrence queued _ _).ends
    · exact s.endsKept_idle

theorem execGuardReevaluation_endsKept (s : State) : s.endsKept (execGuardReevaluation s) := by
  unfold execGuardReevaluation
  split
  · exact s.endsKept_idle
  · split
    · exact (State.keepsQueue.of_same (s := s) (t := s.passOver)).ends
    · rename_i e ls next
      have taken : s.keepsQueue { s with levelChanges := ls } := .of_same
      have queued : { s with levelChanges := ls }.hasEntry e :=
        State.hasEntry_of_mem (State.nextReevaluation_spec next).1
      exact (taken.trans (State.keepsQueue_reevaluate queued)).ends

theorem execActionDrive_endsKept (s : State) : s.endsKept (execActionDrive s) := by
  unfold execActionDrive
  split
  · exact s.endsKept_idle
  · have taken : s.keepsQueue { s with inFlight := none } := .of_same
    exact (taken.trans (State.keepsQueue_settleDrive _ _)).ends

theorem execPulseRelease_endsKept (c : Nat) (s : State) : s.endsKept (execPulseRelease c s) := by
  unfold execPulseRelease
  split
  · split
    · split
      · exact (State.keepsQueue.of_frame (s.driveOutput_frame _ _ _ _)).ends
      · exact s.endsKept_idle
    · exact s.endsKept_idle
  · exact s.endsKept_idle

theorem State.keepsQueue_faultEntry (s : State) (c : Nat) (o : Output) (bad : List Nat) :
    s.keepsQueue (s.faultEntry c o bad) := by
  unfold State.faultEntry
  extract_lets s1 s2
  have broken : s.keepsQueue s1 := by
    unfold s1
    split
    · exact .of_frame (s.breakPartners_frame c)
    · exact .refl s
  have faulted : s.keepsQueue s2 := broken.trans (.of_frame (s1.putOutput_frame c _))
  split
  · exact faulted.trans (s2.keepsQueue_addReport _ _ _)
  · exact faulted

theorem execSettleEnd_endsKept (c : Nat) (wires : BitVec 24) (s : State) : s.endsKept (execSettleEnd c wires s) := by
  unfold execSettleEnd
  split
  · split
    · split
      · refine State.keepsQueue.ends ?_
        unfold State.readback
        split
        · exact .of_same
        · exact s.keepsQueue_faultEntry c _ _
      · exact s.endsKept_idle
    · exact s.endsKept_idle
  · exact s.endsKept_idle

theorem State.keepsQueue_setChan (s : State) (c : Nat) (r : Channel) : s.keepsQueue (s.setChan c r) := .of_same

theorem State.keepsQueue_handLevelChange (s : State) (c : Nat) : s.keepsQueue (s.handLevelChange c) := by
  unfold State.handLevelChange
  dsimp only
  split <;> exact .of_same

theorem State.keepsQueue_handEdge (s : State) (c : Nat) (subscribers : List Nat) (rising : Bool) (t : Nat) :
    s.keepsQueue (s.handEdge c subscribers rising t) :=
  .trans .of_same (State.keepsQueue_handLevelChange _ c)

theorem execInputSample_endsKept (c : Nat) (l : PinLevel) (s : State) : s.endsKept (execInputSample c l s) := by
  unfold execInputSample
  split
  · split
    · refine State.keepsQueue.ends ?_
      unfold State.sampleInput
      dsimp only
      split
      · exact s.keepsQueue_setChan c _
      split
      · exact s.keepsQueue_setChan c _
      split
      · exact (s.keepsQueue_setChan c _).trans (State.keepsQueue_handLevelChange _ _)
      · exact (s.keepsQueue_setChan c _).trans (State.keepsQueue_handEdge _ _ _ _ _)
    · exact s.endsKept_idle
  · exact s.endsKept_idle

theorem State.keepsQueue_visitTrigger (x : Edge) (s : State) (t : Nat) : s.keepsQueue (s.visitTrigger x t) := by
  unfold State.visitTrigger
  split
  · exact .refl s
  · split <;> exact .of_same

theorem execTriggerEdge_endsKept (s : State) : s.endsKept (execTriggerEdge s) := by
  unfold execTriggerEdge
  split
  · exact s.endsKept_idle
  · rename_i x xs _
    have taken : s.keepsQueue { s with edges := xs } := .of_same
    exact (taken.trans (.foldl (State.keepsQueue_visitTrigger x) _ _)).ends

theorem execFireRequest_endsKept (s : State) : s.endsKept (execFireRequest s) := by
  unfold execFireRequest
  split
  · exact s.endsKept_idle
  · rename_i f fs _
    have taken : s.keepsQueue { s with fireRequests := fs } := .of_same
    exact (taken.trans (State.keepsQueue_takeFireRequest _ f)).ends

theorem execHoldoffEnd_endsKept (t : Nat) (s : State) : s.endsKept (execHoldoffEnd t s) := by
  unfold execHoldoffEnd
  split
  · exact s.endsKept_idle
  · split
    · split <;> exact State.keepsQueue.ends .of_same
    · exact s.endsKept_idle

theorem execStopNSample_endsKept (asserted : Bool) (s : State) : s.endsKept (execStopNSample asserted s) := by
  unfold execStopNSample
  split
  · exact (s.keepsQueue_sampleStop asserted).ends
  · exact s.endsKept_idle

theorem execKeepaliveExpiry_endsKept (n : Nat) (s : State) : s.endsKept (execKeepaliveExpiry n s) := by
  unfold execKeepaliveExpiry
  split
  · split
    · split
      · exact (s.keepsQueue_lapse n _).ends
      · exact s.endsKept_idle
    · exact s.endsKept_idle
  · exact s.endsKept_idle

theorem execGraceExpiry_endsKept (n : Nat) (s : State) : s.endsKept (execGraceExpiry n s) := by
  unfold execGraceExpiry
  split
  · split
    · split
      · exact (s.keepsQueue_teardown n).ends
      · exact s.endsKept_idle
    · exact s.endsKept_idle
  · exact s.endsKept_idle

theorem execReportAdd_endsKept (s : State) : s.endsKept (execReportAdd s) := by
  unfold execReportAdd
  split
  · exact s.endsKept_idle
  · rename_i r rs _
    have taken : s.keepsQueue { s with handed := rs } := .of_same
    exact (taken.trans (State.keepsQueue_addReport _ _ _ _)).ends

/-! ### The storage array and the supply -/

theorem State.keepsQueue_storeEnd (s : State) (k : Nat) (r : Slot) (n : Option Nat) (body : ReportBody) :
    s.keepsQueue (({ s.setSlot k r with store := .idle }).reportTo n body) := by
  have written : s.keepsQueue { s.setSlot k r with store := .idle } := .of_same
  exact written.trans (State.keepsQueue_reportTo _ n body)

theorem execErasePhaseEnd_endsKept (s : State) : s.endsKept (execErasePhaseEnd s) := by
  unfold execErasePhaseEnd
  split <;> exact State.keepsQueue.ends .of_same

theorem State.keepsQueue_endProgramming (s : State) (k : Nat) (n : Option Nat) (image bytes : List Byte) :
    s.keepsQueue (s.endProgramming k n image bytes) := by
  unfold State.endProgramming
  dsimp only
  split <;> exact s.keepsQueue_storeEnd _ _ _ _

theorem execProgrammingPhaseEnd_endsKept (readBack : Option (List Byte)) (s : State) :
    s.endsKept (execProgrammingPhaseEnd readBack s) := by
  unfold execProgrammingPhaseEnd
  split
  · exact (s.keepsQueue_endProgramming _ _ _ _).ends
  · exact s.endsKept_idle

theorem execEraseEnd_endsKept (s : State) : s.endsKept (execEraseEnd s) := by
  unfold execEraseEnd
  split
  · exact (s.keepsQueue_storeEnd _ _ _ _).ends
  · exact s.endsKept_idle

theorem State.keepsQueue_abortByLow (s : State) : s.keepsQueue s.abortByLow := by
  unfold State.abortByLow
  split
  · exact .refl s
  · exact .refl s
  all_goals exact s.keepsQueue_storeEnd _ _ _ _

theorem execSupplyChange_endsKept (level : SupplyLevel) (s : State) : s.endsKept (execSupplyChange level s) := by
  unfold execSupplyChange
  split
  · exact s.endsKept_idle
  · have supplied : s.keepsQueue { s with supply := level } := .of_same
    dsimp only
    split
    · exact (supplied.trans (State.keepsQueue_abortByLow _)).ends
    · exact supplied.ends

theorem execReadCompletion_endsKept (bytesRead : Option (List Byte)) (s : State) :
    s.endsKept (execReadCompletion bytesRead s) := by
  unfold execReadCompletion
  split
  · exact (s.keepsQueue_completeRead _ _ _ _).ends
  · exact s.endsKept_idle

/-! ### Ports and resets -/

theorem State.keepsQueue_receive (s : State) (p : Port) (f : Frame) : s.keepsQueue (s.receive p f) := by
  unfold State.receive
  dsimp only
  split <;> exact s.keepsQueue_setLink p _

theorem State.keepsQueue_countError (s : State) (p : Port) : s.keepsQueue (s.countError p) := s.keepsQueue_setLink p _

theorem State.keepsQueue_rxPhase (s : State) (ph : RxPhase) : s.keepsQueue (s.rxPhase ph) := .of_same

theorem State.keepsQueue_discard (s : State) : s.keepsQueue s.discard :=
  (s.keepsQueue_countError .a).trans (State.keepsQueue_rxPhase _ _)

theorem State.keepsQueue_gapTimeout (s : State) : s.keepsQueue s.gapTimeout := by
  unfold State.gapTimeout
  split
  · exact s.keepsQueue_discard
  · exact .refl s

theorem State.keepsQueue_judgeByte (s : State) (b : RxByte) : s.keepsQueue (s.judgeByte b) := by
  unfold State.judgeByte
  split
  · split
    · exact s.keepsQueue_rxPhase _
    · exact .refl s
  · split
    · exact s.keepsQueue_rxPhase _
    · exact s.keepsQueue_discard
  · split
    · exact s.keepsQueue_discard
    split
    · unfold State.checkFrame
      split
      · exact (s.keepsQueue_receive .a _).trans (State.keepsQueue_rxPhase _ _)
      · exact s.keepsQueue_discard
    · exact s.keepsQueue_rxPhase _

theorem State.keepsQueue_takeByte (s : State) (b : RxByte) : s.keepsQueue (s.takeByte b) := by
  have noted : s.gapTimeout.keepsQueue { s.gapTimeout with rxA := { s.gapTimeout.rxA with lastByte := s.elapsed } } :=
    .of_same
  exact (s.keepsQueue_gapTimeout.trans noted).trans (State.keepsQueue_judgeByte _ b)

theorem State.keepsQueue_choose {s s1 : State} {p : Port} {f : OutFrame} (h : s.choose p = some (f, s1)) :
    s.keepsQueue s1 := by
  unfold State.choose at h
  split at h
  · cases h
    exact s.keepsQueue_setLink p _
  split at h
  · cases h
  split at h
  · cases h
  unfold State.handOver at h
  dsimp only at h
  split at h
  · cases h
  · cases h
    exact (s.keepsQueue_setReportQueue _ _).trans (State.keepsQueue_setLink _ p _)

theorem State.keepsQueue_offer {s s1 : State} {f : OutFrame} (h : s.offer = some (f, s1)) : s.keepsQueue s1 := by
  unfold State.offer at h
  split at h
  · cases h
    exact .refl s
  · obtain ⟨⟨g, s2⟩, chosen, eq⟩ := Option.map_eq_some_iff.1 h
    cases eq
    exact (State.keepsQueue_choose chosen).trans .of_same

theorem execPortATransmit_endsKept (s : State) : s.endsKept (execPortATransmit s) := by
  unfold execPortATransmit
  split
  · exact s.endsKept_idle
  split
  · exact s.endsKept_idle
  · rename_i f s1 chosen
    have sending : s1.keepsQueue { s1 with sendingA := some f } := .of_same
    exact ((State.keepsQueue_choose chosen).trans sending).ends

/-- A reset leaves an empty queue (R73). -/
theorem State.softReset_queueLawful (s : State) : s.softReset.queueLawful :=
  State.queueLawful_of_sublist (s := .reset) State.reset_queueLawful (List.Sublist.refl _)

theorem State.keepsQueue_transmitted (s : State) (f : OutFrame) : s.keepsQueue (s.transmitted f) := by
  unfold State.transmitted
  split
  · exact fun _ => s.softReset_queueLawful
  · exact .refl s

theorem execPortAFrameSent_endsKept (s : State) : s.endsKept (execPortAFrameSent s) := by
  unfold execPortAFrameSent
  split
  · exact s.endsKept_idle
  · exact (State.keepsQueue.trans .of_same (State.keepsQueue_transmitted _ _)).ends

theorem execDeviceResetTimeout_endsKept (s : State) : s.endsKept (execDeviceResetTimeout s) := by
  unfold execDeviceResetTimeout
  split
  · split
    · exact State.keepsQueue.ends fun _ => s.softReset_queueLawful
    · exact s.endsKept_idle
  · exact s.endsKept_idle

theorem execHardReset_endsKept (a b : Bool) (l : SupplyLevel) (x : List (Nat × List Byte)) (s : State) :
    s.endsKept (execHardReset a b l x s) :=
  State.keepsQueue.ends fun _ =>
    State.queueLawful_of_sublist (s := .reset) State.reset_queueLawful (List.Sublist.refl _)

theorem State.keepsQueue_withMiso (s : State) (bytes : List Byte) : s.keepsQueue { s with miso := bytes } := .of_same

theorem execWrite_endsKept (bytes : List Byte) (cut : Bool) (s : State) : s.endsKept (execWrite bytes cut s) := by
  have judged : s.keepsQueue (s.judgeWrite bytes) := by
    unfold State.judgeWrite
    split
    · exact s.keepsQueue_countError .b
    · split
      · exact s.keepsQueue_receive .b _
      · exact s.keepsQueue_countError .b
  unfold execWrite
  split
  · exact s.endsKept_idle
  · have kept : s.keepsQueue (if cut then s.countError .b else s.judgeWrite bytes) := by
      split
      · exact s.keepsQueue_countError .b
      · exact judged
    exact (kept.trans (State.keepsQueue_withMiso _ _)).ends

theorem execLevel_endsKept (clocked : Nat) (s : State) : s.endsKept (execLevel clocked s) := by
  unfold execLevel
  split
  · exact s.endsKept_idle
  · exact (s.keepsQueue_withMiso _).ends

theorem execRead_endsKept (s : State) : s.endsKept (execRead s) := by
  unfold execRead
  split
  · exact s.endsKept_idle
  split
  · rename_i f s1 offered
    exact ((State.keepsQueue_offer offered).trans .of_same).ends
  · exact State.keepsQueue.ends .of_same

theorem execReadEnd_endsKept (clocked before : Nat) (s : State) : s.endsKept (execReadEnd clocked before s) := by
  unfold execReadEnd
  split
  · exact s.endsKept_idle
  split
  · exact State.keepsQueue.ends .of_same
  · refine State.keepsQueue.ends (.trans .of_same ?_)
    unfold State.finishRead
    split
    · split
      · exact .trans .of_same (State.keepsQueue_transmitted _ _)
      · exact .refl _
    · exact .refl _

theorem execUnknownSpiCommand_endsKept (command : Byte) (clocked : Nat) (s : State) :
    s.endsKept (execUnknownSpiCommand command clocked s) := by
  unfold execUnknownSpiCommand
  split
  · exact s.endsKept_idle
  split
  · exact s.endsKept_idle
  · exact ((s.keepsQueue_countError .b).trans (State.keepsQueue_withMiso _ _)).ends

/-! ### Steps -/

/-- Every command keeps the law of the queue. -/
theorem exec_endsKept (c : Instr) (s : State) : s.endsKept (exec c s) := by
  have request : ∀ p code {serve : Service}, serve.keepsQueue → s.endsKept (.next (s.takeRequest p code serve)) :=
    fun p code _ h => (s.keepsQueue_takeRequest p code h).ends
  have query : ∀ p code (fields : State → List Byte), s.endsKept (.next (s.takeSessionless p code
      (fun body u => emptyQuery body u (fields u)) fun _ body u => emptyQuery body u (fields u))) :=
    fun p code fields => (s.keepsQueue_takeSessionless p code (fun body u => emptyQuery_keepsQueue fields 0 body u)
      (emptyQuery_keepsQueue fields)).ends
  cases c with
  | openSession p key =>
    exact (s.keepsQueue_takeSessionless p _ (serveOpen_keepsQueue p key) fun _ _ t => .refl t).ends
  | identify p => exact query p _ fun _ => identifyBytes
  | status p => exact query p _ _
  | close p => exact request p _ serveClose_keepsQueue
  | keepalive p => exact request p _ (emptyQuery_keepsQueue _)
  | timeGet p => exact request p _ (emptyQuery_keepsQueue _)
  | timeSet p => exact request p _ serveTimeSet_keepsQueue
  | timeTrim p key => exact request p _ (serveTimeTrim_keepsQueue key)
  | bind p => exact request p _ serveBind_keepsQueue
  | unbind p key => exact request p _ (serveUnbind_keepsQueue key)
  | clearFault p key => exact request p _ (serveClearFault_keepsQueue key)
  | requalify p => exact request p _ serveRequalify_keepsQueue
  | channelQuery p => exact request p _ serveChannelQuery_keepsQueue
  | subscribe p => exact request p _ fun _ => serveSubscribers_keepsQueue _
  | unsubscribe p => exact request p _ fun _ => serveSubscribers_keepsQueue _
  | claim p key => exact request p _ (serveClaim_keepsQueue key)
  | release p => exact request p _ serveRelease_keepsQueue
  | takeover p => exact request p _ serveTakeover_keepsQueue
  | actionAdd p => exact request p _ serveActionAdd_keepsQueue
  | actionCancel p key => exact request p _ (serveActionCancel_keepsQueue key)
  | groupCancel p => exact request p _ serveGroupCancel_keepsQueue
  | queueQuery p => exact request p _ serveQueueQuery_keepsQueue
  | interlockSet p key => exact request p _ (serveInterlockSet_keepsQueue key)
  | interlockClear p key => exact request p _ (serveInterlockClear_keepsQueue key)
  | interlockQuery p => exact request p _ (emptyQuery_keepsQueue _)
  | triggerSet p => exact request p _ serveTriggerSet_keepsQueue
  | triggerClear p key => exact request p _ (serveTriggerClear_keepsQueue key)
  | triggerQuery p => exact request p _ serveTriggerQuery_keepsQueue
  | halt p => exact request p _ serveHalt_keepsQueue
  | resume p => exact request p _ serveResume_keepsQueue
  | reportAck p => exact request p _ serveReportAck_keepsQueue
  | reportResend p => exact request p _ serveReportResend_keepsQueue
  | planBegin p key => exact request p _ (servePlanBegin_keepsQueue key)
  | planPut p key => exact request p _ (servePlanPut_keepsQueue key)
  | planAbandon p key => exact request p _ (servePlanAbandon_keepsQueue key)
  | planCommit p key prot => exact request p _ (servePlanCommit_keepsQueue key prot)
  | planErase p key prot => exact request p _ (servePlanErase_keepsQueue key prot)
  | planList p => exact request p _ (emptyQuery_keepsQueue _)
  | planLoad p => exact request p _ servePlanLoad_keepsQueue
  | deviceReset p key => exact request p _ (serveDeviceReset_keepsQueue p key)
  | unknownRequestKind p => exact execUnknownRequestKind_endsKept p s
  | tick => exact State.keepsQueue.ends .of_same
  | trimWindowEnd => exact State.keepsQueue.ends .of_same
  | entryDue => exact execEntryDue_endsKept s
  | actionDrive => exact execActionDrive_endsKept s
  | guardDeadline => exact execGuardDeadline_endsKept s
  | guardReevaluation => exact execGuardReevaluation_endsKept s
  | pulseRelease c => exact execPulseRelease_endsKept c s
  | settleEnd c wires => exact execSettleEnd_endsKept c wires s
  | inputSample c level => exact execInputSample_endsKept c level s
  | triggerEdge => exact execTriggerEdge_endsKept s
  | fireRequest => exact execFireRequest_endsKept s
  | holdoffEnd t => exact execHoldoffEnd_endsKept t s
  | stopNSample asserted => exact execStopNSample_endsKept asserted s
  | keepaliveExpiry n => exact execKeepaliveExpiry_endsKept n s
  | graceExpiry n => exact execGraceExpiry_endsKept n s
  | reportAdd => exact execReportAdd_endsKept s
  | erasePhaseEnd => exact execErasePhaseEnd_endsKept s
  | programmingPhaseEnd readBack => exact execProgrammingPhaseEnd_endsKept readBack s
  | eraseEnd => exact execEraseEnd_endsKept s
  | readCompletion bytesRead => exact execReadCompletion_endsKept bytesRead s
  | supplyChange level => exact execSupplyChange_endsKept level s
  | hardReset a b l x => exact execHardReset_endsKept a b l x s
  | portAFrame bytes => exact (State.keepsQueue.foldl State.keepsQueue_takeByte bytes s).ends
  | portAGapTimeout => exact s.keepsQueue_gapTimeout.ends
  | portATransmit => exact execPortATransmit_endsKept s
  | portAFrameSent => exact execPortAFrameSent_endsKept s
  | deviceResetTimeout => exact execDeviceResetTimeout_endsKept s
  | write bytes cut => exact execWrite_endsKept bytes cut s
  | level clocked => exact execLevel_endsKept clocked s
  | read => exact execRead_endsKept s
  | readEnd clocked before => exact execReadEnd_endsKept clocked before s
  | unknownSpiCommand command clocked => exact execUnknownSpiCommand_endsKept command clocked s

/-- Settles O57: an entry is admitted only where there is room and under the first unused handle, and every other write
of the queue takes entries out or puts them anew into their places. -/
theorem queueLawKept : Obligations.QueueLawKept := by
  intro s t law h
  unfold step at h
  split at h
  · cases h
    exact law
  · rename_i c rest _
    have taken : s.keepsQueue { s with pending := rest } := .of_same
    exact exec_endsKept c _ t h (taken law)

end Sys2Proof.Machine
end

section
/-!
The requests of the action queue: ACTION_ADD, ACTION_CANCEL and GROUP_CANCEL (R40 to R50).
-/

namespace Sys2Proof.Machine

section
variable {s : State} {p : Port} {n : Nat} {h : HostSession} {f : Frame} {rest : List Frame} {code : Byte}

/-! ### Requests that write the queue -/

/-- A request in sequence whose rule writes the queue with its two counters alone. -/
theorem State.takeRequest_queue (received : s.receives p n h f rest code) (serve : Service) {fields : List Byte}
    {q : List Entry} {hc na : Nat}
    (served : serve n f.body (s.arrived p n h rest) =
      ({ s.arrived p n h rest with queue := q, handleCounter := hc, nextAdmission := na }, okWith fields)) :
    s.takeRequest p code serve =
      { s.answered p n h f rest .ok fields with queue := q, handleCounter := hc, nextAdmission := na } :=
  State.takeRequest_effect received serve .ok fields
    (fun t => { t with queue := q, handleCounter := hc, nextAdmission := na }) served (fun _ => rfl)
    (fun t r => by unfold State.setSession; split <;> rfl) (fun _ => by cases p <;> rfl) (fun _ _ => by cases p <;> rfl)

/-- A request in sequence whose rule writes the queue alone. -/
theorem State.takeRequest_queue_only (received : s.receives p n h f rest code) (serve : Service) {fields : List Byte}
    {q : List Entry}
    (served : serve n f.body (s.arrived p n h rest) = ({ s.arrived p n h rest with queue := q }, okWith fields)) :
    s.takeRequest p code serve = { s.answered p n h f rest .ok fields with queue := q } :=
  State.takeRequest_effect received serve .ok fields (fun t => { t with queue := q }) served (fun _ => rfl)
    (fun t r => by unfold State.setSession; split <;> rfl) (fun _ => by cases p <;> rfl) (fun _ _ => by cases p <;> rfl)

/-! ### ACTION_ADD -/

theorem State.guardBound_arrived (a : Action) : (s.arrived p n h rest).guardBound a = s.guardBound a := by
  unfold State.guardBound
  simp only [State.arrived_chan]

theorem State.roomRefusal_arrived (m : Nat) : (s.arrived p n h rest).roomRefusal m = s.roomRefusal m := by
  unfold State.roomRefusal State.poolHasRoom State.quotaHasRoom
  simp only [State.arrived_queue, State.arrived_entriesOwned]

theorem State.newHandle_arrived : (s.arrived p n h rest).newHandle = s.newHandle := by
  unfold State.newHandle
  simp only [State.arrived_queue, State.arrived_handleCounter]

/-- An ACTION_ADD that meets every condition of R44 admits its entry. -/
theorem serveActionAdd_accepted (received : s.receives p n h f rest code) (operator : h.cls ≠ .observer)
    {form : ActionForm} {a : Action} (body : a.bytesFor true form f.body) {o : Output}
    (target : s.outputAt a.target = some o) (owner : o.owner = some n) (sound : o.isFaulted = false)
    (guards : s.guardBound a = true) (room : s.roomRefusal n = none) :
    serveActionAdd n f.body (s.arrived p n h rest) =
      ((s.arrived p n h rest).admitEntry n (form.phase s.now) a .request,
        okWith (admissionReply s.newHandle (form.phase s.now))) := by
  rw [serveActionAdd, asOperator_arrived received operator, (readAction_eq_some true f.body form a).2 body]
  simp only [State.arrived_chan, State.chan_of_outputAt target, owner, ne_eq, not_true_eq_false, if_false, sound,
    Bool.false_eq_true, State.guardBound_arrived, guards, Bool.true_eq_false, State.roomRefusal_arrived, room,
    State.arrived_now, State.newHandle_arrived]

/-- The fields of an ACTION_ADD reply: the handle, and the due time of a scheduled entry (R43). -/
theorem admissionReply_phase (k base : Nat) (form : ActionForm) :
    admissionReply k (form.phase base) = leBytes 2 k ++ match form.phase base with
      | .waitingTime due => leBytes 6 due
      | _ => [] := by
  cases form <;> rfl

theorem ActionForm.phase_eq (form : ActionForm) (base : Nat) : form.phase base = (match form with
    | .absolute due => .waitingTime due
    | .relative ticks => .waitingTime (min (base + ticks) (2 ^ 48 - 1))
    | .armed offset => .template offset) := by
  cases form <;> rfl

end

/-- Settles O20: the search of R41 gives the handle, and the entry is put into its place in queue order. -/
theorem actionAddAdmits : Obligations.ActionAddAdmits := by
  refine ⟨readAction_eq_some true, fun s p n h f rest operator received unread => ?_,
    fun s p n h f rest form a o law received operator body target owner sound guards pool mine => ?_⟩
  · refine congrArg Host.Outcome.next (State.takeRequest_answered received serveActionAdd .malformed [] ?_)
    rw [serveActionAdd, asOperator_arrived received operator]
    cases e : readAction true f.body with
    | none => rfl
    | some x => exact absurd ((readAction_eq_some true f.body x.1 x.2).1 e) (unread x.1 x.2)
  · have room : s.poolHasRoom = true ∧ s.quotaHasRoom n = true := ⟨decide_eq_true pool, decide_eq_true mine⟩
    have served := serveActionAdd_accepted received operator body target owner sound ((s.guardBound_iff a).2 guards)
      (State.roomRefusal_eq_none.2 room)
    rw [admissionReply_phase] at served
    obtain ⟨j, place, free, passed⟩ := law.newHandle
    have range := law.newHandle.range
    have admitted := State.queueLawful_admitEntry room.1 room.2 (form.phase s.now) a .request law
    refine ⟨s.newHandle, j, form.phase s.now, _,
      congrArg Host.Outcome.next (State.takeRequest_queue received serveActionAdd (q := (s.admitEntry n (form.phase s.now) a
        .request).queue) (hc := nextHandle s.newHandle) (na := s.nextAdmission + 1) (served.trans ?_)),
      form.phase_eq s.now, place, fun e he same => free (List.mem_map.2 ⟨e, he, same⟩), fun i hi => ?_,
      nextHandle_eq range.1 range.2, s.mem_admitEntry n _ a .request, length_insertEntry _ _, admitted.ordered, rfl⟩
    · simp only [State.admitEntry, State.newEntry, State.arrived_queue, State.arrived_nextAdmission,
        State.newHandle_arrived] <;> rfl
    · obtain ⟨e, he, same⟩ := List.mem_map.1 (passed i hi)
      exact ⟨e, he, same⟩

/-! ### ACTION_CANCEL and GROUP_CANCEL -/

section
variable {s : State} {p : Port} {n : Nat} {h : HostSession} {f : Frame} {rest : List Frame} {code : Byte}

theorem readHandle_spelled {k : Nat} (low : 1 ≤ k) (high : k ≤ 65535) : readHandle (leBytes 2 k) = some k := by
  have spelled : field (leBytes 2 k) 0 2 = k := by
    simpa using field_leBytes 2 k [] (by omega)
  rw [readHandle, spelled]
  exact if_pos ⟨leBytes_length 2 k, by omega⟩

theorem readTag_spelled {g : Nat} (low : 1 ≤ g) (high : g ≤ 255) : readTag (u8 g) = some g := by
  have spelled : field (u8 g) 0 1 = g := (field_byte (u8 g) (toByte g) 0 rfl).trans (toByte_toNat g (by omega))
  rw [readTag, spelled]
  exact if_pos ⟨rfl, by omega⟩

/-- The requester owns the entry, or the rights of SERVICE stand in (R48). -/
theorem State.entryRefusal_arrived (received : s.receives p n h f rest code) {e : Entry} {key : Bool}
    (rights : e.owner = n ∨ h.cls = .service ∧ key = true) : (s.arrived p n h rest).entryRefusal n key e = none := by
  obtain ⟨⟨_, _, _, _, live, _⟩, _⟩ := received
  unfold State.entryRefusal
  rcases rights with own | ⟨service, rfl⟩
  · exact if_pos own
  · rw [foreignRefusal, State.arrived_classOf live, if_pos service]
    exact ite_self none

/-- The entry of a handle is found (R41). -/
theorem State.queueLawful.find_handle (law : s.queueLawful) {e : Entry} (he : e ∈ s.queue) :
    s.queue.find? (fun x => x.handle == e.handle) = some e := by
  cases found : s.queue.find? fun x => x.handle == e.handle with
  | none => exact absurd (List.find?_eq_none.1 found e he) (by simp)
  | some x =>
    have same : x.handle = e.handle := by simpa using List.find?_some found
    rw [law.eq_of_handle (List.mem_of_find?_eq_some found) he same]

/-- Removing an entry by its admission number removes what has its handle. -/
theorem State.queueLawful.removeEntry_queue (law : s.queueLawful) {e : Entry} (he : e ∈ s.queue) :
    (s.removeEntry e.adm).queue = s.queue.filter fun x => x.handle != e.handle := by
  refine List.filter_congr fun x hx => ?_
  rw [Bool.eq_iff_iff, bne_iff_ne, bne_iff_ne]
  exact not_congr ⟨fun same => by rw [law.eq_of_adm hx he same], fun same => by rw [law.eq_of_handle hx he same]⟩

/-- An ACTION_CANCEL whose handle is read (R48). -/
theorem serveActionCancel_read (received : s.receives p n h f rest code) (operator : h.cls ≠ .observer) (key : Bool)
    {k : Nat} (body : f.body = leBytes 2 k) (low : 1 ≤ k) (high : k ≤ 65535) :
    serveActionCancel key n f.body (s.arrived p n h rest) =
      match s.queue.find? fun e => e.handle == k with
      | none => (s.arrived p n h rest, refuse .noSuchAction)
      | some e =>
        match (s.arrived p n h rest).entryRefusal n key e with
        | some r => (s.arrived p n h rest, refuse r)
        | none => ((s.arrived p n h rest).removeEntry e.adm, okWith (u8 e.phase.state.code)) := by
  rw [serveActionCancel, asOperator_arrived received operator, body, readHandle_spelled low high]
  simp only [State.arrived_queue] <;> rfl

end

/-- Settles O21: handles and admission numbers tell the entries of the queue apart alike. -/
theorem cancelsRemoveExactly : Obligations.CancelsRemoveExactly := by
  intro s p key n h f rest law operator
  refine ⟨fun e he received body rights => ?_, fun k received body low high none => ?_,
    fun g received body low high => ?_⟩
  · obtain ⟨low, high⟩ := law.2.2.2.2.1 e he
    have served := serveActionCancel_read received operator key body low high
    simp only [law.find_handle he, State.entryRefusal_arrived received rights] at served
    have removed : (s.arrived p n h rest).removeEntry e.adm = { s.arrived p n h rest with
        queue := s.queue.filter fun x => x.handle != e.handle } := by
      rw [← law.removeEntry_queue he]
      simp only [State.removeEntry, State.arrived_queue]
    rw [removed] at served
    exact congrArg Host.Outcome.next (State.takeRequest_queue_only received (serveActionCancel key) served)
  · have served := serveActionCancel_read received operator key body low high
    rw [List.find?_eq_none.2 fun e he => by simpa using none e he] at served
    exact congrArg Host.Outcome.next (State.takeRequest_answered received (serveActionCancel key) .noSuchAction [] served)
  · have served : serveGroupCancel n f.body (s.arrived p n h rest) = ({ s.arrived p n h rest with
        queue := s.queue.filter fun e => !(e.owner == n && e.act.tag == g) },
        okWith (leBytes 2 (s.queue.countP fun e => e.owner == n && e.act.tag == g))) := by
      rw [serveGroupCancel, asOperator_arrived received operator, body, readTag_spelled low high]
      simp only [State.groupOf, State.arrived_queue, List.countP_eq_length_filter]
      rfl
    exact congrArg Host.Outcome.next (State.takeRequest_queue_only received serveGroupCancel served)

end Sys2Proof.Machine
end

section
/-!
The end of an occurrence (R63, R64, R67, R68): reports, the repeat step and the advance of overdue occurrences.
-/

namespace Sys2Proof.Machine

/-! ### Reports -/

/-- What a report does rests on the sessions and the report queues alone. -/
theorem State.addReport_reports_of_same {s t : State} (sessions : t.sessions = s.sessions) (reports : t.reports = s.reports)
    (n time : Nat) (body : ReportBody) : (t.addReport n time body).reports = (s.addReport n time body).reports := by
  have session : t.session n = s.session n := by unfold State.session; rw [sessions]
  have queue : t.reportQueue n = s.reportQueue n := by unfold State.reportQueue; rw [reports]
  unfold State.addReport
  rw [session, queue]
  dsimp only
  split
  · split <;>
    · unfold State.setReportQueue
      rw [reports]
      split
      · exact reports
      · rfl
  · exact reports

theorem State.reportQueue_of_reports {s t : State} (reports : t.reports = s.reports) (n : Nat) :
    t.reportQueue n = s.reportQueue n := by
  unfold State.reportQueue
  rw [reports]

/-! ### The advance of R68 -/

theorem saturate_add_saturate (n k : Nat) : saturate (saturate n + k) = saturate (n + k) := by
  unfold saturate
  omega

/-- The periods that pass before `now`, counted from one period later. -/
theorem periods_succ {due period now : Nat} (low : 1 ≤ period) (past : due + period < now) :
    (now - due + (period - 1)) / period = (now - (due + period) + (period - 1)) / period + 1 := by
  rw [← Nat.add_div_right _ low]
  congr 1
  omega

/-- The periods that end within 2^48 - 1, counted from one period later. -/
theorem span_succ {due period : Nat} (low : 1 ≤ period) (fits : due + period ≤ Config.maxTime) :
    (Config.maxTime - due) / period = (Config.maxTime - (due + period)) / period + 1 := by
  rw [← Nat.add_div_right _ low]
  congr 1
  omega

/-- An occurrence that is not earlier than now stands. -/
theorem advance_now {due period now skipped : Nat} {remaining : Option Nat} (h : now ≤ due) :
    advance due remaining period now skipped = .queued due remaining skipped := if_pos h

/-- How many periods may be advanced: as many as remain, and not beyond 2^48 - 1. -/
def periodsLeft (due : Nat) (remaining : Option Nat) (period : Nat) : Nat :=
  match remaining with
  | none => (Config.maxTime - due) / period
  | some r => min r ((Config.maxTime - due) / period)

theorem periodsLeft_succ {due period : Nat} {remaining : Option Nat} (low : 1 ≤ period)
    (fits : due + period ≤ Config.maxTime) (more : remaining ≠ some 0) :
    periodsLeft due remaining period = periodsLeft (due + period) (remaining.map fun k => k - 1) period + 1 := by
  cases remaining with
  | none => exact span_succ low fits
  | some r =>
    have : r ≠ 0 := fun h => more (congrArg some h)
    simp only [periodsLeft, span_succ low fits, Option.map_some]
    omega

theorem periodsLeft_zero {due period : Nat} {remaining : Option Nat} (low : 1 ≤ period)
    (last : remaining = some 0 ∨ Config.maxTime < due + period) : periodsLeft due remaining period = 0 := by
  rcases last with rfl | beyond
  · exact Nat.zero_min _
  · have none : (Config.maxTime - due) / period = 0 := Nat.div_eq_of_lt (by omega)
    unfold periodsLeft
    split <;> simp [none]

/-- The advance of an occurrence earlier than now, in the number of periods that reach now. -/
theorem advance_past {due period now skipped : Nat} {remaining : Option Nat} (h : due < now) :
    advance due remaining period now skipped =
      if (now - due + (period - 1)) / period ≤ periodsLeft due remaining period then
        .queued (due + (now - due + (period - 1)) / period * period)
          (remaining.map fun k => k - (now - due + (period - 1)) / period)
          (saturate (skipped + (now - due + (period - 1)) / period))
      else
        .ended (due + periodsLeft due remaining period * period)
          (saturate (skipped + periodsLeft due remaining period + 1)) := by
  unfold advance
  rw [if_neg (Nat.not_le.2 h)]
  cases remaining <;> rfl

/-- No occurrence follows one that is earlier than now. -/
theorem advance_last {due period now skipped : Nat} {remaining : Option Nat} (low : 1 ≤ period) (h : due < now)
    (last : remaining = some 0 ∨ Config.maxTime < due + period) :
    advance due remaining period now skipped = .ended due (saturate (skipped + 1)) := by
  have some_period : 1 ≤ (now - due + (period - 1)) / period := (Nat.one_le_div_iff low).2 (by omega)
  rw [advance_past h, periodsLeft_zero low last, if_neg (by omega), Nat.zero_mul]
  rfl

/-- An occurrence that is earlier than now is passed over, and the next one is judged (R68). -/
theorem advance_step {due period now skipped : Nat} {remaining : Option Nat} (low : 1 ≤ period) (h : due < now)
    (more : remaining ≠ some 0) (fits : due + period ≤ Config.maxTime) :
    advance due remaining period now skipped =
      advance (due + period) (remaining.map fun k => k - 1) period now (saturate (skipped + 1)) := by
  have room := periodsLeft_succ low fits more
  rw [advance_past h, room]
  rcases Nat.lt_or_ge (due + period) now with past | reached
  · rw [advance_past past, periods_succ low past]
    generalize (now - (due + period) + (period - 1)) / period = n
    generalize periodsLeft (due + period) (remaining.map fun k => k - 1) period = m
    have later : ∀ j, due + (j + 1) * period = due + period + j * period := fun j => by
      rw [Nat.add_mul, Nat.one_mul]
      omega
    have left : (remaining.map fun k => k - (n + 1)) = (remaining.map fun k => k - 1).map fun k => k - n := by
      cases remaining with
      | none => rfl
      | some r => exact congrArg some ((Nat.sub_sub r 1 n).trans (by rw [Nat.add_comm])).symm
    have count : ∀ j, saturate (saturate (skipped + 1) + j) = saturate (skipped + (j + 1)) := fun j => by
      rw [saturate_add_saturate, Nat.add_assoc, Nat.add_comm 1 j]
    simp only [Nat.add_le_add_iff_right, later, left, Nat.add_assoc, count]
  · have one : (now - due + (period - 1)) / period = 1 :=
      Nat.div_eq_of_lt_le (by omega) (by omega)
    rw [advance_now reached, one, if_pos (Nat.succ_le_succ (Nat.zero_le _)), Nat.one_mul]

/-! ### The repeat step -/

/-- An occurrence has no successor as R67 says. -/
theorem Entry.successor_eq_none (e : Entry) : e.successor = none ↔ e.isLast := by
  unfold Entry.successor Entry.isLast
  rcases e.act.rep with _ | ⟨k, m⟩
  · simp
  · refine Iff.trans (b := m = some 0 ∨ Config.maxTime < e.due + k) ?_ ?_
    · simp [Decidable.imp_iff_not_or]
    · constructor
      · rintro (rfl | beyond)
        · exact .inr (.inl ⟨k, rfl⟩)
        · exact .inr (.inr ⟨k, m, rfl, beyond⟩)
      · rintro (none | ⟨_, same⟩ | ⟨_, _, same, beyond⟩)
        · cases none
        · cases same
          exact .inl rfl
        · cases same
          exact .inr beyond

/-- The successor is due one period later, with one fewer remaining (R67). -/
theorem Entry.successor_eq {e : Entry} {k : Nat} {m : Option Nat} (rep : e.act.rep = some ⟨k, m⟩) (more : m ≠ some 0)
    (fits : e.due + k ≤ Config.maxTime) : e.successor = some (e.due + k, ⟨k, m.map fun j => j - 1⟩) := by
  unfold Entry.successor
  rw [rep]
  exact if_neg (not_or.2 ⟨more, Nat.not_lt.2 fits⟩)

theorem State.repeatStep_last (s : State) {e : Entry} (last : e.isLast) : s.repeatStep e = s.removeEntry e.adm := by
  unfold State.repeatStep
  rw [e.successor_eq_none.2 last]

theorem State.repeatStep_queued (s : State) {e : Entry} {k due n : Nat} {m left : Option Nat}
    (rep : e.act.rep = some ⟨k, m⟩) (more : m ≠ some 0) (fits : e.due + k ≤ Config.maxTime)
    (next : advance (e.due + k) (m.map fun j => j - 1) k s.now e.skipped = .queued due left n) :
    s.repeatStep e = s.requeue { e with
      phase := .waitingTime due, skipped := n, act := { e.act with rep := some ⟨k, left⟩ } } := by
  unfold State.repeatStep
  rw [Entry.successor_eq rep more fits]
  simp only [next, Entry.advanced, rep, Option.map_some]

theorem State.repeatStep_ended (s : State) {e : Entry} {k last n : Nat} {m : Option Nat}
    (rep : e.act.rep = some ⟨k, m⟩) (more : m ≠ some 0) (fits : e.due + k ≤ Config.maxTime)
    (next : advance (e.due + k) (m.map fun j => j - 1) k s.now e.skipped = .ended last n) :
    s.repeatStep e = (s.removeEntry e.adm).addReport e.owner s.now
      (.actionExpired e.handle e.act.target e.act.kind last n false) := by
  unfold State.repeatStep
  rw [Entry.successor_eq rep more fits]
  simp only [next]

/-! ### The end of an occurrence -/

/-- The state once the report of an ended occurrence is added; a success without REPORT has none (R63). -/
def State.withOutcome (s : State) (e : Entry) (done : Bool) (reason : FailReason) (time : Nat) : State :=
  if done = true ∧ e.act.report = false then s
  else s.addReport e.owner time
    (if done then .actionDone (e.occurrence time) else .actionFailed (e.occurrence time) reason)

/-- The skipped count after the outcome is reported (R68). -/
def Entry.skippedAfter (e : Entry) (done : Bool) : Nat := if done = true ∧ e.act.report = false then e.skipped else 0

/-- Success and failure alike: the report of the outcome, and then the repeat step (R63). -/
theorem State.ending_eq (s : State) (e : Entry) (reason : FailReason) (time : Nat) (done : Bool) :
    (if done then s.succeed e time else s.failOccurrence e reason time) =
      (s.withOutcome e done reason time).repeatStep { e with skipped := e.skippedAfter done } := by
  unfold State.withOutcome Entry.skippedAfter State.succeed State.failOccurrence
  cases done with
  | false => simp
  | true => cases report : e.act.report <;> simp

theorem State.withOutcome_frame (s : State) (e : Entry) (done : Bool) (reason : FailReason) (time : Nat) :
    ∃ r, s.withOutcome e done reason time = { s with reports := r } := by
  unfold State.withOutcome
  split
  · exact ⟨_, rfl⟩
  · exact s.addReport_frame _ _ _

theorem State.withOutcome_other (s : State) (e : Entry) (done : Bool) (reason : FailReason) (time : Nat) {m : Nat}
    (other : m ≠ e.owner) : (s.withOutcome e done reason time).reportQueue m = s.reportQueue m := by
  unfold State.withOutcome
  split
  · rfl
  · exact s.addReport_other _ _ _ _ other

/-- The queue but for one of its entries. -/
theorem State.queueLawful.mem_removeEntry {s : State} (law : s.queueLawful) {e : Entry} (he : e ∈ s.queue) (x : Entry) :
    x ∈ (s.removeEntry e.adm).queue ↔ x ∈ s.queue ∧ x ≠ e := by
  rw [State.mem_removeEntry]
  exact and_congr_right fun hx => not_congr ⟨law.eq_of_adm hx he, congrArg _⟩

/-- The queue once an entry stands anew at a new admission number. -/
theorem State.queueLawful.mem_requeue {s : State} (law : s.queueLawful) {e e' : Entry} (he : e ∈ s.queue)
    (same : e'.adm = e.adm) (x : Entry) :
    x ∈ (s.requeue e').queue ↔ x ∈ s.queue ∧ x ≠ e ∨ x = { e' with adm := s.nextAdmission } := by
  rw [State.mem_requeue, same, ← State.mem_removeEntry, law.mem_removeEntry he, or_comm]

/-- The repeat step reports to the owner alone. -/
theorem State.repeatStep_other (s : State) (e : Entry) {m : Nat} (other : m ≠ e.owner) :
    (s.repeatStep e).reportQueue m = s.reportQueue m := by
  unfold State.repeatStep
  split
  · rfl
  · split
    · rfl
    · exact State.addReport_other _ _ _ _ _ other

/-- The repeat step leaves every other entry in the queue. -/
theorem State.mem_repeatStep {s : State} {e x : Entry} (hx : x ∈ s.queue) (other : x.adm ≠ e.adm) :
    x ∈ (s.repeatStep e).queue := by
  unfold State.repeatStep
  split
  · exact (s.mem_removeEntry e.adm x).2 ⟨hx, other⟩
  · split
    · exact (s.mem_requeue _ x).2 (.inr ⟨hx, other⟩)
    · rw [State.addReport_queue]
      exact (s.mem_removeEntry e.adm x).2 ⟨hx, other⟩

/-- The outcome of an occurrence goes to the owner. -/
theorem State.withOutcome_own (s : State) (e : Entry) (done : Bool) (reason : FailReason) (time : Nat) :
    (s.withOutcome e done reason time).reportQueue e.owner =
      if done = true ∧ e.act.report = false then s.reportQueue e.owner
      else (s.addReport e.owner time
        (if done then .actionDone (e.occurrence time) else .actionFailed (e.occurrence time) reason)).reportQueue
          e.owner := by
  unfold State.withOutcome
  split <;> rfl

/-- Settles O38: the outcome's report and the repeat step taken apart, and the closed form of the advance unrolled by
one period. -/
theorem occurrenceEnds : Obligations.OccurrenceEnds := by
  refine ⟨fun s e reason time done law he => ?_, fun due remaining period now skipped low _ _ =>
    ⟨advance_now, fun past last => advance_last low past last, fun past more fits => advance_step low past more fits⟩⟩
  refine ⟨(s.withOutcome e done reason time).repeatStep { e with skipped := e.skippedAfter done }, _,
    e.skippedAfter done, (s.ending_eq e reason time done).symm, rfl, rfl, ?_⟩
  have own := s.withOutcome_own e done reason time
  have other := fun m => s.withOutcome_other e done reason time (m := m)
  obtain ⟨r, frame⟩ := s.withOutcome_frame e done reason time
  have opened : s.withOutcome e done reason time =
    if done = true ∧ e.act.report = false then s else s.addReport e.owner time
      (if done then .actionDone (e.occurrence time) else .actionFailed (e.occurrence time) reason) := rfl
  generalize s.withOutcome e done reason time = u at *
  have lawU : u.queueLawful := frame ▸ law
  have queue : u.queue = s.queue := by rw [frame]
  have now : u.now = s.now := by rw [frame]; rfl
  have adm : u.nextAdmission = s.nextAdmission := by rw [frame]
  have heU : e ∈ u.queue := queue ▸ he
  refine ⟨?_, fun m hm => ?_, fun x hx ne => ?_, fun last => ?_,
    fun k m rep more fits reached => ?_, fun k m rep more fits past => ?_⟩
  · obtain ⟨q, a, r', stepped⟩ := u.repeatStep_frame { e with skipped := e.skippedAfter done }
    rw [stepped, frame]
  · exact (u.repeatStep_other { e with skipped := e.skippedAfter done } hm).trans (other m hm)
  · exact State.mem_repeatStep (queue ▸ hx) fun same => ne (law.eq_of_adm hx he same)
  · rw [u.repeatStep_last (e := { e with skipped := e.skippedAfter done }) last, ← queue]
    exact ⟨lawU.mem_removeEntry heU, own⟩
  · rw [u.repeatStep_queued (e := { e with skipped := e.skippedAfter done }) rep more fits
      (advance_now (now ▸ reached)), ← queue, ← adm]
    exact ⟨lawU.mem_requeue heU rfl, own⟩
  · refine ⟨u, opened, ?_⟩
    rw [← queue, ← adm, ← now]
    split
    · rename_i next left count advanced
      rw [u.repeatStep_queued (e := { e with skipped := e.skippedAfter done }) rep more fits advanced]
      exact ⟨lawU.mem_requeue heU rfl, rfl⟩
    · rename_i last count advanced
      rw [u.repeatStep_ended (e := { e with skipped := e.skippedAfter done }) rep more fits advanced,
        State.addReport_queue]
      exact ⟨lawU.mem_removeEntry heU, State.reportQueue_of_reports
        (State.addReport_reports_of_same (s := u) (t := u.removeEntry e.adm) rfl rfl _ _ _) _⟩

end Sys2Proof.Machine
end

section
/-!
A fire request: templates converted in place, or copied while there is room (R96, R97, R99): O26.
-/

namespace Sys2Proof.Machine

/-! ### Reports one after another -/

/-- A run of reports, each made of one item, for session `n`. -/
def State.reportEach {α : Type} (s : State) (n time : Nat) (body : α → ReportBody) (l : List α) : State :=
  l.foldl (fun u a => u.addReport n time (body a)) s

theorem State.reportEach_frame {α : Type} (s : State) (n time : Nat) (body : α → ReportBody) (l : List α) :
    ∃ r, s.reportEach n time body l = { s with reports := r } := by
  induction l generalizing s with
  | nil => exact ⟨_, rfl⟩
  | cons a l ih =>
    obtain ⟨r, first⟩ := s.addReport_frame n time (body a)
    obtain ⟨r', rest⟩ := ih (s.addReport n time (body a))
    exact ⟨r', by rw [State.reportEach, List.foldl_cons, ← State.reportEach, rest, first]⟩

theorem State.reportEach_sessions {α : Type} (s : State) (n time : Nat) (body : α → ReportBody) (l : List α) :
    (s.reportEach n time body l).sessions = s.sessions := by
  obtain ⟨_, frame⟩ := s.reportEach_frame n time body l
  rw [frame]

theorem State.reportEach_reports_of_same {α : Type} {s t : State} (sessions : t.sessions = s.sessions)
    (reports : t.reports = s.reports) (n time : Nat) (body : α → ReportBody) (l : List α) :
    (t.reportEach n time body l).reports = (s.reportEach n time body l).reports := by
  induction l generalizing s t with
  | nil => exact reports
  | cons a l ih =>
    refine ih ?_ (State.addReport_reports_of_same sessions reports n time (body a))
    obtain ⟨_, hs⟩ := s.addReport_frame n time (body a)
    obtain ⟨_, ht⟩ := t.addReport_frame n time (body a)
    dsimp only
    rw [hs, ht]
    exact sessions

/-! ### Conversion (R96) -/

/-- The entries that the templates of `l` become, in their order, with the admission numbers from `adm` on. -/
def convertedFrom (due : Entry → Nat) (adm : Nat) (l : List Entry) : List Entry :=
  l.mapIdx fun i e => { e with phase := .waitingTime (due e), adm := adm + i }

theorem convertedFrom_cons (due : Entry → Nat) (adm : Nat) (e : Entry) (l : List Entry) :
    convertedFrom due adm (e :: l) =
      { e with phase := .waitingTime (due e), adm := adm } :: convertedFrom due (adm + 1) l := by
  have shift : (fun i (e : Entry) => { e with phase := .waitingTime (due e), adm := adm + (i + 1) }) =
      fun i (e : Entry) => { e with phase := .waitingTime (due e), adm := adm + 1 + i } :=
    funext₂ fun i e => by rw [Nat.add_assoc, Nat.add_comm 1]
  rw [convertedFrom, List.mapIdx_cons, shift]
  rfl

/-- The queue after the conversion of `l`, and what stays as it was. -/
theorem State.foldl_convertTemplate (k : Nat) (due : Entry → Nat) (l : List Entry) (s : State)
    (dues : ∀ e ∈ l, e.dueFrom k = due e) (given : ∀ e ∈ l, e.adm < s.nextAdmission) :
    ∃ q, l.foldl (State.convertTemplate k) s = { s with queue := q, nextAdmission := s.nextAdmission + l.length } ∧
      q.Perm ((s.queue.filter fun x => !(l.map Entry.adm).contains x.adm) ++ convertedFrom due s.nextAdmission l) := by
  induction l generalizing s with
  | nil => exact ⟨s.queue, rfl, by simp [convertedFrom]⟩
  | cons e l ih =>
    have here := dues e (List.mem_cons_self ..)
    obtain ⟨q, folded, perm⟩ := ih (s.convertTemplate k e) (fun x hx => dues x (List.mem_cons_of_mem _ hx))
      fun x hx => Nat.lt_succ_of_lt (given x (List.mem_cons_of_mem _ hx))
    refine ⟨q, ?_, perm.trans ?_⟩
    · rw [List.foldl_cons, folded, List.length_cons, Nat.add_comm l.length 1, ← Nat.add_assoc]
      rfl
    · have fresh : (!(l.map Entry.adm).contains s.nextAdmission) = true := by
        simp only [Bool.not_eq_true', List.contains_eq_mem, decide_eq_false_iff_not, List.mem_map, not_exists, not_and]
        exact fun x hx => Nat.ne_of_lt (given x (List.mem_cons_of_mem _ hx))
      have kept : (s.removeEntry e.adm).queue.filter (fun x => !(l.map Entry.adm).contains x.adm) =
          s.queue.filter fun x => !((e :: l).map Entry.adm).contains x.adm := by
        rw [State.removeEntry, List.filter_filter]
        refine List.filter_congr fun x _ => ?_
        rw [List.map_cons, List.contains_cons, Bool.not_or, Bool.and_comm]
        rfl
      have first : (s.convertTemplate k e).queue.Perm
          ({ e with phase := .waitingTime (due e), adm := s.nextAdmission } :: (s.removeEntry e.adm).queue) := by
        rw [← here]
        exact insertEntry_perm _ _
      have split := first.filter fun x => !(l.map Entry.adm).contains x.adm
      rw [List.filter_cons_of_pos (p := fun x : Entry => !(l.map Entry.adm).contains x.adm) fresh, kept] at split
      rw [convertedFrom_cons]
      exact (split.append_right _).trans List.perm_middle.symm

/-! ### Copies (R97) -/

/-- A search for a handle rests on the handles in use, in whatever order they stand. -/
theorem firstFree.perm {used used' : List Nat} {h k : Nat} (p : used.Perm used') (f : firstFree used h k) :
    firstFree used' h k := by
  obtain ⟨j, place, free, passed⟩ := f
  exact ⟨j, place, fun m => free (p.mem_iff.2 m), fun i hi => p.mem_iff.1 (passed i hi)⟩

/-- The copies of the templates `sel`, in their order: with the admission numbers from `adm` on, and the handles that
the counter gives one after another while `used` are in use. -/
def copiesOf (due : Entry → Nat) (used : List Nat) (n adm : Nat) (sel copies : List Entry) (counter : Nat → Nat) : Prop :=
  ∀ (i : Nat) (e x : Entry), sel[i]? = some e → copies[i]? = some x →
    x = ⟨x.handle, n, adm + i, .waitingTime (due e), e.act, .trigger e.handle, 0⟩ ∧
      firstFree (used ++ (copies.take i).map Entry.handle) (counter i) x.handle ∧
      counter (i + 1) = x.handle % 65535 + 1

/-- The counter from `first` on. -/
def counterFrom (first : Nat) (counter : Nat → Nat) : Nat → Nat
  | 0 => first
  | i + 1 => counter i

theorem copiesOf_cons {due : Entry → Nat} {used used' : List Nat} {n adm first : Nat} {e x : Entry}
    {sel copies : List Entry} {counter : Nat → Nat}
    (here : x = ⟨x.handle, n, adm, .waitingTime (due e), e.act, .trigger e.handle, 0⟩)
    (free : firstFree used first x.handle) (next : counter 0 = x.handle % 65535 + 1)
    (perm : used'.Perm (x.handle :: used)) (rest : copiesOf due used' n (adm + 1) sel copies counter) :
    copiesOf due used n adm (e :: sel) (x :: copies) (counterFrom first counter) := by
  intro i a y ha hy
  cases i with
  | zero =>
    obtain rfl : e = a := by simpa using ha
    obtain rfl : x = y := by simpa using hy
    exact ⟨here, by simpa [counterFrom] using free, next⟩
  | succ i =>
    obtain ⟨fields, found, counted⟩ := rest i a y (by simpa using ha) (by simpa using hy)
    refine ⟨?_, found.perm ?_, counted⟩
    · rw [Nat.add_assoc, Nat.add_comm 1 i] at fields
      exact fields
    · rw [List.take_succ_cons, List.map_cons]
      exact (perm.append_right _).trans List.perm_middle.symm

/-- The copies that pool and quota have room for (R42). -/
def State.roomFor (s : State) (n : Nat) : Nat := min (512 - s.queue.length) (384 - s.entriesOwned n)

/-- What the failure of a copy reports (R97). -/
def copyFailed (due : Entry → Nat) (now : Nat) (e : Entry) : ReportBody :=
  .actionFailed ⟨e.handle, e.act.target, e.act.kind, due e, decide (due e + 10 < now), 0⟩ .queueFull

theorem State.copyTemplate_room {s : State} {k : Nat} {e : Entry} (room : 0 < s.roomFor e.owner) :
    s.copyTemplate k e = s.admitEntry e.owner (.waitingTime (e.dueFrom k)) e.act (.trigger e.handle) := by
  unfold State.roomFor at room
  have pool : s.poolHasRoom = true := decide_eq_true (show s.queue.length < 512 by omega)
  have mine : s.quotaHasRoom e.owner = true := decide_eq_true (show s.entriesOwned e.owner < 384 by omega)
  unfold State.copyTemplate
  rw [pool, mine]
  rfl

theorem State.copyTemplate_full {s : State} {k : Nat} {e : Entry} {due : Entry → Nat} (dueOf : e.dueFrom k = due e)
    (full : s.roomFor e.owner = 0) : s.copyTemplate k e = s.addReport e.owner s.now (copyFailed due s.now e) := by
  have refused : (s.poolHasRoom && s.quotaHasRoom e.owner) = false := by
    rw [Bool.and_eq_false_iff]
    unfold State.roomFor at full
    rcases Nat.lt_or_ge s.queue.length 512 with pool | pool
    · exact .inr (decide_eq_false (show ¬s.entriesOwned e.owner < 384 by omega))
    · exact .inl (decide_eq_false (Nat.not_lt.2 pool))
  unfold State.copyTemplate copyFailed
  rw [refused, ← dueOf]
  rfl

/-- An admission takes one place of the pool and of the quota. -/
theorem State.roomFor_admitEntry (s : State) (n : Nat) (ph : Phase) (a : Action) (origin : Origin) :
    (s.admitEntry n ph a origin).roomFor n = s.roomFor n - 1 := by
  have owned : (s.admitEntry n ph a origin).entriesOwned n = s.entriesOwned n + 1 := by
    show (List.filter _ (insertEntry _ _)).length = _
    rw [State.entriesOwned, ((insertEntry_perm (s.newEntry n ph a origin) s.queue).filter _).length_eq,
      List.filter_cons_of_pos (by simp [State.newEntry]), List.length_cons]
  have length : (s.admitEntry n ph a origin).queue.length = s.queue.length + 1 := length_insertEntry _ _
  unfold State.roomFor
  rw [owned, length]
  omega

/-- The templates `l` copied one after another, until pool or quota is full, and the failures of the rest. -/
theorem State.foldl_copyTemplate (k n : Nat) (due : Entry → Nat) (l : List Entry) (s : State) (law : s.queueLawful)
    (dues : ∀ e ∈ l, e.dueFrom k = due e) (owned : ∀ e ∈ l, e.owner = n) :
    ∃ (made : Nat) (copies : List Entry) (counter : Nat → Nat) (q : List Entry) (r : Vector ReportQueue 5),
      l.foldl (State.copyTemplate k) s = { s with
        queue := q, handleCounter := counter made, nextAdmission := s.nextAdmission + made, reports := r } ∧
      made = min l.length (s.roomFor n) ∧ copies.length = made ∧ q.Perm (s.queue ++ copies) ∧
      counter 0 = s.handleCounter ∧ copiesOf due (s.queue.map Entry.handle) n s.nextAdmission l copies counter ∧
      r = (s.reportEach n s.now (copyFailed due s.now) (l.drop made)).reports := by
  induction l generalizing s with
  | nil =>
    exact ⟨0, [], fun _ => s.handleCounter, s.queue, s.reports, rfl, (Nat.zero_min _).symm, rfl, by simp, rfl,
      fun i e x he => (by cases he), rfl⟩
  | cons e l ih =>
    have dueE := dues e (List.mem_cons_self ..)
    obtain rfl := owned e (List.mem_cons_self ..)
    have laterDues : ∀ x ∈ l, x.dueFrom k = due x := fun x hx => dues x (List.mem_cons_of_mem _ hx)
    have laterOwned : ∀ x ∈ l, x.owner = e.owner := fun x hx => owned x (List.mem_cons_of_mem _ hx)
    rcases Nat.eq_zero_or_pos (s.roomFor e.owner) with full | room
    · have fullMin : ∀ j : Nat, min j (s.roomFor e.owner) = 0 := fun j => by rw [full, Nat.min_zero]
      obtain ⟨r0, reported⟩ := s.addReport_frame e.owner s.now (copyFailed due s.now e)
      obtain ⟨made, copies, counter, q, r, folded, count, length, perm, start, -, reports⟩ :=
        ih { s with reports := r0 } law laterDues laterOwned
      obtain rfl : made = 0 := count.trans (fullMin _)
      obtain rfl := List.length_eq_zero_iff.1 length
      refine ⟨0, [], counter, q, r, ?_, (fullMin _).symm, rfl, perm, start, fun i a x _ hx => (by cases hx), ?_⟩
      · rw [List.foldl_cons, State.copyTemplate_full dueE full, reported]
        exact folded
      · rw [reports, List.drop_zero, List.drop_zero, State.reportEach, State.reportEach, List.foldl_cons, reported]
        rfl
    · have pool : s.poolHasRoom = true := decide_eq_true (show s.queue.length < 512 by unfold State.roomFor at room; omega)
      have mine : s.quotaHasRoom e.owner = true :=
        decide_eq_true (show s.entriesOwned e.owner < 384 by unfold State.roomFor at room; omega)
      have new := law.newHandle
      obtain ⟨made, copies, counter, q, r, folded, count, length, perm, start, chain, reports⟩ :=
        ih (s.admitEntry e.owner (.waitingTime (due e)) e.act (.trigger e.handle))
          (State.queueLawful_admitEntry pool mine _ _ _ law) laterDues laterOwned
      have first := insertEntry_perm (s.newEntry e.owner (.waitingTime (due e)) e.act (.trigger e.handle)) s.queue
      refine ⟨made + 1, s.newEntry e.owner (.waitingTime (due e)) e.act (.trigger e.handle) :: copies,
        counterFrom s.handleCounter counter, q, r, ?_, ?_, congrArg (· + 1) length, ?_, rfl, ?_, ?_⟩
      · rw [List.foldl_cons, State.copyTemplate_room room, dueE, folded, Nat.add_comm made 1, ← Nat.add_assoc,
          Nat.add_comm 1 made]
        rfl
      · rw [count, State.roomFor_admitEntry, List.length_cons]
        omega
      · exact (perm.trans (first.append_right _)).trans List.perm_middle.symm
      · exact copiesOf_cons rfl new (start.trans (nextHandle_eq new.range.1 new.range.2)) (first.map Entry.handle) chain
      · rw [reports, List.drop_succ_cons]
        exact State.reportEach_reports_of_same (s := s)
          (t := s.admitEntry e.owner (.waitingTime (due e)) e.act (.trigger e.handle)) rfl rfl e.owner s.now _ _

/-! ### The fire request -/

theorem State.templatesFor_eq (s : State) (f : FireReq) {selects : Entry → Bool}
    (selected : ∀ e, selects e = true ↔ e.owner = f.owner ∧ e.act.tag = f.tag ∧ e.phase.isTemplate = true) :
    s.templatesFor f = s.queue.filter selects := by
  refine List.filter_congr fun e _ => ?_
  rw [Bool.eq_iff_iff, selected, Bool.and_eq_true_iff, Bool.and_eq_true_iff, beq_iff_eq, beq_iff_eq, and_assoc]

theorem Entry.dueFrom_eq {e : Entry} {k : Nat} {due : Entry → Nat} (template : e.phase.isTemplate = true)
    (dues : ∀ j, e.phase = .template j → due e = min (k + j) (2 ^ 48 - 1)) : e.dueFrom k = due e := by
  cases h : e.phase with
  | template j =>
    rw [dues j h]
    unfold Entry.dueFrom
    rw [h]
    rfl
  | waitingTime _ => rw [h] at template; cases template
  | waitingGuard _ _ => rw [h] at template; cases template
  | deferred _ _ => rw [h] at template; cases template

/-- What a ONCE request leaves is the queue without its templates (R96). -/
theorem State.queueLawful.filter_selected {s : State} (law : s.queueLawful) (selects : Entry → Bool) :
    (s.queue.filter fun x => !((s.queue.filter selects).map Entry.adm).contains x.adm) =
      s.queue.filter fun x => !selects x := by
  refine List.filter_congr fun x hx => congrArg not ?_
  rw [Bool.eq_iff_iff, List.contains_iff_mem, List.mem_map]
  constructor
  · rintro ⟨y, hy, same⟩
    obtain ⟨hy, selected⟩ := List.mem_filter.1 hy
    exact law.eq_of_adm hy hx same ▸ selected
  · exact fun selected => ⟨x, List.mem_filter.2 ⟨hx, selected⟩, rfl⟩

theorem execFireRequest_eq {s : State} {f : FireReq} {fs : List FireReq} (oldest : s.fireRequests = f :: fs) :
    exec .fireRequest s = .next ({ s with fireRequests := fs }.takeFireRequest f) := by
  show execFireRequest s = _
  rw [execFireRequest, oldest]

/-- A ONCE request converts its templates and reports their number (R96, R99). -/
theorem State.takeFireRequest_once {s : State} {f : FireReq} {due : Entry → Nat} (law : s.queueLawful)
    (mode : f.mode = .once) (dues : ∀ e ∈ s.templatesFor f, e.dueFrom f.t = due e) :
    ∃ q r, s.takeFireRequest f = { s with
        queue := q, nextAdmission := s.nextAdmission + (s.templatesFor f).length, reports := r } ∧
      q.Perm ((s.queue.filter fun x => !((s.templatesFor f).map Entry.adm).contains x.adm) ++
        convertedFrom due s.nextAdmission (s.templatesFor f)) ∧
      r = (s.addReport f.owner s.now
        (.triggerFired f.trigger f.source f.rising f.t (s.templatesFor f).length 0)).reports := by
  obtain ⟨q, folded, perm⟩ := State.foldl_convertTemplate f.t due (s.templatesFor f) s dues fun e he =>
    law.adm_lt (List.mem_of_mem_filter he)
  set t := { s with queue := q, nextAdmission := s.nextAdmission + (s.templatesFor f).length }
  obtain ⟨r, reported⟩ := t.addReport_frame f.owner s.now
    (.triggerFired f.trigger f.source f.rising f.t (s.templatesFor f).length 0)
  refine ⟨q, r, ?_, perm, ?_⟩
  · rw [State.takeFireRequest, mode]
    dsimp only
    rw [folded, reported]
  · rw [← State.addReport_reports_of_same (s := s) (t := t) rfl rfl, reported]

/-- An EVERY request copies its templates and reports what was made and what failed (R97, R99). -/
theorem State.takeFireRequest_every {s : State} {f : FireReq} {due : Entry → Nat} (law : s.queueLawful)
    (mode : f.mode = .every) (dues : ∀ e ∈ s.templatesFor f, e.dueFrom f.t = due e) :
    ∃ (made : Nat) (copies : List Entry) (counter : Nat → Nat) (q : List Entry) (r : Vector ReportQueue 5),
      s.takeFireRequest f = { s with
        queue := q, handleCounter := counter made, nextAdmission := s.nextAdmission + made, reports := r } ∧
      made = min (s.templatesFor f).length (s.roomFor f.owner) ∧ copies.length = made ∧ q.Perm (s.queue ++ copies) ∧
      counter 0 = s.handleCounter ∧
      copiesOf due (s.queue.map Entry.handle) f.owner s.nextAdmission (s.templatesFor f) copies counter ∧
      r = ((s.reportEach f.owner s.now (copyFailed due s.now) ((s.templatesFor f).drop made)).addReport f.owner s.now
        (.triggerFired f.trigger f.source f.rising f.t made ((s.templatesFor f).length - made))).reports := by
  obtain ⟨made, copies, counter, q, r, folded, count, length, perm, start, chain, reports⟩ :=
    State.foldl_copyTemplate f.t f.owner due (s.templatesFor f) s law dues fun e he => by
      obtain ⟨_, marks⟩ := List.mem_filter.1 he
      simp only [Bool.and_eq_true, beq_iff_eq] at marks
      exact marks.1.1
  have rise : q.length - s.queue.length = made := by
    rw [perm.length_eq, List.length_append, length]
    exact Nat.add_sub_cancel_left _ _
  set t := { s with
    queue := q, handleCounter := counter made, nextAdmission := s.nextAdmission + made, reports := r }
  obtain ⟨r', reported⟩ := t.addReport_frame f.owner s.now
    (.triggerFired f.trigger f.source f.rising f.t made ((s.templatesFor f).length - made))
  refine ⟨made, copies, counter, q, r', ?_, count, length, perm, start, chain, ?_⟩
  · rw [State.takeFireRequest, mode]
    dsimp only
    rw [folded, rise, reported]
  · rw [← State.addReport_reports_of_same (t := t) (s.reportEach_sessions ..).symm reports, reported]

/-- Settles O26: the folds over the templates, in template order. -/
theorem fireRequestSchedules : Obligations.FireRequestSchedules := by
  intro s f fs selects sel due law oldest selected hsel dues
  have lawU : State.queueLawful { s with fireRequests := fs } := law
  have templates : State.templatesFor { s with fireRequests := fs } f = sel :=
    (State.templatesFor_eq _ f selected).trans hsel.symm
  have ordered := (State.keepsQueue_takeFireRequest { s with fireRequests := fs } f lawU).ordered
  have dueOf : ∀ e ∈ sel, e.dueFrom f.t = due e := fun e he => by
    rw [hsel] at he
    exact Entry.dueFrom_eq ((selected e).1 (List.mem_filter.1 he).2).2.2 (dues e)
  refine ⟨_, execFireRequest_eq oldest, ?_⟩
  cases mode : f.mode with
  | once =>
    obtain ⟨q, r, taken, perm, reports⟩ := State.takeFireRequest_once lawU mode (templates.symm ▸ dueOf)
    rw [templates] at taken perm reports
    rw [taken] at ordered ⊢
    refine ⟨rfl, ordered, fun _ => ⟨⟨convertedFrom due s.nextAdmission sel, List.length_mapIdx, fun i e he => ?_, ?_⟩,
      rfl, rfl, fun m => State.reportQueue_of_reports (reports.trans ?_) m⟩, fun h => absurd h (by decide)⟩
    · rw [convertedFrom, List.getElem?_mapIdx, he]
      rfl
    · rw [hsel] at perm ⊢
      rw [law.filter_selected selects] at perm
      exact perm
    · exact State.addReport_reports_of_same (s := s) (t := { s with fireRequests := fs }) rfl rfl _ _ _
  | every =>
    obtain ⟨made, copies, counter, q, r, taken, count, length, perm, start, chain, reports⟩ :=
      State.takeFireRequest_every lawU mode (templates.symm ▸ dueOf)
    rw [templates] at count chain reports
    rw [taken] at ordered ⊢
    refine ⟨rfl, ordered, fun h => absurd h (by decide), fun _ => ⟨made, copies, counter, count, length, perm, start,
      chain, rfl, rfl, fun m => State.reportQueue_of_reports (reports.trans ?_) m⟩⟩
    refine State.addReport_reports_of_same ?_ ?_ _ _ _
    · exact (State.reportEach_sessions ..).trans (s.reportEach_sessions ..).symm
    · exact State.reportEach_reports_of_same (s := s) (t := { s with fireRequests := fs }) rfl rfl f.owner s.now _ _

end Sys2Proof.Machine
end

section
/-!
The firing sequence: guard, fault test, interlock check and drive (R53 to R62, R80, R81), with ENTRY_DUE, GUARD_DEADLINE
and GUARD_REEVALUATION: O36 and O37.
-/

namespace Sys2Proof.Machine

/-! ### The interlock check (R80) -/

/-- The first held place of a table that has an answer decides. -/
theorem findSome?_filterMap_of_first {α β : Type} {g : α → Option β} {a : α} {b : β} (l : List (Option α)) (i : Nat)
    (here : l[i]? = some (some a)) (answer : g a = some b)
    (before : ∀ j a', j < i → l[j]? = some (some a') → g a' = none) : (l.filterMap id).findSome? g = some b := by
  induction l generalizing i with
  | nil => cases here
  | cons x l ih =>
    cases i with
    | zero =>
      cases here
      rw [List.filterMap_cons_some (f := id) (b := a) rfl, List.findSome?_cons, answer]
    | succ i =>
      have rest := ih i here fun j a' hj at_j => before (j + 1) a' (Nat.succ_lt_succ hj) at_j
      cases x with
      | none => exact rest
      | some y =>
        rw [List.filterMap_cons_some (f := id) (b := y) rfl, List.findSome?_cons, before 0 y (Nat.succ_pos i) rfl]
        exact rest

theorem State.interlock_eq_some {s : State} {i : Nat} {r : Interlock} :
    s.interlock i = some r ↔ s.interlocks.toList[i]? = some (some r) := by
  simp only [State.interlock, tget, Vector.getElem?_toList]
  cases s.interlocks[i]? <;> simp

/-- A record that is clear does not block (R80). -/
theorem State.clearOf.judgeRecord {s : State} {x : Nat} {r : Interlock} (clear : s.clearOf x r) (owner : Nat) :
    s.judgeRecord x owner r = none := by
  cases partner : r.partner x with
  | none => simp only [State.judgeRecord, partner]
  | some y =>
    obtain ⟨o, output, off, dead⟩ := clear y (Interlock.partner_eq_some partner)
    simp only [State.judgeRecord, partner, State.chan_of_outputAt output, off, reduceCtorEq, if_false]
    split
    · exact if_neg (Nat.not_lt.2 (dead _ ‹_›))
    · rfl

/-- With every record clear the check proceeds. -/
theorem State.interlockCheck_clear {s : State} {x : Nat} (clear : ∀ i r, s.interlock i = some r → s.clearOf x r)
    (owner : Nat) : s.interlockCheck x owner = .proceed := by
  have none : s.interlockList.findSome? (s.judgeRecord x owner) = none := by
    rw [List.findSome?_eq_none_iff]
    intro r hr
    obtain ⟨i, hi⟩ := (s.mem_interlockList r).1 hr
    exact (clear i r hi).judgeRecord owner
  rw [State.interlockCheck, none]
  rfl

/-- The first record that is not clear decides, in table order. -/
theorem State.interlockCheck_first {s : State} {x owner i : Nat} {r : Interlock} {answer : InterlockAnswer}
    (position : s.interlock i = some r) (before : ∀ j r', j < i → s.interlock j = some r' → s.clearOf x r')
    (blocks : s.judgeRecord x owner r = some answer) : s.interlockCheck x owner = answer := by
  have first : s.interlockList.findSome? (s.judgeRecord x owner) = some answer := by
    exact findSome?_filterMap_of_first _ i (State.interlock_eq_some.1 position) blocks fun j r' hj at_j =>
      (before j r' hj (State.interlock_eq_some.2 at_j)).judgeRecord owner
  rw [State.interlockCheck, first]
  rfl

section
variable {s : State} {x y owner : Nat} {r : Interlock} {o : Output}

/-- An ACTIVE partner that may not be broken (R80). -/
theorem State.judgeRecord_refused (partner : r.partner x = some y) (output : s.outputAt y = some o)
    (active : o.level = .active) (kept : r.mode = .refuse ∨ o.owner ≠ some owner ∨ o.isFaulted = true) :
    s.judgeRecord x owner r = some .fail := by
  simp only [State.judgeRecord, partner, State.chan_of_outputAt output, active, if_true]
  split
  · rfl
  · rename_i breakFirst
    refine if_neg fun ⟨own, sound⟩ => ?_
    rcases kept with refuse | foreign | faulted
    · rw [breakFirst] at refuse
      cases refuse
    · exact foreign own
    · rw [sound] at faulted
      cases faulted

/-- An ACTIVE partner that is broken first (R80, R81). -/
theorem State.judgeRecord_broken (partner : r.partner x = some y) (output : s.outputAt y = some o)
    (active : o.level = .active) (mode : r.mode = .breakFirst) (own : o.owner = some owner) (sound : o.isFaulted = false) :
    s.judgeRecord x owner r = some (.defer (clampTime (s.now + r.dead)) (some y)) := by
  simp only [State.judgeRecord, partner, State.chan_of_outputAt output, active, if_true, mode, own, sound, and_self]

/-- Dead time of an INACTIVE partner that is still to run (R80). -/
theorem State.judgeRecord_deadTime (partner : r.partner x = some y) (output : s.outputAt y = some o)
    (off : o.level = .inactive) {k : Nat} (last : o.lastOff = some k) (running : s.now < k + r.dead) :
    s.judgeRecord x owner r = some (.defer (clampTime (k + r.dead)) none) := by
  simp only [State.judgeRecord, partner, State.chan_of_outputAt output, off, reduceCtorEq, if_false, last, running, if_true]

end

/-! ### The verdict from the fault test on (R59 to R61) -/

section
variable {s : State} {e : Entry} {o : Output}

/-- The level and the release time of the drive of an entry. -/
theorem ActionKind.result_eq (k : ActionKind) (l : Level) : k.result l = (match k with
    | .clear => .inactive
    | .toggle => if l = .active then .inactive else .active
    | _ => .active) := by
  cases k <;> rfl

theorem ActionKind.release_eq (k : ActionKind) (now : Nat) : k.release now = (match k with
    | .pulse w => some (min (now + w) (2 ^ 48 - 1))
    | _ => none) := by
  cases k <;> rfl

/-- The verdict that an answer of the interlock check gives, for a drive to `l` with release time `rel` (R80). -/
def InterlockAnswer.verdict (l : Level) (rel : Option Nat) : InterlockAnswer → Verdict
  | .proceed => .drive l rel
  | .fail => .fail .interlocked
  | .defer effective broken => .defer effective broken

/-- The verdict on a target that is not FAULTED and becomes ACTIVE is the interlock check's. -/
theorem State.judgeFromFault_checked (output : s.outputAt e.act.target = some o) (sound : o.isFaulted = false)
    (off : o.level = .inactive) (on : e.act.kind.result o.level = .active) :
    s.judgeFromFault e = (s.interlockCheck e.act.target e.owner).verdict (e.act.kind.result o.level)
      (e.act.kind.release s.now) := by
  rw [State.judgeFromFault, State.chan_of_outputAt output]
  dsimp only
  rw [if_neg (by rw [sound]; exact Bool.false_ne_true), if_pos ⟨off, on⟩]
  cases s.interlockCheck e.act.target e.owner <;> rfl

theorem State.judgeFromFault_free (output : s.outputAt e.act.target = some o) (sound : o.isFaulted = false)
    (free : ¬(o.level = .inactive ∧ e.act.kind.result o.level = .active) ∨
      ∀ i r, s.interlock i = some r → s.clearOf e.act.target r) :
    s.judgeFromFault e = .drive (e.act.kind.result o.level) (e.act.kind.release s.now) := by
  by_cases rises : o.level = .inactive ∧ e.act.kind.result o.level = .active
  · have clear := free.resolve_left (not_not_intro rises)
    rw [State.judgeFromFault_checked output sound rises.1 rises.2, State.interlockCheck_clear clear]
    rfl
  · rw [State.judgeFromFault, State.chan_of_outputAt output]
    dsimp only
    rw [if_neg (by rw [sound]; exact Bool.false_ne_true), if_neg rises]

theorem State.judgeFromFault_faulted (output : s.outputAt e.act.target = some o) (faulted : o.isFaulted = true) :
    s.judgeFromFault e =
      if e.act.kind.result o.level = o.cfg.safe ∧ e.act.kind.release s.now = none then
        .drive (e.act.kind.result o.level) none
      else .fail .channelFaulted := by
  rw [State.judgeFromFault, State.chan_of_outputAt output]
  exact if_pos faulted

/-- A drive to level `l` with release time `rel` passes the fault test and the interlock check (R59, R80). -/
def State.mayDrive (s : State) (e : Entry) (o : Output) (l : Level) (rel : Option Nat) : Prop :=
  (o.isFaulted = true → l = o.cfg.safe ∧ rel = none) ∧
    (o.isFaulted = false → ¬(o.level = .inactive ∧ l = .active) ∨
      ∀ i r, s.interlock i = some r → s.clearOf e.act.target r)

/-- The partner of a BREAK_FIRST record is driven INACTIVE (R81). -/
theorem State.breakFor_some {y : Nat} (output : s.outputAt y = some o) (active : o.level = .active)
    (sound : o.isFaulted = false) :
    s.breakFor (some y) = (s.setChan y (.output (o.drivenTo .inactive s.now s.elapsed))).setPins o.cfg.pins
      (.driving y (o.cfg.presents .inactive)) := by
  rw [State.breakFor, State.breakPartner, State.chan_of_outputAt output]
  dsimp only
  rw [if_pos ⟨active, sound⟩, State.driveOutput_eq]

/-- Whatever carries a verdict out as the engine does, with `hand` for a drive, goes on as R59 to R61 state. -/
theorem State.goesOnTo_carried {hand : Output → Level → Option Nat → State} {carry : Verdict → State}
    (fails : ∀ reason, carry (.fail reason) = s.failOccurrence e reason s.now)
    (defers : ∀ k broken, carry (.defer k broken) = (s.breakFor broken).rephase e (.deferred e.due k))
    (drives : ∀ o l rel, s.outputAt e.act.target = some o → s.mayDrive e o l rel → carry (.drive l rel) = hand o l rel) :
    s.goesOnTo e hand (carry (s.judgeFromFault e)) := by
  intro o l rel output hl hrel
  obtain rfl : l = e.act.kind.result o.level := hl.trans (ActionKind.result_eq ..).symm
  obtain rfl : rel = e.act.kind.release s.now := hrel.trans (ActionKind.release_eq ..).symm
  refine ⟨fun faulted => ⟨fun safe none => ?_, fun other => ?_⟩, fun sound => ⟨fun free => ?_,
    fun i r y oy off on position ne before names partner => ?_⟩⟩
  · rw [State.judgeFromFault_faulted output faulted, if_pos ⟨safe, none⟩]
    refine drives o _ _ output ⟨fun _ => ⟨safe, rfl⟩, fun sound => ?_⟩
    rw [faulted] at sound
    cases sound
  · rw [State.judgeFromFault_faulted output faulted, if_neg, fails]
    rintro ⟨safe, none⟩
    rcases other with other | timed
    · exact other safe
    · rw [none] at timed
      cases timed
  · rw [State.judgeFromFault_free output sound free]
    refine drives o _ _ output ⟨fun faulted => ?_, fun _ => free⟩
    rw [sound] at faulted
    cases faulted
  · have named := Interlock.partner_of_names ne names
    have decided := fun a => State.interlockCheck_first (owner := e.owner) (answer := a) position before
    have checked := State.judgeFromFault_checked output sound off on
    refine ⟨fun active kept => ?_, fun active mode own unfaulted => ?_, fun k inactive last running => ?_⟩
    · rw [checked, decided _ (State.judgeRecord_refused named partner active kept)]
      exact fails _
    · rw [checked, decided _ (State.judgeRecord_broken named partner active mode own unfaulted)]
      exact (defers _ _).trans (by rw [State.breakFor_some partner active unfaulted]; rfl)
    · rw [checked, decided _ (State.judgeRecord_deadTime named partner inactive last running)]
      exact defers _ _

/-- The engine's verdict goes on as R59 to R61 state, with the drive handed over (R62). -/
theorem State.goesOnTo_applyVerdict (s : State) (e : Entry) :
    s.goesOnTo e (fun _ l rel => s.handsOver e l rel) (s.applyVerdict e (s.judgeFromFault e)) :=
  State.goesOnTo_carried (fun _ => rfl) (fun _ _ => rfl) fun _ _ _ _ _ => rfl

end

/-! ### The guard (R55, R56) -/

theorem State.guardMatches_iff (s : State) (g : Guard) : s.guardMatches g = true ↔ s.meets g := by
  unfold State.guardMatches State.meets State.inputAt
  cases s.chan g.channel with
  | unbound => simp
  | output o => simp
  | input i => cases g.level <;> cases h : i.level <;> simp [h]

theorem State.not_meets {s : State} {g : Guard} (other : ∀ i, s.inputAt g.channel = some i → i.level ≠ (match g.level with
    | .high => .high
    | .low => .low)) : s.guardMatches g = false := by
  rw [← Bool.not_eq_true, State.guardMatches_iff]
  rintro ⟨i, input, level⟩
  exact other i input level

/-- With its guard matched, or without one, an entry goes on to the fault test. -/
theorem State.judge_met {s : State} {e : Entry} (met : ∀ g, e.act.grd = some g → s.meets g) :
    s.judge e = s.judgeFromFault e := by
  unfold State.judge
  split
  · rfl
  · exact if_pos ((s.guardMatches_iff _).2 (met _ ‹_›))

theorem State.judge_skip {s : State} {e : Entry} {g : Guard} (guarded : e.act.grd = some g)
    (unmet : s.guardMatches g = false) (mode : g.mode = .skip) : s.judge e = .fail .guardFalse := by
  simp only [State.judge, guarded, unmet, Bool.false_eq_true, if_false, mode]

theorem State.judge_wait {s : State} {e : Entry} {g : Guard} {k : Nat} (guarded : e.act.grd = some g)
    (unmet : s.guardMatches g = false) (mode : g.mode = .wait k) :
    s.judge e = .waitGuard (min (s.now + k) (2 ^ 48 - 1)) := by
  simp only [State.judge, guarded, unmet, Bool.false_eq_true, if_false, mode]
  rfl

/-! ### The entry attended to (R53, R54, R58) -/

theorem State.not_withheld_iff (s : State) (e : Entry) :
    s.withheld e = false ↔ s.stop.run = .running ∧ (s.session e.owner).isOpen = true := by
  rw [← Bool.not_eq_true', State.not_withheld_eq, Bool.and_eq_true, decide_eq_true_eq, and_comm]

theorem State.keyReached_iff (s : State) (e : Entry) : s.keyReached e = true ↔ ∃ k, e.phase.key? = some k ∧ k ≤ s.now := by
  unfold State.keyReached State.reached
  cases e.phase.key? <;> simp

/-- The entry the engine attends to is the one that its events take. -/
theorem State.attendsTo.nextReached {s : State} {e : Entry} (h : s.attendsTo e) : s.nextReached = some e := by
  obtain ⟨idle, running, opened, key, before, after, queue, first⟩ := h
  rw [State.nextReached, idle]
  dsimp only
  rw [queue, List.find?_append, List.find?_cons_of_pos]
  · rw [List.find?_eq_none.2 fun x hx taken => ?_]
    · rfl
    · obtain ⟨reached, free⟩ := Bool.and_eq_true_iff.1 taken
      obtain ⟨k, key, le⟩ := (s.keyReached_iff x).1 reached
      have closed := first x hx k key le
      rw [((s.not_withheld_iff x).1 (by simpa using free)).2] at closed
      cases closed
  · rw [(s.keyReached_iff e).2 key, (s.not_withheld_iff e).2 ⟨running, opened⟩]
    rfl

theorem execEntryDue_eq {s : State} {e : Entry} (attended : s.attendsTo e) (scheduled : e.phase.isWaitingGuard = false) :
    exec .entryDue s = .next (s.applyVerdict e (s.judge e)) := by
  show execEntryDue s = _
  rw [execEntryDue, attended.nextReached]
  exact if_neg (by rw [scheduled]; exact Bool.false_ne_true)

/-- Settles O36: the guard is met, and the verdict goes on as R59 to R61 state. -/
theorem entryDueFires : Obligations.EntryDueFires := by
  intro s e o l rel attended scheduled output met level release
  have step := execEntryDue_eq attended scheduled
  rw [State.judge_met met] at step
  rw [step]
  simp only [Host.Outcome.next.injEq]
  exact (s.goesOnTo_applyVerdict e o l rel output level release).symm

/-! ### Level changes judged again (R57) -/

theorem State.reevaluates_iff (s : State) (c : Nat) (e : Entry) :
    s.reevaluates c e = true ↔ e.phase.isWaitingGuard = true ∧ (∃ g, e.act.grd = some g ∧ g.channel = c) ∧
      s.stop.run = .running ∧ (s.session e.owner).isOpen = true := by
  unfold State.reevaluates
  rw [Bool.and_eq_true, Bool.and_eq_true, Bool.not_eq_true', State.not_withheld_iff, Option.any_eq_true, and_assoc]
  simp only [beq_iff_eq]

/-- A level change that names no entry still waiting is not kept. -/
theorem State.standing_waiting_nil {s : State} {l : LevelChange}
    (gone : ∀ x ∈ s.queue, x.adm ∉ l.waiting ∨ x.phase.isWaitingGuard = false ∨ s.stop.run = .stopped ∨
      (s.session x.owner).isOpen = false) : (s.standing l).waiting = [] := by
  refine List.filter_eq_nil_iff.2 fun m _ stands => ?_
  obtain ⟨x, hx, same⟩ := List.any_eq_true.1 stands
  obtain ⟨-, awaited⟩ := Bool.and_eq_true_iff.1 same
  obtain ⟨named, again⟩ := Bool.and_eq_true_iff.1 awaited
  obtain ⟨waits, -, running, opened⟩ := (s.reevaluates_iff _ x).1 again
  rcases gone x hx with unnamed | idle | stopped | closed
  · exact unnamed (List.contains_iff_mem.1 named)
  · rw [waits] at idle
    cases idle
  · rw [running] at stopped
    cases stopped
  · rw [opened] at closed
    cases closed

theorem State.standingChanges_cons_nil {s : State} {l : LevelChange} {ls : List LevelChange}
    (changes : s.levelChanges = l :: ls) (nil : (s.standing l).waiting = []) :
    s.standingChanges = { s with levelChanges := ls }.standingChanges := by
  rw [State.standingChanges, changes, List.map_cons, List.filter_cons_of_neg (by simp [nil])]
  rfl

theorem execGuardReevaluation_idle {s : State} (idle : s.inFlight = none) :
    exec .guardReevaluation s = s.nextReevaluation.elim (.next s.passOver) fun x =>
      .next ({ s with levelChanges := x.2 }.reevaluate x.1) := by
  show execGuardReevaluation s = _
  unfold execGuardReevaluation
  rw [idle]
  cases s.nextReevaluation <;> rfl

/-- What GUARD_REEVALUATION does rests on the changes that stand. -/
theorem execGuardReevaluation_of_standing {s : State} {ls : List LevelChange} (idle : s.inFlight = none)
    (same : s.standingChanges = { s with levelChanges := ls }.standingChanges) :
    exec .guardReevaluation s = exec .guardReevaluation { s with levelChanges := ls } := by
  have next : s.nextReevaluation = { s with levelChanges := ls }.nextReevaluation := by
    unfold State.nextReevaluation
    rw [← same]
    rfl
  rw [execGuardReevaluation_idle idle, execGuardReevaluation_idle (s := { s with levelChanges := ls }) idle, next,
    State.passOver, same]
  rfl

theorem execGuardReevaluation_none {s : State} (idle : s.inFlight = none) (none : s.levelChanges = []) :
    exec .guardReevaluation s = .next s := by
  have nothing : s.standingChanges = [] := by rw [State.standingChanges, none]; rfl
  have next : s.nextReevaluation = .none := by rw [State.nextReevaluation, nothing]
  rw [execGuardReevaluation_idle idle, next, State.passOver, nothing, ← none]
  rfl

section
variable {s : State} {e : Entry} {g : Guard} {l : LevelChange} {ls : List LevelChange}

/-- The changes that are left once entry `e` of the oldest, `l`, is judged. -/
def State.changesAfter (s : State) (e : Entry) (l : LevelChange) (ls : List LevelChange) : List LevelChange :=
  { s with levelChanges := { l with waiting := l.waiting.filter fun m => m != e.adm } :: ls }.standingChanges

theorem State.changesAfter_stand (s : State) (e : Entry) (l : LevelChange) (ls : List LevelChange) :
    s.changesStand ({ l with waiting := l.waiting.filter fun m => m != e.adm } :: ls) (s.changesAfter e l ls) :=
  State.changesStand_standingChanges
    { s with levelChanges := { l with waiting := l.waiting.filter fun m => m != e.adm } :: ls }

/-- The first waiting entry of the oldest change is the one judged again, and the change goes on without it. -/
theorem State.nextReevaluation_eq {before after : List Entry} (changes : s.levelChanges = l :: ls)
    (queue : s.queue = before ++ e :: after) (named : e.adm ∈ l.waiting) (again : s.reevaluates l.channel e = true)
    (first : ∀ x ∈ before, x.adm ∈ l.waiting → s.reevaluates l.channel x = false) :
    s.nextReevaluation = some (e, s.changesAfter e l ls) := by
  have kept : e.adm ∈ (s.standing l).waiting := by
    rw [State.standing_eq]
    refine List.mem_filter.2 ⟨named, List.any_eq_true.2 ⟨e, ?_, by simp [again]⟩⟩
    rw [queue]
    exact List.mem_append_right _ (List.mem_cons_self ..)
  have within : ∀ m ∈ (s.standing l).waiting, m ∈ l.waiting := fun m hm => List.mem_of_mem_filter hm
  have standing : s.standingChanges =
      s.standing l :: (ls.map s.standing).filter fun l => !l.waiting.isEmpty := by
    rw [State.standingChanges, changes, List.map_cons, List.filter_cons_of_pos]
    simpa using List.ne_nil_of_mem kept
  have found : s.queue.find? (s.awaits (s.standing l)) = some e := by
    rw [queue, List.find?_append, List.find?_cons_of_pos]
    · rw [List.find?_eq_none.2 fun x hx awaited => ?_]
      · rfl
      · obtain ⟨mine, reevaluated⟩ := Bool.and_eq_true_iff.1 awaited
        have never := first x hx (within _ (List.contains_iff_mem.1 mine))
        rw [show s.reevaluates l.channel x = true from reevaluated] at never
        cases never
    · exact Bool.and_eq_true_iff.2 ⟨List.contains_iff_mem.2 kept, again⟩
  have rest : s.standing { l with waiting := l.waiting.filter fun m => m != e.adm } =
      { s.standing l with waiting := (s.standing l).waiting.filter fun m => m != e.adm } := by
    rw [State.standing_eq, State.standing_eq]
    dsimp only
    rw [List.filter_comm]
  rw [State.nextReevaluation, standing]
  dsimp only
  rw [found, Option.map_some]
  refine congrArg (fun x => some (e, x)) ?_
  have after : s.changesAfter e l ls =
      (s.standing { l with waiting := l.waiting.filter fun m => m != e.adm } :: ls.map s.standing).filter
        fun l => !l.waiting.isEmpty := rfl
  rw [after, rest, List.filter_cons]
  dsimp only
  cases (s.standing l).waiting.filter fun m => m != e.adm with
  | nil => rfl
  | cons m ms => rfl

/-- GUARD_REEVALUATION of the entry that comes next. -/
theorem execGuardReevaluation_eq {ls' : List LevelChange} (idle : s.inFlight = none)
    (next : s.nextReevaluation = some (e, ls')) (guarded : e.act.grd = some g) :
    exec .guardReevaluation s = .next (if s.guardMatches g then
      { s with levelChanges := ls' }.applyVerdict e ({ s with levelChanges := ls' }.judgeFromFault e)
      else { s with levelChanges := ls' }) := by
  rw [execGuardReevaluation_idle idle, next, Option.elim_some, State.reevaluate, guarded]
  rfl

end

/-- Settles O37: the guard's verdicts, the deadline, and the level changes that stand. -/
theorem guardsHoldEntries : Obligations.GuardsHoldEntries := by
  refine ⟨fun s l ls idle changes gone => execGuardReevaluation_of_standing idle
      (State.standingChanges_cons_nil changes (State.standing_waiting_nil gone)),
    fun s idle none => execGuardReevaluation_none idle none, fun s e g guarded => ⟨fun attended scheduled unmet => ?_,
    fun attended waits => ?_, fun l ls before after idle running changes queue first named waits channel opened => ?_⟩⟩
  · have step := execEntryDue_eq attended scheduled
    refine ⟨fun mode => ?_, fun k mode => ?_⟩
    · rw [step, State.judge_skip guarded (State.not_meets unmet) mode]
      rfl
    · rw [step, State.judge_wait guarded (State.not_meets unmet) mode]
      rfl
  · have next := attended.nextReached
    constructor
    · show execGuardDeadline s = _
      rw [execGuardDeadline, next]
      exact if_pos waits
    · show execEntryDue s = _
      rw [execEntryDue, next]
      exact if_pos waits
  · have again : s.reevaluates l.channel e = true :=
      (s.reevaluates_iff _ _).2 ⟨waits, ⟨g, guarded, channel⟩, running, opened⟩
    have next := State.nextReevaluation_eq changes queue named again fun x hx mine => by
      rw [Bool.eq_false_iff]
      intro reevaluated
      obtain ⟨waiting, -, -, open'⟩ := (s.reevaluates_iff _ _).1 reevaluated
      rcases first x hx with unnamed | idle | closed
      · exact unnamed mine
      · rw [waiting] at idle
        cases idle
      · rw [open'] at closed
        cases closed
    have step := execGuardReevaluation_eq idle next guarded
    refine ⟨s.changesAfter e l ls, s.changesAfter_stand e l ls, fun unmet => ?_,
      fun met => ⟨_, _, rfl, ?_, State.goesOnTo_applyVerdict _ e⟩⟩
    · rw [step, State.not_meets unmet]
      rfl
    · rw [step, if_pos ((s.guardMatches_iff g).2 met)]

end Sys2Proof.Machine
end

section
/-!
Drives of several outputs to their safe levels (R85), the report that goes to every session (R115), and HALT: O27.
-/

namespace Sys2Proof.Machine

/-! ### One output after the drives -/

/-- Channel `c` is the partner of an output of `l` that is not FAULTED and whose safe level is ACTIVE (R85). -/
def State.breaksFrom (s : State) (l : List Nat) (c : Nat) : Prop :=
  ∃ x ∈ l, c ∈ s.partnersOf x ∧ ∃ ox, s.chan x = .output ox ∧ ox.isFaulted = false ∧ ox.cfg.safe = .active

open Classical in
/-- What output `c` becomes by the drives of the channels of `l` to their safe levels (R21, R23, R85). -/
noncomputable def State.restOutput (s : State) (l : List Nat) (c : Nat) (o : Output) : Output :=
  if o.isFaulted = true then o
  else if c ∈ l then o.drivenTo o.cfg.safe s.now s.elapsed
  else if s.breaksFrom l c ∧ o.level = .active then o.drivenTo .inactive s.now s.elapsed
  else o

section
variable {s : State} {l : List Nat} {c : Nat} {o : Output}

theorem State.restOutput_faulted (h : o.isFaulted = true) : s.restOutput l c o = o := if_pos h

theorem State.restOutput_driven (sound : o.isFaulted = false) (h : c ∈ l) :
    s.restOutput l c o = o.drivenTo o.cfg.safe s.now s.elapsed := by
  rw [State.restOutput, if_neg (by simp [sound]), if_pos h]

theorem State.restOutput_broken (sound : o.isFaulted = false) (h : c ∉ l) (broken : s.breaksFrom l c)
    (active : o.level = .active) : s.restOutput l c o = o.drivenTo .inactive s.now s.elapsed := by
  rw [State.restOutput, if_neg (by simp [sound]), if_neg h, if_pos ⟨broken, active⟩]

theorem State.restOutput_same (h : c ∉ l) (stays : ¬(s.breaksFrom l c ∧ o.level = .active)) : s.restOutput l c o = o := by
  rw [State.restOutput, if_neg h, if_neg stays, ite_self]

end

/-- Driven INACTIVE twice at one time is driven once. -/
theorem Output.drivenTo_inactive_twice (o : Output) (now elapsed : Nat) :
    (o.drivenTo .inactive now elapsed).drivenTo .inactive now elapsed = o.drivenTo .inactive now elapsed := by
  simp [Output.drivenTo]

theorem State.restOutput_cfg (s : State) (l : List Nat) (c : Nat) (o : Output) : (s.restOutput l c o).cfg = o.cfg := by
  unfold State.restOutput
  split
  · rfl
  · split
    · rfl
    · split <;> rfl

theorem State.restOutput_isFaulted (s : State) (l : List Nat) (c : Nat) (o : Output) :
    (s.restOutput l c o).isFaulted = o.isFaulted := by
  unfold State.restOutput
  split
  · rfl
  · rename_i sound
    rw [Bool.not_eq_true] at sound
    rw [sound]
    split
    · rfl
    · split
      · rfl
      · exact sound

/-- An output whose partner has the safe level ACTIVE has the safe level INACTIVE (R76). -/
theorem State.breaksFrom.safe {s : State} (kept : s.joinedKept) {l : List Nat} {c : Nat} {o : Output}
    (broken : s.breaksFrom l c) (output : s.chan c = .output o) : o.cfg.safe = .inactive := by
  obtain ⟨x, -, partner, ox, ex, -, safe⟩ := broken
  cases h : o.cfg.safe with
  | active => exact absurd ⟨safe, h⟩ (kept.partner partner ex output).2.2
  | inactive => rfl

/-- A FAULTED output is not broken: it is at its safe level, which is INACTIVE. -/
theorem State.breaksFrom.sound {s : State} (kept : s.joinedKept) {l : List Nat} {c : Nat} {o : Output}
    (broken : s.breaksFrom l c) (output : s.chan c = .output o) (active : o.level = .active) : o.isFaulted = false := by
  cases f : o.isFaulted with
  | false => rfl
  | true =>
    have rest := (kept.1 c o output f).1
    rw [active, broken.safe kept output] at rest
    cases rest

theorem State.breaksFrom_cons (s : State) (d : Nat) (l : List Nat) (c : Nat) :
    s.breaksFrom (d :: l) c ↔ s.breaksFrom [d] c ∨ s.breaksFrom l c := by
  unfold State.breaksFrom
  simp only [List.mem_cons, List.not_mem_nil, or_false, exists_eq_left, or_and_right, exists_or]

/-! ### One drive -/

/-- A drive to a safe level: what becomes of each output, and the rest as it was. -/
theorem State.driveSafe_rest {s : State} (kept : s.joinedKept) (d : Nat) (c : Nat) :
    (∀ o, s.chan c = .output o → (s.driveSafe d).chan c = .output (s.restOutput [d] c o)) ∧
      ((∀ o, s.chan c ≠ .output o) → (s.driveSafe d).chan c = s.chan c) := by
  by_cases driven : ∃ od, s.chan d = .output od ∧ od.isFaulted = false
  · obtain ⟨od, ed, sound⟩ := driven
    obtain ⟨self, others⟩ := s.driveSafe_chan d od ed sound
    by_cases hc : c = d
    · subst hc
      refine ⟨fun o e => ?_, fun none => absurd ed (none od)⟩
      cases ed.symm.trans e
      rw [self, State.restOutput_driven sound (List.mem_cons_self ..)]
    · obtain ⟨broken, same⟩ := others c hc
      have notIn : c ∉ [d] := by simpa using hc
      refine ⟨fun o e => ?_, fun none => same fun o e => absurd e (none o)⟩
      by_cases breaks : s.breaksFrom [d] c ∧ o.level = .active
      · obtain ⟨x, hx, partner, ox, ex, -, safe⟩ := breaks.1
        obtain rfl : x = d := by simpa using hx
        cases ed.symm.trans ex
        have off : od.level = .inactive := by
          cases h : od.level with
          | inactive => rfl
          | active => exact absurd ⟨h, breaks.2⟩ (kept.partner partner ed e).2.1
        have faultless := breaks.1.sound kept e breaks.2
        rw [broken o e safe off breaks.2 faultless partner, State.restOutput_broken faultless notIn breaks.1 breaks.2]
      · rw [State.restOutput_same notIn breaks, same, e]
        rintro o' e' ⟨safe, -, active, -, partner⟩
        cases e.symm.trans e'
        exact breaks ⟨⟨d, List.mem_cons_self .., partner, od, ed, sound, safe⟩, active⟩
  · have nothing : s.driveSafe d = s := by
      rcases s.driveSafe_cases d with ⟨same, -⟩ | ⟨o, o', e, -, -, -, -⟩
      · exact same
      · have faulted : o.isFaulted = true := by
          cases f : o.isFaulted with
          | true => rfl
          | false => exact absurd ⟨o, e, f⟩ driven
        unfold State.driveSafe
        rw [e]
        exact if_pos faulted
    have unbroken : ¬s.breaksFrom [d] c := by
      rintro ⟨x, hx, -, ox, ex, sound, -⟩
      obtain rfl : x = d := by simpa using hx
      exact driven ⟨ox, ex, sound⟩
    rw [nothing]
    refine ⟨fun o e => ?_, fun _ => rfl⟩
    by_cases hc : c = d
    · subst hc
      have faulted : o.isFaulted = true := by
        cases f : o.isFaulted with
        | true => rfl
        | false => exact absurd ⟨o, e, f⟩ driven
      rw [State.restOutput_faulted faulted, e]
    · rw [State.restOutput_same (by simpa using hc) fun k => unbroken k.1, e]

/-! ### Drives one after another -/

/-- Reading one drive and then the others is reading them all. -/
theorem State.restOutput_cons {s s1 : State} (kept : s.joinedKept) {d c : Nat} {l : List Nat} {o : Output}
    (new : d ∉ l) (output : s.chan c = .output o) (now : s1.now = s.now) (elapsed : s1.elapsed = s.elapsed)
    (breaks : s1.breaksFrom l c ↔ s.breaksFrom l c) :
    s1.restOutput l c (s.restOutput [d] c o) = s.restOutput (d :: l) c o := by
  cases sound : o.isFaulted with
  | true => rw [State.restOutput_faulted sound, State.restOutput_faulted sound, State.restOutput_faulted sound]
  | false =>
  have first := (State.restOutput_isFaulted s [d] c o).trans sound
  by_cases hc : c = d
  · subst hc
    rw [State.restOutput_driven (l := [c]) sound (List.mem_cons_self ..), State.restOutput_driven sound
      (List.mem_cons_self ..), State.restOutput_same new]
    rintro ⟨broken, active⟩
    have safe := (breaks.1 broken).safe kept output
    rw [safe] at active
    cases active
  have notFirst : c ∉ [d] := by simpa using hc
  by_cases broken : s.breaksFrom [d] c ∧ o.level = .active
  · have step := State.restOutput_broken sound notFirst broken.1 broken.2
    rw [step] at first ⊢
    by_cases mem : c ∈ l
    · rw [State.restOutput_driven first mem, State.restOutput_driven sound (List.mem_cons_of_mem _ mem),
        broken.1.safe kept output, now, elapsed]
      show Output.drivenTo _ o.cfg.safe _ _ = _
      rw [broken.1.safe kept output, Output.drivenTo_inactive_twice]
    · rw [State.restOutput_same mem (fun k => (by cases k.2)), State.restOutput_broken sound
        (by simp [hc, mem]) ((s.breaksFrom_cons d l c).2 (.inl broken.1)) broken.2]
  · rw [State.restOutput_same notFirst broken]
    by_cases mem : c ∈ l
    · rw [State.restOutput_driven sound mem, State.restOutput_driven sound (List.mem_cons_of_mem _ mem), now, elapsed]
    · have notIn : c ∉ d :: l := by simp [hc, mem]
      by_cases later : s.breaksFrom l c ∧ o.level = .active
      · rw [State.restOutput_broken sound mem (breaks.2 later.1) later.2, State.restOutput_broken sound notIn
          ((s.breaksFrom_cons d l c).2 (.inr later.1)) later.2, now, elapsed]
      · rw [State.restOutput_same mem fun k => later ⟨breaks.1 k.1, k.2⟩, State.restOutput_same notIn]
        rintro ⟨k, active⟩
        rcases (s.breaksFrom_cons d l c).1 k with k | k
        · exact broken ⟨k, active⟩
        · exact later ⟨k, active⟩

/-- What an output breaks is not changed by the drives of others. -/
theorem State.breaksFrom_driveSafe {s : State} (kept : s.joinedKept) (d : Nat) (l : List Nat) (c : Nat) :
    (s.driveSafe d).breaksFrom l c ↔ s.breaksFrom l c := by
  obtain ⟨ch, ps, frame⟩ := s.driveSafe_frame d
  have partners : ∀ x, (s.driveSafe d).partnersOf x = s.partnersOf x := fun x => by rw [frame]; rfl
  have output : ∀ x, (∃ ox, (s.driveSafe d).chan x = .output ox ∧ ox.isFaulted = false ∧ ox.cfg.safe = .active) ↔
      ∃ ox, s.chan x = .output ox ∧ ox.isFaulted = false ∧ ox.cfg.safe = .active := by
    intro x
    obtain ⟨becomes, same⟩ := State.driveSafe_rest kept d x
    constructor
    · rintro ⟨ox, ex, sound, safe⟩
      by_cases bound : ∃ o, s.chan x = .output o
      · obtain ⟨o, e⟩ := bound
        cases (becomes o e).symm.trans ex
        rw [State.restOutput_isFaulted] at sound
        rw [State.restOutput_cfg] at safe
        exact ⟨o, e, sound, safe⟩
      · rw [same fun o e => bound ⟨o, e⟩] at ex
        exact ⟨ox, ex, sound, safe⟩
    · rintro ⟨o, e, sound, safe⟩
      exact ⟨_, becomes o e, (State.restOutput_isFaulted ..).trans sound, by rw [State.restOutput_cfg]; exact safe⟩
  unfold State.breaksFrom
  simp only [partners, output]

/-- The drives of the channels of `l` to their safe levels: what becomes of each output, and the rest as it was. -/
theorem State.foldl_driveSafe_rest {s : State} (kept : s.joinedKept) {l : List Nat} (distinct : l.Nodup) (c : Nat) :
    (∀ o, s.chan c = .output o → (l.foldl State.driveSafe s).chan c = .output (s.restOutput l c o)) ∧
      ((∀ o, s.chan c ≠ .output o) → (l.foldl State.driveSafe s).chan c = s.chan c) := by
  induction l generalizing s with
  | nil =>
    refine ⟨fun o e => ?_, fun _ => rfl⟩
    rw [State.restOutput_same List.not_mem_nil]
    · exact e
    · rintro ⟨⟨x, hx, -⟩, -⟩
      cases hx
  | cons d l ih =>
    obtain ⟨new, distinct⟩ := List.nodup_cons.1 distinct
    obtain ⟨becomes, same⟩ := State.driveSafe_rest kept d c
    obtain ⟨becomes', same'⟩ := ih (State.joinedKept_driveSafe kept d).1 distinct
    obtain ⟨ch, ps, frame⟩ := s.driveSafe_frame d
    rw [List.foldl_cons]
    refine ⟨fun o e => ?_, fun none => ?_⟩
    · rw [becomes' _ (becomes o e), State.restOutput_cons kept new e (by rw [frame]; rfl) (by rw [frame]; rfl)
        (State.breaksFrom_driveSafe kept d l c)]
    · rw [same' fun o e => none o ((same none).symm.trans e), same none]

/-- The statement's account of such drives (R85). -/
theorem State.restsWhere_foldl_driveSafe {s : State} (kept : s.joinedKept) {l : List Nat} (distinct : l.Nodup)
    {who : Output → Prop} (chosen : ∀ c o, s.chan c = .output o → (c ∈ l ↔ who o)) :
    s.restsWhere who (l.foldl State.driveSafe s) := by
  have broken : ∀ c, s.brokenBy who c ↔ s.breaksFrom l c := by
    intro c
    constructor
    · rintro ⟨i, r, x, ox, position, names, ex, selected, sound, safe⟩
      have ex := State.chan_of_outputAt ex
      refine ⟨x, (chosen x ox ex).2 selected, (s.mem_partnersOf x c).2 ⟨i, r, position, ?_⟩, ox, ex, sound, safe⟩
      exact Interlock.partner_of_names (kept.2 i r position).1 (names.imp id And.symm)
    · rintro ⟨x, mem, partner, ox, ex, sound, safe⟩
      obtain ⟨i, r, position, named⟩ := (s.mem_partnersOf x c).1 partner
      exact ⟨i, r, x, ox, position, (Interlock.partner_eq_some named).imp id And.symm, State.outputAt_of_chan ex,
        (chosen x ox ex).1 mem, sound, safe⟩
  refine ⟨fun c none => (State.foldl_driveSafe_rest kept distinct c).2 fun o e => ?_, fun c o output => ?_⟩
  · rw [State.outputAt_of_chan e] at none
    cases none
  · have e := State.chan_of_outputAt output
    have result := State.outputAt_of_chan ((State.foldl_driveSafe_rest kept distinct c).1 o e)
    have mem := chosen c o e
    refine ⟨fun h sound => ?_, fun _ faulted => ?_, fun h breaks active => ?_, fun h stays => ?_⟩
    · rw [result, State.restOutput_driven sound (mem.2 h)]
    · rw [result, State.restOutput_faulted faulted]
    · have breaks := (broken c).1 breaks
      rw [result, State.restOutput_broken (breaks.sound kept e active) (fun k => h (mem.1 k)) breaks active]
    · rw [result, State.restOutput_same (fun k => h (mem.1 k)) fun k => stays ⟨(broken c).2 k.1, k.2⟩]

/-- The account rests on channels, interlock records and the clock alone. -/
theorem State.restsWhere.of_same {s s' t t' : State} {who : Output → Prop} (h : s'.restsWhere who t')
    (channels : s'.channels = s.channels) (interlocks : s'.interlocks = s.interlocks) (time : s'.time = s.time)
    (result : t'.channels = t.channels) : s.restsWhere who t := by
  have chan : s'.chan = s.chan := by unfold State.chan; rw [channels]
  have interlock : s'.interlock = s.interlock := by unfold State.interlock; rw [interlocks]
  have chan' : t'.chan = t.chan := by unfold State.chan; rw [result]
  unfold State.restsWhere State.brokenBy State.outputAt State.now State.elapsed at h ⊢
  rw [chan, interlock, chan', time] at h
  exact h

/-! ### A report to every session (R115) -/

/-- What a report does to the report queues rests on them and on whether its session is live. -/
theorem State.addReport_reportQueue_of_same {s t : State} {n : Nat} (live : (t.session n).live = (s.session n).live)
    {m : Nat} (same : t.reportQueue m = s.reportQueue m) (time : Nat) (body : ReportBody) :
    (t.addReport n time body).reportQueue m = (s.addReport n time body).reportQueue m := by
  by_cases hm : m = n
  · subst hm
    cases h : (s.session m).live with
    | true => rw [State.addReport_same _ _ _ _ h, State.addReport_same _ _ _ _ (live.trans h), same]
    | false => rw [State.addReport_free _ _ _ _ h, State.addReport_free _ _ _ _ (live.trans h), same]
  · rw [State.addReport_other _ _ _ _ _ hm, State.addReport_other _ _ _ _ _ hm, same]

/-- One report for each session of a list. -/
theorem State.reportQueue_foldl_addReport (l : List Nat) (distinct : l.Nodup) (s : State) (time : Nat) (body : ReportBody)
    (m : Nat) : (l.foldl (fun u n => u.addReport n time body) s).reportQueue m =
      if m ∈ l then (s.addReport m time body).reportQueue m else s.reportQueue m := by
  induction l generalizing s with
  | nil => simp
  | cons n l ih =>
    obtain ⟨new, distinct⟩ := List.nodup_cons.1 distinct
    rw [List.foldl_cons, ih distinct]
    by_cases hm : m = n
    · subst hm
      rw [if_neg new, if_pos (List.mem_cons_self ..)]
    · have other := s.addReport_other n m time body hm
      have member : m ∈ n :: l ↔ m ∈ l := by simp [hm]
      simp only [member, other]
      split
      · exact State.addReport_reportQueue_of_same (congrArg Session.live (s.addReport_session ..)) other time body
      · rfl

theorem State.reportToAll_reportQueue (s : State) (time : Nat) (body : ReportBody) (m : Nat) :
    (s.reportToAll time body).reportQueue m = (s.addReport m time body).reportQueue m := by
  rw [State.reportToAll, State.reportQueue_foldl_addReport sessionNumbers (by decide)]
  split
  · rfl
  · rename_i out
    have number : m = 0 ∨ 5 < m := by
      simp only [sessionNumbers, List.mem_cons, List.not_mem_nil, or_false, not_or] at out
      omega
    rw [State.addReport_free]
    rw [s.session_free_out m number]
    rfl

theorem State.reportToAll_frame (s : State) (time : Nat) (body : ReportBody) :
    ∃ r, s.reportToAll time body = { s with reports := r } := by
  unfold State.reportToAll
  induction sessionNumbers generalizing s with
  | nil => exact ⟨_, rfl⟩
  | cons n l ih =>
    obtain ⟨r, first⟩ := s.addReport_frame n time body
    obtain ⟨r', rest⟩ := ih (s.addReport n time body)
    exact ⟨r', by rw [List.foldl_cons, rest, first]⟩

/-! ### The arrival of a frame (R122, R125) -/

section
variable {s : State} {p : Port} {n : Nat} {h : HostSession} {f : Frame} {rest : List Frame} {code : Byte}

theorem State.arrived_session_ne {m : Nat} (other : m ≠ n) : (s.arrived p n h rest).session m = s.session m := by
  have arrived : (s.arrived p n h rest).session m =
      (s.setSession n (.host { h with life := .opened (s.elapsed + h.interval) })).session m := by
    cases p <;> rfl
  rw [arrived, State.session_setSession_ne _ _ _ _ other.symm]

/-- The arrival of a frame leaves every session live that is so. -/
theorem State.arrived_live (live : s.session n = .host h) (m : Nat) :
    ((s.arrived p n h rest).session m).live = (s.session m).live := by
  by_cases hm : m = n
  · subst hm
    rw [State.arrived_session live, live]
    rfl
  · rw [State.arrived_session_ne hm]

theorem State.arrived_addReport (live : s.session n = .host h) (k m time : Nat) (body : ReportBody) :
    ((s.arrived p n h rest).addReport k time body).reportQueue m = (s.addReport k time body).reportQueue m :=
  State.addReport_reportQueue_of_same (s.arrived_live live k) (s.arrived_reportQueue p n h rest m) time body

end

/-! ### HALT (R108, R109) -/

/-- An entry into STOPPED. -/
theorem State.enterStopped_spec (s : State) (byLine : Bool) (n : Nat) (first : Option Nat) : ∃ ch ps r,
    s.enterStopped byLine n first = { s with
      stop := { s.stop.addCause byLine with run := .stopped, entryTime := some s.now, safeAsserted := true }
      levelChanges := [], channels := ch, pins := ps, reports := r } ∧
    (s.joinedKept → s.restsWhere (fun _ => True) { s with channels := ch }) ∧
    ∀ m, State.reportQueue { s with reports := r } m = (s.addReport m s.now (.stopChange
      ⟨.entered, byLine, .stopped, (s.stop.addCause byLine).line, (s.stop.addCause byLine).request, n, first,
        some s.now⟩)).reportQueue m := by
  set s1 := { s with stop := { s.stop.addCause byLine with run := .stopped, entryTime := some s.now }, levelChanges := [] }
  obtain ⟨ch, ps, driven⟩ := State.foldl_frame _ State.driveSafe_frame channelNumbers s1
  set s2 := { s with
    stop := { s.stop.addCause byLine with run := .stopped, entryTime := some s.now, safeAsserted := true }
    levelChanges := [], channels := ch, pins := ps } with hs2
  have entered : s.enterStopped byLine n first = s2.reportStop .entered byLine n first := by
    have passed : State.passOver { s with
        stop := { s.stop.addCause byLine with run := .stopped, entryTime := some s.now } } = s1 := by
      rw [State.passOver, State.standingChanges_of_stopped _ rfl]
    rw [State.enterStopped]
    dsimp only
    rw [passed, State.driveAllSafe, driven]
  obtain ⟨r, reported⟩ := s2.reportToAll_frame s2.now (s2.stopReport .entered byLine n first)
  refine ⟨ch, ps, r, ?_, fun kept => ?_, fun m => ?_⟩
  · rw [entered, State.reportStop, reported]
  · have distinct : channelNumbers.Nodup := List.nodup_range
    have rests := State.restsWhere_foldl_driveSafe (s := s1) (who := fun _ => True) kept distinct fun c o e =>
      iff_of_true (List.mem_range.2 (s1.lt_of_bound (by simp [e]))) trivial
    exact rests.of_same rfl rfl rfl (by rw [driven])
  · have queue : State.reportQueue { s with reports := r } m =
        (s2.reportToAll s2.now (s2.stopReport .entered byLine n first)).reportQueue m := by
      rw [reported]
      rfl
    rw [queue, State.reportToAll_reportQueue]
    exact State.addReport_reportQueue_of_same (s := s) (t := s2) rfl rfl _ _

/-- A cause joins the set of a STOPPED part. -/
theorem State.addCause_spec (s : State) (byLine : Bool) (n : Nat) (first : Option Nat) : ∃ r,
    s.addCause byLine n first = { s with stop := s.stop.addCause byLine, reports := r } ∧
    ∀ m, State.reportQueue { s with reports := r } m = (s.addReport m s.now (.stopChange
      ⟨.causeAdded, byLine, s.stop.run, (s.stop.addCause byLine).line, (s.stop.addCause byLine).request, n, first,
        s.stop.entryTime⟩)).reportQueue m := by
  set s1 := { s with stop := s.stop.addCause byLine } with hs1
  obtain ⟨r, reported⟩ := s1.reportToAll_frame s1.now (s1.stopReport .causeAdded byLine n first)
  refine ⟨r, ?_, fun m => ?_⟩
  · rw [State.addCause, State.reportStop, reported]
  · have queue : State.reportQueue { s with reports := r } m =
        (s1.reportToAll s1.now (s1.stopReport .causeAdded byLine n first)).reportQueue m := by
      rw [reported]
      rfl
    have body : s1.stopReport .causeAdded byLine n first = .stopChange
        ⟨.causeAdded, byLine, s.stop.run, (s.stop.addCause byLine).line, (s.stop.addCause byLine).request, n, first,
          s.stop.entryTime⟩ := by
      cases byLine <;> rfl
    rw [queue, State.reportToAll_reportQueue, body]
    exact State.addReport_reportQueue_of_same (s := s) (t := s1) rfl rfl _ _

/-- The reply of HALT: STOPPED, with REQUEST in the set (R108). -/
theorem stopFields_halted {s : State} (run : s.stop.run = .stopped) (request : s.stop.request = true) :
    s.stopFields = [1, if s.stop.line then 3 else 2] := by
  unfold State.stopFields
  rw [run, request]
  cases s.stop.line <;> rfl

section
variable {s : State} {p : Port} {n : Nat} {h : HostSession} {f : Frame} {rest : List Frame} {code : Byte}

/-- A request in sequence whose rule stops the part. -/
theorem State.takeRequest_stops (received : s.receives p n h f rest code) (serve : Service) {fields : List Byte}
    {st : StopControl} {ls : List LevelChange} {ch : Vector Channel 32} {ps : Vector PinRec 24}
    {rs : Vector ReportQueue 5}
    (served : serve n f.body (s.arrived p n h rest) = ({ s.arrived p n h rest with
      stop := st, levelChanges := ls, channels := ch, pins := ps, reports := rs }, okWith fields)) :
    s.takeRequest p code serve = { s.answered p n h f rest .ok fields with
      stop := st, levelChanges := ls, channels := ch, pins := ps, reports := rs } :=
  State.takeRequest_effect received serve .ok fields
    (fun t => { t with stop := st, levelChanges := ls, channels := ch, pins := ps, reports := rs }) served (fun _ => rfl)
    (fun t r => by unfold State.setSession; split <;> rfl) (fun _ => by cases p <;> rfl) (fun _ _ => by cases p <;> rfl)

/-- A request in sequence whose rule writes the causes and reports. -/
theorem State.takeRequest_causes (received : s.receives p n h f rest code) (serve : Service) {fields : List Byte}
    {st : StopControl} {rs : Vector ReportQueue 5}
    (served : serve n f.body (s.arrived p n h rest) =
      ({ s.arrived p n h rest with stop := st, reports := rs }, okWith fields)) :
    s.takeRequest p code serve = { s.answered p n h f rest .ok fields with stop := st, reports := rs } :=
  State.takeRequest_effect received serve .ok fields (fun t => { t with stop := st, reports := rs }) served (fun _ => rfl)
    (fun t r => by unfold State.setSession; split <;> rfl) (fun _ => by cases p <;> rfl) (fun _ _ => by cases p <;> rfl)

theorem State.joinedKept_arrived (kept : s.joinedKept) : (s.arrived p n h rest).joinedKept := by
  simpa only [State.joinedKept, State.pairKept, State.arrived_chan, State.arrived_interlock, State.arrived_outputAt] using
    kept

/-- HALT on a RUNNING part. -/
theorem execHalt_running (received : s.receives p n h f rest 0x38) (empty : f.body = []) (kept : s.joinedKept)
    (run : s.stop.run = .running) : ∃ t, exec (.halt p) s = .next t ∧ s.restsWhere (fun _ => True) t ∧
      (∀ m, t.reportQueue m = (s.addReport m s.now (.stopChange
        ⟨.entered, false, .stopped, s.stop.line, true, n, none, some s.now⟩)).reportQueue m) ∧
      t = { s.answered p n h f rest .ok [1, if s.stop.line then 3 else 2] with
        stop := { s.stop with run := .stopped, request := true, entryTime := some s.now, safeAsserted := true }
        levelChanges := [], channels := t.channels, pins := t.pins, reports := t.reports } := by
  have live := received.1.2.2.2.2.1
  have stop := s.arrived_stop p n h rest
  obtain ⟨ch, ps, r, entered, rests, reports⟩ := (s.arrived p n h rest).enterStopped_spec false n none
  have halted : (s.arrived p n h rest).haltBy n = { s.arrived p n h rest with
      stop := { s.stop with run := .stopped, request := true, entryTime := some s.now, safeAsserted := true }
      levelChanges := [], channels := ch, pins := ps, reports := r } := by
    rw [State.haltBy, stop, if_pos run, entered, stop, State.arrived_now]
    rfl
  have served : serveHalt n f.body (s.arrived p n h rest) = ({ s.arrived p n h rest with
      stop := { s.stop with run := .stopped, request := true, entryTime := some s.now, safeAsserted := true }
      levelChanges := [], channels := ch, pins := ps, reports := r }, okWith [1, if s.stop.line then 3 else 2]) := by
    rw [serveHalt, if_pos empty, halted, stopFields_halted rfl rfl]
  refine ⟨_, congrArg Host.Outcome.next (State.takeRequest_stops received serveHalt served), ?_, fun m => ?_, rfl⟩
  · exact (rests (State.joinedKept_arrived kept)).of_same (s.arrived_channels ..) (s.arrived_interlocks ..)
      (s.arrived_time ..) rfl
  · have reported := reports m
    rw [State.arrived_addReport live, State.arrived_stop, State.arrived_now] at reported
    exact reported

/-- HALT on a STOPPED part that REQUEST does not hold. -/
theorem execHalt_stopped (received : s.receives p n h f rest 0x38) (empty : f.body = []) (run : s.stop.run = .stopped)
    (request : s.stop.request = false) : ∃ t, exec (.halt p) s = .next t ∧
      (∀ m, t.reportQueue m = (s.addReport m s.now (.stopChange
        ⟨.causeAdded, false, .stopped, s.stop.line, true, n, none, s.stop.entryTime⟩)).reportQueue m) ∧
      t = { s.answered p n h f rest .ok [1, if s.stop.line then 3 else 2] with
        stop := { s.stop with request := true }, reports := t.reports } := by
  have live := received.1.2.2.2.2.1
  have stop := s.arrived_stop p n h rest
  obtain ⟨r, added, reports⟩ := (s.arrived p n h rest).addCause_spec false n none
  have halted : (s.arrived p n h rest).haltBy n =
      { s.arrived p n h rest with stop := { s.stop with request := true }, reports := r } := by
    rw [State.haltBy, stop, run, if_neg (by decide), request, if_neg Bool.false_ne_true, added, stop]
    rfl
  have served : serveHalt n f.body (s.arrived p n h rest) = ({ s.arrived p n h rest with
      stop := { s.stop with request := true }, reports := r }, okWith [1, if s.stop.line then 3 else 2]) := by
    rw [serveHalt, if_pos empty, halted]
    exact congrArg (fun fields => (_, okWith fields)) (stopFields_halted run rfl)
  refine ⟨_, congrArg Host.Outcome.next (State.takeRequest_causes received serveHalt served), fun m => ?_, rfl⟩
  have reported := reports m
  rw [State.arrived_addReport live, State.arrived_stop, State.arrived_now, run] at reported
  exact reported

end

/-- Settles O27: the three cases of R108. -/
theorem haltStops : Obligations.HaltStops := by
  intro s p n h f rest kept received empty
  refine ⟨execHalt_running received empty ((State.pairsKept_iff s).1 kept).1, execHalt_stopped received empty,
    fun run request => ?_⟩
  have halted : (s.arrived p n h rest).haltBy n = s.arrived p n h rest := by
    rw [State.haltBy, State.arrived_stop, run, if_neg (by decide), request, if_pos rfl]
  refine congrArg Host.Outcome.next (State.takeRequest_answered received serveHalt .ok _ ?_)
  have fields := stopFields_halted (s := s.arrived p n h rest) ((congrArg StopControl.run (s.arrived_stop ..)).trans run)
    ((congrArg StopControl.request (s.arrived_stop ..)).trans request)
  rw [State.arrived_stop] at fields
  rw [serveHalt, if_pos empty, halted, fields]
  rfl

end Sys2Proof.Machine
end

section
/-!
The overdue disposition (R69 to R72): what it makes of one entry, of several one after another, and which entries it
leaves alone.
-/

namespace Sys2Proof.Machine

/-! ### A drive within the event (R70) -/

theorem State.endingOf_eq {s t : State} {e : Entry} (found : s.entry? e.adm = some e) (queue : t.queue = s.queue)
    (ends : State → Entry → State) : t.endingOf e.adm ends = ends t e := by
  have same : (t.queue.find? fun x => x.adm == e.adm) = some e := queue ▸ found
  rw [State.endingOf, same]

/-- The Channel Matrix's answer to an admissible drive, and the end of the occurrence, in one event. -/
theorem State.settleDrive_eq {s : State} {e : Entry} {o : Output} {l : Level} {rel : Option Nat}
    (found : s.entry? e.adm = some e) (output : s.outputAt e.act.target = some o) (may : s.mayDrive e o l rel) :
    s.settleDrive (s.inFlightOf e l rel) = s.drivesNow e o l rel := by
  have chan : s.chan (s.inFlightOf e l rel).target = .output o := State.chan_of_outputAt output
  unfold State.drivesNow
  by_cases back : o.owner ≠ some e.owner ∨ o.held = true ∨ s.stop.run = .stopped
  · rw [if_pos back, State.settleDrive_returned (State.judgeDrive_returned chan (.inr back))]
  rw [if_neg back]
  obtain ⟨own, held, running⟩ : o.owner = some e.owner ∧ o.held = false ∧ s.stop.run = .running := by
    refine ⟨by_contra fun k => back (.inl k), Bool.eq_false_iff.2 fun k => back (.inr (.inl k)), ?_⟩
    cases k : s.stop.run with
    | running => rfl
    | stopped => exact absurd (.inr (.inr k)) back
  have judged := State.judgeDrive_admitted chan (Option.some_ne_none e.owner) own held running
  cases faulted : o.isFaulted with
  | true =>
    rw [if_pos faulted] at judged
    rw [if_pos rfl, State.settleDrive_taken (judged.trans (if_pos (may.1 faulted))), State.driveAction_faulted chan faulted]
    exact State.endingOf_eq found (by rfl) _
  | false =>
    have free : ¬(o.level = .inactive ∧ l = .active ∧ s.interlockConfirmed e.act.target = false) := by
      rintro ⟨off, on, refused⟩
      rcases may.2 faulted with stays | clear
      · exact stays ⟨off, on⟩
      · rw [State.interlockConfirmed_of_clear clear] at refused
        cases refused
    rw [if_neg (by rw [faulted]; exact Bool.false_ne_true)] at judged
    rw [if_neg Bool.false_ne_true, State.settleDrive_taken (judged.trans (if_neg free)),
      State.driveAction_sound chan faulted]
    exact State.endingOf_eq found (by rfl) _

section
variable {s : State} {e : Entry}

theorem State.goesOnTo_applyVerdictNow (found : s.entry? e.adm = some e) :
    s.goesOnTo e (s.drivesNow e) (s.applyVerdictNow e (s.judgeFromFault e)) :=
  State.goesOnTo_carried (carry := s.applyVerdictNow e) (fun _ => rfl) (fun _ _ => rfl) fun _ _ _ output may =>
    State.settleDrive_eq found output may

/-! ### One entry (R70 to R72) -/

theorem State.carriesTo_applyVerdictNow (found : s.entry? e.adm = some e) :
    s.carriesTo e (s.applyVerdictNow e (s.judge e)) := by
  refine ⟨fun met => ?_, fun g guarded unmet => ?_⟩
  · rw [State.judge_met met]
    exact State.goesOnTo_applyVerdictNow found
  · have unmatched : s.guardMatches g = false := Bool.eq_false_iff.2 fun k => unmet ((s.guardMatches_iff g).1 k)
    refine ⟨fun mode => ?_, fun k mode => ?_⟩
    · rw [State.judge_skip guarded unmatched mode]
      rfl
    · rw [State.judge_wait guarded unmatched mode]
      rfl

/-- The report of an expired occurrence (R71). -/
def Entry.expiry (e : Entry) (skipped : Nat) (remains : Bool) : ReportBody :=
  .actionExpired e.handle e.act.target e.act.kind e.due skipped remains

theorem State.expire_last (last : e.isLast) :
    s.expire e = (s.removeEntry e.adm).addReport e.owner s.now (e.expiry e.skipped false) := by
  rw [State.expire, e.successor_eq_none.2 last]
  rfl

theorem State.expire_queued {k due n : Nat} {m left : Option Nat} (rep : e.act.rep = some ⟨k, m⟩) (more : m ≠ some 0)
    (fits : e.due + k ≤ Config.maxTime)
    (next : advance (e.due + k) (m.map fun j => j - 1) k s.now e.skipped = .queued due left n) :
    s.expire e = (s.requeue { e with
      phase := .waitingTime due, skipped := 0, act := { e.act with rep := some ⟨k, left⟩ } }).addReport e.owner s.now
        (e.expiry n true) := by
  rw [State.expire, Entry.successor_eq rep more fits]
  dsimp only
  rw [next]
  dsimp only
  rw [Entry.advanced, rep]
  rfl

theorem State.expire_ended {k last n : Nat} {m : Option Nat} (rep : e.act.rep = some ⟨k, m⟩) (more : m ≠ some 0)
    (fits : e.due + k ≤ Config.maxTime)
    (next : advance (e.due + k) (m.map fun j => j - 1) k s.now e.skipped = .ended last n) :
    s.expire e = (s.removeEntry e.adm).addReport e.owner s.now (e.expiry n false) := by
  rw [State.expire, Entry.successor_eq rep more fits]
  dsimp only
  rw [next]
  rfl

/-- An entry that is not at its last occurrence has a next one in range (R67). -/
theorem Entry.repeats_of_not_last (more : ¬e.isLast) {k : Nat} {m : Option Nat} (rep : e.act.rep = some ⟨k, m⟩) :
    m ≠ some 0 ∧ e.due + k ≤ Config.maxTime := by
  refine ⟨?_, Nat.not_lt.1 fun beyond => more (.inr (.inr ⟨k, m, rep, beyond⟩))⟩
  rintro rfl
  exact more (.inr (.inl ⟨k, rep⟩))

/-- The report of an expiry rests on the sessions and the report queues (R71). -/
theorem State.expiry_reported {t : State} (sessions : t.sessions = s.sessions) (reports : t.reports = s.reports)
    (report : ReportBody) (m : Nat) :
    (t.addReport e.owner s.now report).reportQueue m = (s.addReport e.owner s.now report).reportQueue m :=
  State.reportQueue_of_reports (State.addReport_reports_of_same sessions reports ..) m

theorem State.expiresTo_expire (s : State) (e : Entry) : s.expiresTo e (s.expire e) := by
  by_cases last : e.isLast
  · obtain ⟨r, reported⟩ := (s.removeEntry e.adm).addReport_frame e.owner s.now (e.expiry e.skipped false)
    refine ⟨e.skipped, false, [], ?_, fun m => ?_, ?_, fun _ => ⟨rfl, rfl, rfl⟩, fun _ _ more => absurd last more⟩
    · rw [State.expire_last last, reported]
      rfl
    · rw [State.expire_last last]
      exact State.expiry_reported (by rfl) (by rfl) _ m
    · rw [State.expire_last last, State.addReport_queue]
      exact .refl _
  · obtain ⟨⟨k, m⟩, rep⟩ : ∃ r, e.act.rep = some r :=
      Option.ne_none_iff_exists'.1 fun none => last (.inl none)
    obtain ⟨more, fits⟩ := Entry.repeats_of_not_last last rep
    cases next : advance (e.due + k) (m.map fun j => j - 1) k s.now e.skipped with
    | queued due left n =>
      set e' : Entry := { e with
        phase := .waitingTime due, skipped := 0, act := { e.act with rep := some ⟨k, left⟩ } } with he'
      have step := State.expire_queued rep more fits next
      obtain ⟨r, reported⟩ := (s.requeue e').addReport_frame e.owner s.now (e.expiry n true)
      refine ⟨n, true, [{ e' with adm := s.nextAdmission }], ?_, fun m' => ?_, ?_, fun h => absurd h last,
        fun k' m' _ rep' => ?_⟩
      · rw [step, reported]
        rfl
      · rw [step]
        exact State.expiry_reported (by rfl) (by rfl) _ m'
      · rw [step, State.addReport_queue]
        exact insertEntry_perm _ _
      · cases rep.symm.trans rep'
        rw [next]
        exact ⟨rfl, rfl, rfl⟩
    | ended due n =>
      have step := State.expire_ended rep more fits next
      obtain ⟨r, reported⟩ := (s.removeEntry e.adm).addReport_frame e.owner s.now (e.expiry n false)
      refine ⟨n, false, [], ?_, fun m' => ?_, ?_, fun h => absurd h last, fun k' m' _ rep' => ?_⟩
      · rw [step, reported]
        rfl
      · rw [step]
        exact State.expiry_reported (by rfl) (by rfl) _ m'
      · rw [step, State.addReport_queue]
        exact .refl _
      · cases rep.symm.trans rep'
        rw [next]
        exact ⟨rfl, rfl, rfl⟩

/-- The disposition of one entry, phase by phase (R70 to R72). -/
theorem State.settlesTo_disposeEntry (found : s.entry? e.adm = some e) : s.settlesTo e (s.disposeEntry e) := by
  have timed : ∀ key : Nat, (s.now ≤ key → (if key < s.now then
        if e.act.carry then s.applyVerdictNow e (s.judge e) else s.expire e else s) = s) ∧
      (key < s.now → (e.act.carry = false → s.expiresTo e (if key < s.now then
          if e.act.carry then s.applyVerdictNow e (s.judge e) else s.expire e else s)) ∧
        (e.act.carry = true → s.carriesTo e (if key < s.now then
          if e.act.carry then s.applyVerdictNow e (s.judge e) else s.expire e else s))) := by
    refine fun key => ⟨fun early => if_neg (Nat.not_lt.2 early), fun past => ?_⟩
    rw [if_pos past]
    refine ⟨fun drops => ?_, fun carries => ?_⟩
    · rw [drops, if_neg Bool.false_ne_true]
      exact s.expiresTo_expire e
    · rw [carries, if_pos rfl]
      exact State.carriesTo_applyVerdictNow found
  unfold State.settlesTo State.disposeEntry
  cases e.phase with
  | template _ => rfl
  | waitingTime key => exact timed key
  | deferred _ key => exact timed key
  | waitingGuard _ deadline =>
    refine ⟨fun past => if_pos past, fun early g guarded => ?_⟩
    dsimp only
    rw [if_neg (Nat.not_lt.2 early), guarded]
    dsimp only
    refine ⟨fun met => ?_, fun unmet => if_neg fun k => unmet ((s.guardMatches_iff g).1 k)⟩
    rw [if_pos ((s.guardMatches_iff g).2 met)]
    exact State.goesOnTo_applyVerdictNow found

end

/-! ### Several entries, one after another (R69) -/

/-- The entry of an admission number, or none. -/
theorem State.entry?_eq_none {s : State} {adm : Nat} : s.entry? adm = none ↔ ∀ e ∈ s.queue, e.adm ≠ adm := by
  simp [State.entry?, List.find?_eq_none]

/-- An entry whose drive request is on its way is passed over, any other is settled (9). -/
theorem State.visitOverdue_found {s : State} {e : Entry} (found : s.entry? e.adm = some e) :
    ((∃ d, s.inFlight = some d ∧ d.adm = e.adm) → s.visitOverdue e.adm = s) ∧
      ((∀ d, s.inFlight = some d → d.adm ≠ e.adm) → s.visitOverdue e.adm = s.disposeEntry e) := by
  unfold State.visitOverdue
  rw [found]
  dsimp only
  constructor
  · rintro ⟨d, flying, same⟩
    rw [flying]
    exact if_pos same
  · intro free
    split
    · exact if_neg (free _ ‹_›)
    · rfl

theorem State.visitsTo_foldl (l : List Nat) (s : State) : State.visitsTo l s (l.foldl State.visitOverdue s) := by
  induction l generalizing s with
  | nil => rfl
  | cons m l ih =>
    refine ⟨s.visitOverdue m, ?_, ih _⟩
    cases found : s.entry? m with
    | none =>
      refine .inl ⟨State.entry?_eq_none.1 found, ?_⟩
      rw [State.visitOverdue, found]
    | some e =>
      obtain rfl : e.adm = m := by simpa using List.find?_some found
      obtain ⟨passed, settled⟩ := State.visitOverdue_found found
      refine .inr ⟨e, State.mem_entry? found, rfl, ?_⟩
      by_cases flies : ∃ d, s.inFlight = some d ∧ d.adm = e.adm
      · exact .inl ⟨flies, passed flies⟩
      · have free : ∀ d, s.inFlight = some d → d.adm ≠ e.adm := fun d hd same => flies ⟨d, hd, same⟩
        refine .inr ⟨free, ?_⟩
        rw [settled free]
        exact State.settlesTo_disposeEntry found

/-! ### What a disposition leaves alone -/

/-- From `s` to `t` no entry but those of admission number `a` is touched, and what is put in has that number or a new
one. -/
def State.turnsOver (a : Nat) (s t : State) : Prop :=
  (∀ x ∈ s.queue, x.adm ≠ a → x ∈ t.queue) ∧ s.nextAdmission ≤ t.nextAdmission ∧
    ∀ x ∈ t.queue, x ∈ s.queue ∨ x.adm = a ∨ s.nextAdmission ≤ x.adm

section
variable {a : Nat} {s t u : State}

theorem State.turnsOver.of_same (queue : t.queue = s.queue) (next : t.nextAdmission = s.nextAdmission) : s.turnsOver a t :=
  ⟨fun _ hx _ => queue ▸ hx, next ▸ Nat.le_refl _, fun _ hx => .inl (queue ▸ hx)⟩

theorem State.turnsOver.refl (s : State) : s.turnsOver a s := .of_same rfl rfl

theorem State.turnsOver.trans (h : s.turnsOver a t) (k : t.turnsOver a u) : s.turnsOver a u := by
  obtain ⟨kept, later, new⟩ := h
  obtain ⟨kept', later', new'⟩ := k
  refine ⟨fun x hx ne => kept' x (kept x hx ne) ne, Nat.le_trans later later', fun x hx => ?_⟩
  rcases new' x hx with hx | same | fresh
  · exact new x hx
  · exact .inr (.inl same)
  · exact .inr (.inr (Nat.le_trans later fresh))

theorem State.turnsOver_addReport (s : State) (n time : Nat) (body : ReportBody) : s.turnsOver a (s.addReport n time body) :=
  .of_same (s.addReport_queue ..) (s.addReport_nextAdmission ..)

theorem State.turnsOver_removeEntry (s : State) : s.turnsOver a (s.removeEntry a) :=
  ⟨fun x hx ne => (s.mem_removeEntry a x).2 ⟨hx, ne⟩, Nat.le_refl _, fun x hx => .inl ((s.mem_removeEntry a x).1 hx).1⟩

theorem State.turnsOver_rephase (s : State) (e : Entry) (ph : Phase) : s.turnsOver e.adm (s.rephase e ph) := by
  refine ⟨fun x hx ne => (s.mem_rephase e x ph).2 (.inr ⟨hx, ne⟩), Nat.le_refl _, fun x hx => ?_⟩
  rcases (s.mem_rephase e x ph).1 hx with rfl | ⟨hx, -⟩
  · exact .inr (.inl rfl)
  · exact .inl hx

theorem State.turnsOver_requeue (s : State) (e : Entry) : s.turnsOver e.adm (s.requeue e) := by
  refine ⟨fun x hx ne => (s.mem_requeue e x).2 (.inr ⟨hx, ne⟩), Nat.le_succ _, fun x hx => ?_⟩
  rcases (s.mem_requeue e x).1 hx with rfl | ⟨hx, -⟩
  · exact .inr (.inr (Nat.le_refl _))
  · exact .inl hx

theorem State.turnsOver_repeatStep (s : State) (e : Entry) : s.turnsOver e.adm (s.repeatStep e) := by
  unfold State.repeatStep
  split
  · exact s.turnsOver_removeEntry
  · split
    · exact s.turnsOver_requeue (e.advanced _ _ _)
    · exact s.turnsOver_removeEntry.trans (State.turnsOver_addReport _ _ _ _)

theorem State.turnsOver_failOccurrence (s : State) (e : Entry) (reason : FailReason) (time : Nat) :
    s.turnsOver e.adm (s.failOccurrence e reason time) :=
  (s.turnsOver_addReport _ _ _).trans (State.turnsOver_repeatStep _ { e with skipped := 0 })

theorem State.turnsOver_succeed (s : State) (e : Entry) (time : Nat) : s.turnsOver e.adm (s.succeed e time) := by
  unfold State.succeed
  split
  · exact (s.turnsOver_addReport _ _ _).trans (State.turnsOver_repeatStep _ { e with skipped := 0 })
  · exact s.turnsOver_repeatStep e

theorem State.turnsOver_expire (s : State) (e : Entry) : s.turnsOver e.adm (s.expire e) := by
  unfold State.expire
  dsimp only
  split
  · exact s.turnsOver_removeEntry.trans (State.turnsOver_addReport _ _ _ _)
  · split
    · exact (s.turnsOver_requeue (e.advanced _ _ _)).trans (State.turnsOver_addReport _ _ _ _)
    · exact s.turnsOver_removeEntry.trans (State.turnsOver_addReport _ _ _ _)

theorem State.turnsOver_of_found {adm : Nat} {e : Entry} (found : s.entry? adm = some e) (h : t.turnsOver e.adm u) :
    t.turnsOver adm u := by
  obtain rfl : e.adm = adm := by simpa using List.find?_some found
  exact h

theorem State.turnsOver_settleDrive (s : State) (f : InFlight) : s.turnsOver f.adm (s.settleDrive f) := by
  obtain ⟨ch, ps, frame⟩ := s.driveAction_frame f
  have driven : s.turnsOver f.adm (s.driveAction f) := by
    rw [frame]
    exact .of_same rfl rfl
  unfold State.settleDrive
  dsimp only
  split
  · split
    · exact driven.trans (State.turnsOver_of_found ‹_› (State.turnsOver_succeed _ _ _))
    · exact driven
  · exact .refl s
  · split
    · exact State.turnsOver_of_found ‹_› (s.turnsOver_failOccurrence _ _ _)
    · exact .refl s
  · split
    · exact State.turnsOver_of_found ‹_› (s.turnsOver_failOccurrence _ _ _)
    · exact .refl s

theorem State.turnsOver_breakFor (s : State) (broken : Option Nat) : s.turnsOver a (s.breakFor broken) := by
  cases broken with
  | none => exact .refl s
  | some y =>
    obtain ⟨ch, ps, frame⟩ := s.breakPartner_frame y
    exact .of_same (by rw [State.breakFor, frame]) (by rw [State.breakFor, frame])

theorem State.turnsOver_applyVerdictNow (s : State) (e : Entry) (v : Verdict) : s.turnsOver e.adm (s.applyVerdictNow e v) := by
  cases v with
  | drive l release => exact s.turnsOver_settleDrive (s.inFlightOf e l release)
  | fail reason => exact s.turnsOver_failOccurrence e reason s.now
  | waitGuard k => exact s.turnsOver_rephase e _
  | defer k broken => exact (s.turnsOver_breakFor broken).trans (State.turnsOver_rephase _ e _)

theorem State.turnsOver_disposeEntry (s : State) (e : Entry) : s.turnsOver e.adm (s.disposeEntry e) := by
  have timed : ∀ key : Nat, s.turnsOver e.adm (if key < s.now then
      if e.act.carry then s.applyVerdictNow e (s.judge e) else s.expire e else s) := by
    intro key
    split
    · split
      · exact s.turnsOver_applyVerdictNow e _
      · exact s.turnsOver_expire e
    · exact .refl s
  unfold State.disposeEntry
  cases e.phase with
  | template _ => exact .refl s
  | waitingTime key => exact timed key
  | deferred _ key => exact timed key
  | waitingGuard _ deadline =>
    dsimp only
    split
    · exact s.turnsOver_failOccurrence e _ _
    · split
      · split
        · exact s.turnsOver_applyVerdictNow e _
        · exact .refl s
      · exact .refl s

theorem State.turnsOver_visitOverdue (s : State) (adm : Nat) : s.turnsOver adm (s.visitOverdue adm) := by
  unfold State.visitOverdue
  split
  · exact .refl s
  · split
    · split
      · exact .refl s
      · exact State.turnsOver_of_found ‹_› (s.turnsOver_disposeEntry _)
    · exact State.turnsOver_of_found ‹_› (s.turnsOver_disposeEntry _)

end

/-- The disposition has nothing to do for the entry: it is a template, or its time is not past and it waits for no guard
(R70). -/
def Entry.standsAt (e : Entry) (now : Nat) : Prop :=
  e.phase.isTemplate = true ∨ e.phase.isWaitingGuard = false ∧ ∀ k, e.phase.key? = some k → now ≤ k

theorem Entry.standsAt.disposeEntry {s : State} {e : Entry} (stands : e.standsAt s.now) : s.disposeEntry e = s := by
  unfold State.disposeEntry
  unfold Entry.standsAt at stands
  cases phase : e.phase with
  | template _ => rfl
  | waitingTime key =>
    rw [phase] at stands
    rcases stands with template | ⟨-, early⟩
    · cases template
    · exact if_neg (Nat.not_lt.2 (early key rfl))
  | deferred _ key =>
    rw [phase] at stands
    rcases stands with template | ⟨-, early⟩
    · cases template
    · exact if_neg (Nat.not_lt.2 (early key rfl))
  | waitingGuard _ _ =>
    rw [phase] at stands
    rcases stands with template | ⟨waits, -⟩
    · cases template
    · cases waits

theorem State.visitOverdue_stands {s : State} {e : Entry} (law : s.queueLawful) (he : e ∈ s.queue)
    (stands : e.standsAt s.now) : s.visitOverdue e.adm = s := by
  obtain ⟨passed, settled⟩ := State.visitOverdue_found (law.entry?_eq he)
  by_cases flies : ∃ d, s.inFlight = some d ∧ d.adm = e.adm
  · exact passed flies
  · rw [settled fun d hd same => flies ⟨d, hd, same⟩, stands.disposeEntry]

theorem State.visitOverdue_frame (s : State) (adm : Nat) : s.workedOn (s.visitOverdue adm) := by
  unfold State.visitOverdue
  split
  · exact s.workedOn_refl
  · split
    · split
      · exact s.workedOn_refl
      · exact s.disposeEntry_frame _
    · exact s.disposeEntry_frame _

theorem State.foldl_visitOverdue_frame (l : List Nat) (s : State) : s.workedOn (l.foldl State.visitOverdue s) := by
  induction l generalizing s with
  | nil => exact s.workedOn_refl
  | cons m l ih => exact State.workedOn_trans (s.visitOverdue_frame m) (ih _)

theorem State.visitOverdue_now (s : State) (adm : Nat) : (s.visitOverdue adm).now = s.now := by
  obtain ⟨_, _, _, _, _, frame⟩ := s.visitOverdue_frame adm
  rw [frame]
  rfl

theorem State.visitOverdue_inFlight (s : State) (adm : Nat) : (s.visitOverdue adm).inFlight = s.inFlight := by
  obtain ⟨_, _, _, _, _, frame⟩ := s.visitOverdue_frame adm
  rw [frame]

/-- An entry that is not visited, or that has nothing to be done, stays. -/
theorem State.mem_foldl_visitOverdue (l : List Nat) {s : State} (law : s.queueLawful) {e : Entry} (he : e ∈ s.queue)
    (stays : e.adm ∈ l → e.standsAt s.now) : e ∈ (l.foldl State.visitOverdue s).queue := by
  induction l generalizing s with
  | nil => exact he
  | cons m l ih =>
    refine ih (s.keepsQueue_visitOverdue m law) ?_ fun later => ?_
    · by_cases same : e.adm = m
      · subst same
        rw [State.visitOverdue_stands law he (stays (List.mem_cons_self ..))]
        exact he
      · exact (s.turnsOver_visitOverdue m).1 e he same
    · rw [s.visitOverdue_now]
      exact stays (List.mem_cons_of_mem _ later)

/-- An admission number that is gone from the queue does not come back. -/
theorem State.gone_foldl_visitOverdue (l : List Nat) {s : State} {a : Nat} (given : a < s.nextAdmission)
    (gone : ∀ x ∈ s.queue, x.adm ≠ a) : ∀ x ∈ (l.foldl State.visitOverdue s).queue, x.adm ≠ a := by
  induction l generalizing s with
  | nil => exact gone
  | cons m l ih =>
    rw [List.foldl_cons]
    cases found : s.entry? m with
    | none =>
      have idle : s.visitOverdue m = s := by rw [State.visitOverdue, found]
      rw [idle]
      exact ih given gone
    | some e =>
      have other : m ≠ a := by
        obtain rfl : e.adm = m := by simpa using List.find?_some found
        exact gone e (State.mem_entry? found)
      obtain ⟨-, later, new⟩ := s.turnsOver_visitOverdue m
      refine ih (Nat.lt_of_lt_of_le given later) fun x hx => ?_
      rcases new x hx with hx | same | fresh
      · exact gone x hx
      · rw [same]
        exact other
      · exact (Nat.ne_of_lt (Nat.lt_of_lt_of_le given fresh)).symm

/-- An overdue entry without CARRY expires (R71). -/
theorem State.disposeEntry_expires {s : State} {e : Entry} (scheduled : e.phase.isWaitingGuard = false)
    (past : ∃ k, e.phase.key? = some k ∧ k < s.now) (drops : e.act.carry = false) : s.disposeEntry e = s.expire e := by
  obtain ⟨k, key, past⟩ := past
  unfold State.disposeEntry
  cases phase : e.phase with
  | template _ =>
    rw [phase] at key
    cases key
  | waitingTime key' =>
    rw [phase] at key
    cases key
    dsimp only
    rw [if_pos past, drops, if_neg Bool.false_ne_true]
  | deferred _ key' =>
    rw [phase] at key
    cases key
    dsimp only
    rw [if_pos past, drops, if_neg Bool.false_ne_true]
  | waitingGuard _ _ =>
    rw [phase] at scheduled
    cases scheduled

/-- An entry that expires without a later occurrence leaves the queue (R71). -/
theorem State.gone_of_expired (l : List Nat) {s : State} (law : s.queueLawful) {e : Entry} (he : e ∈ s.queue)
    (visited : e.adm ∈ l) (scheduled : e.phase.isWaitingGuard = false) (past : ∃ k, e.phase.key? = some k ∧ k < s.now)
    (drops : e.act.carry = false) (single : e.act.rep = none) (free : ∀ d, s.inFlight = some d → d.adm ≠ e.adm) :
    ∀ x ∈ (l.foldl State.visitOverdue s).queue, x.adm ≠ e.adm := by
  induction l generalizing s with
  | nil => cases visited
  | cons m l ih =>
    have later := (s.turnsOver_visitOverdue m).2.1
    by_cases same : e.adm = m
    · subst same
      refine State.gone_foldl_visitOverdue l (Nat.lt_of_lt_of_le (law.adm_lt he) later) ?_
      rw [(State.visitOverdue_found (law.entry?_eq he)).2 free, State.disposeEntry_expires scheduled past drops,
        State.expire_last (.inl single), State.addReport_queue]
      exact fun x hx => ((s.mem_removeEntry e.adm x).1 hx).2
    · refine ih (s.keepsQueue_visitOverdue m law) ((s.turnsOver_visitOverdue m).1 e he same)
        ((List.mem_cons.1 visited).resolve_left same) ?_ ?_
      · rw [s.visitOverdue_now]
        exact past
      · rw [s.visitOverdue_inFlight]
        exact free

/-- With nothing to be done for any entry that is visited, nothing changes. -/
theorem State.foldl_visitOverdue_idle (l : List Nat) {s : State} (law : s.queueLawful)
    (stand : ∀ e ∈ s.queue, e.adm ∈ l → e.standsAt s.now) : l.foldl State.visitOverdue s = s := by
  induction l with
  | nil => rfl
  | cons m l ih =>
    have idle : s.visitOverdue m = s := by
      cases found : s.entry? m with
      | none => rw [State.visitOverdue, found]
      | some e =>
        obtain rfl : e.adm = m := by simpa using List.find?_some found
        exact State.visitOverdue_stands law (State.mem_entry? found)
          (stand e (State.mem_entry? found) (List.mem_cons_self ..))
    rw [List.foldl_cons, idle]
    exact ih fun e he hl => stand e he (List.mem_cons_of_mem _ hl)

end Sys2Proof.Machine
end

section
/-!
RESUME (R112): O28.
-/

namespace Sys2Proof.Machine

section
variable {s : State} {p : Port} {n : Nat} {h : HostSession} {f : Frame} {rest : List Frame} {code : Byte}

/-- The arrival of a frame leaves an OPEN session OPEN. -/
theorem State.arrived_isOpen (live : s.session n = .host h) {d : Nat} (opened : h.life = .opened d) (m : Nat) :
    ((s.arrived p n h rest).session m).isOpen = (s.session m).isOpen := by
  by_cases hm : m = n
  · subst hm
    rw [State.arrived_session live, live]
    simp only [Session.isOpen, opened]
  · rw [State.arrived_session_ne hm]

theorem State.queueLawful_arrived (law : s.queueLawful) : (s.arrived p n h rest).queueLawful :=
  State.keepsQueue.of_same (s.arrived_queue ..) (s.arrived_handleCounter ..) (s.arrived_nextAdmission ..) law

/-- A request in sequence whose rule ends in an overdue disposition. -/
theorem State.takeRequest_disposes (received : s.receives p n h f rest code) (serve : Service) {fields : List Byte}
    {st : StopControl} {q : List Entry} {na : Nat} {ch : Vector Channel 32} {ps : Vector PinRec 24}
    {rs : Vector ReportQueue 5}
    (served : serve n f.body (s.arrived p n h rest) = ({ s.arrived p n h rest with
      stop := st, queue := q, nextAdmission := na, channels := ch, pins := ps, reports := rs }, okWith fields)) :
    s.takeRequest p code serve = { s.answered p n h f rest .ok fields with
      stop := st, queue := q, nextAdmission := na, channels := ch, pins := ps, reports := rs } :=
  State.takeRequest_effect received serve .ok fields
    (fun t => { t with stop := st, queue := q, nextAdmission := na, channels := ch, pins := ps, reports := rs }) served
    (fun _ => rfl) (fun t r => by unfold State.setSession; split <;> rfl) (fun _ => by cases p <;> rfl)
    (fun _ _ => by cases p <;> rfl)

/-! ### The conditions of R112 -/

theorem serveResume_operator (received : s.receives p n h f rest code) (operator : h.cls ≠ .observer)
    (empty : f.body = []) : serveResume n f.body (s.arrived p n h rest) =
      if s.stop.line = true then (s.arrived p n h rest, refuse .stopLine)
      else if s.stop.run = .running then (s.arrived p n h rest, okWith [0, 0])
      else ((s.arrived p n h rest).resumeBy n, okWith [0, 1]) := by
  rw [serveResume, asOperator_arrived received operator, if_neg (not_not_intro empty), State.arrived_stop]
  rfl

/-! ### The return to RUNNING -/

/-- Stop Control once a RESUME is accepted (R112). -/
def StopControl.resumed (c : StopControl) : StopControl :=
  { c with run := .running, request := false, safeAsserted := false }

/-- The state once a RESUME is reported, before the disposition. -/
def State.resumedBy (s : State) (n : Nat) : State :=
  { s with stop := s.stop.resumed }.reportStop .resumed false n none

theorem State.resumeBy_eq (s : State) (n : Nat) :
    s.resumeBy n = (s.resumedBy n).dispose fun m => ((s.resumedBy n).session m).isOpen := rfl

/-- The entries of OPEN sessions, by admission number, in queue order (R69). -/
def State.openEntries (s : State) : List Nat := (s.queue.filter fun e => (s.session e.owner).isOpen).map Entry.adm

theorem State.resumedBy_spec (s : State) (n : Nat) : ∃ r,
    s.resumedBy n = { s with stop := s.stop.resumed, reports := r } ∧
    ∀ m, State.reportQueue { s with reports := r } m = (s.addReport m s.now (.stopChange
      ⟨.resumed, false, .running, s.stop.line, false, n, none, s.stop.entryTime⟩)).reportQueue m := by
  set s1 := { s with stop := s.stop.resumed }
  obtain ⟨r, reported⟩ := s1.reportToAll_frame s1.now (s1.stopReport .resumed false n none)
  refine ⟨r, reported, fun m => ?_⟩
  have queue : State.reportQueue { s with reports := r } m =
      (s1.reportToAll s1.now (s1.stopReport .resumed false n none)).reportQueue m := by
    rw [reported]
    rfl
  rw [queue, State.reportToAll_reportQueue]
  exact State.addReport_reportQueue_of_same (s := s) (t := s1) rfl rfl _ _

/-- The disposition of a RESUME visits the entries of the sessions that were OPEN. -/
theorem State.resumeBy_arrived (live : s.session n = .host h) {d : Nat} (opened : h.life = .opened d) :
    (s.arrived p n h rest).resumeBy n =
      s.openEntries.foldl State.visitOverdue ((s.arrived p n h rest).resumedBy n) := by
  obtain ⟨r, resumed, -⟩ := (s.arrived p n h rest).resumedBy_spec n
  have queue : ((s.arrived p n h rest).resumedBy n).queue = s.queue := by
    rw [resumed]
    exact s.arrived_queue ..
  have opens : ∀ m, (((s.arrived p n h rest).resumedBy n).session m).isOpen = (s.session m).isOpen := fun m => by
    rw [resumed]
    exact State.arrived_isOpen live opened m
  rw [State.resumeBy_eq, State.dispose, queue]
  simp only [opens]
  rfl

/-- A RESUME that is accepted on a STOPPED part: the state before the disposition, the disposition, and the answer. -/
theorem execResume_stopped (received : s.receives p n h f rest 0x39) (operator : h.cls ≠ .observer)
    (empty : f.body = []) (line : s.stop.line = false) (run : s.stop.run = .stopped) : ∃ s1 u,
      s1 = { s.arrived p n h rest with stop := s.stop.resumed, reports := s1.reports } ∧
      (∀ m, s1.reportQueue m = (s.addReport m s.now (.stopChange
        ⟨.resumed, false, .running, false, false, n, none, s.stop.entryTime⟩)).reportQueue m) ∧
      u = s.openEntries.foldl State.visitOverdue s1 ∧ s1.workedOn u ∧
      exec (.resume p) s = .next { s.answered p n h f rest .ok [0, 1] with
        stop := s.stop.resumed, queue := u.queue, nextAdmission := u.nextAdmission, channels := u.channels,
        pins := u.pins, reports := u.reports } := by
  obtain ⟨d, opened⟩ := received.1.2.2.2.2.2.2
  have live := received.1.2.2.2.2.1
  obtain ⟨r, resumed, reports⟩ := (s.arrived p n h rest).resumedBy_spec n
  have visited := State.resumeBy_arrived (p := p) (rest := rest) live opened
  rw [State.arrived_stop] at resumed
  generalize (s.arrived p n h rest).resumedBy n = s1 at resumed visited
  have frame : s1.workedOn (s.openEntries.foldl State.visitOverdue s1) := State.foldl_visitOverdue_frame _ _
  refine ⟨s1, _, ?_, fun m => ?_, rfl, frame, ?_⟩
  · rw [resumed]
  · have reported := reports m
    rw [State.arrived_addReport live, State.arrived_stop, State.arrived_now, line] at reported
    rw [resumed]
    exact reported
  · obtain ⟨ch, ps, q, na, rs, worked⟩ := frame
    have served : serveResume n f.body (s.arrived p n h rest) = ({ s.arrived p n h rest with
        stop := s.stop.resumed, queue := q, nextAdmission := na, channels := ch, pins := ps, reports := rs },
        okWith [0, 1]) := by
      rw [serveResume_operator received operator empty, line, if_neg Bool.false_ne_true, run, if_neg (by decide), visited,
        worked, resumed]
    rw [worked]
    exact congrArg Host.Outcome.next (State.takeRequest_disposes received serveResume served)

end

/-- The disposition has nothing to do for entry `e` of `s`: its session is not OPEN, it is a template, or its time is not
past and it waits for no guard (R69, R70). -/
def State.leavesAlone (s : State) (e : Entry) : Prop :=
  (s.session e.owner).isOpen = false ∨ e.phase.isTemplate = true ∨
    (e.phase.isWaitingGuard = false ∧ ∀ k, e.phase.key? = some k → s.now ≤ k)

theorem State.leavesAlone.standsAt {s : State} (law : s.queueLawful) {e : Entry} (he : e ∈ s.queue)
    (alone : s.leavesAlone e) (visited : e.adm ∈ s.openEntries) : e.standsAt s.now := by
  refine alone.resolve_left fun closed => ?_
  obtain ⟨x, hx, same⟩ := List.mem_map.1 visited
  obtain ⟨hx, opened⟩ := List.mem_filter.1 hx
  rw [law.eq_of_adm hx he same, closed] at opened
  cases opened

section
variable {s s1 : State}

/-- On a state that differs in what the disposition does not look at, it visits the entries of the OPEN sessions of `s`:
those with nothing to be done stay. -/
theorem State.mem_resumed (law : s.queueLawful) (law1 : s1.queueLawful) (queue : s1.queue = s.queue) (now : s1.now = s.now)
    {e : Entry} (he : e ∈ s.queue) (alone : s.leavesAlone e) :
    e ∈ (s.openEntries.foldl State.visitOverdue s1).queue :=
  State.mem_foldl_visitOverdue _ law1 (queue ▸ he) fun visited => now ▸ alone.standsAt law he visited

theorem State.resumed_idle (law : s.queueLawful) (law1 : s1.queueLawful) (queue : s1.queue = s.queue)
    (now : s1.now = s.now) (all : ∀ e ∈ s.queue, s.leavesAlone e) : s.openEntries.foldl State.visitOverdue s1 = s1 :=
  State.foldl_visitOverdue_idle _ law1 fun e he visited =>
    now ▸ (all e (queue ▸ he)).standsAt law (queue ▸ he) visited

end

/-- Settles O28: the disposition visits the entries of OPEN sessions, and leaves alone those with nothing to be done. -/
theorem resumeReturns : Obligations.ResumeReturns := by
  intro s p n h f rest law received operator empty
  have served := serveResume_operator received operator empty
  refine ⟨fun line => ?_, fun line run => ?_, fun line run => ?_, fun line run => ?_⟩
  · rw [if_pos line] at served
    exact congrArg Host.Outcome.next (State.takeRequest_answered received serveResume .stopLine [] served)
  · rw [line, if_neg Bool.false_ne_true, if_pos run] at served
    exact congrArg Host.Outcome.next (State.takeRequest_answered received serveResume .ok [0, 0] served)
  · obtain ⟨s1, u, resumed, reports, visited, -, step⟩ := execResume_stopped received operator empty line run
    exact ⟨s.stop.resumed, s1, u, rfl, resumed, reports, visited ▸ State.visitsTo_foldl _ s1, step⟩
  · obtain ⟨s1, u, resumed, reports, rfl, -, step⟩ := execResume_stopped received operator empty line run
    have law1 : s1.queueLawful := by
      rw [resumed]
      exact State.queueLawful_arrived law
    have queue : s1.queue = s.queue := (congrArg State.queue resumed).trans (s.arrived_queue ..)
    have now : s1.now = s.now := (congrArg State.now resumed).trans (s.arrived_now ..)
    have flying : s1.inFlight = s.inFlight := (congrArg State.inFlight resumed).trans (s.arrived_inFlight ..)
    refine ⟨_, step, rfl, fun e he alone => State.mem_resumed law law1 queue now he alone,
      fun e he opened scheduled past drops single free => ?_, fun all => ?_⟩
    · exact State.gone_of_expired _ law1 (queue ▸ he) (List.mem_map.2 ⟨e, List.mem_filter.2 ⟨he, opened⟩, rfl⟩) scheduled
        (now ▸ past) drops single (flying ▸ free)
    · rw [State.resumed_idle law law1 queue now all]
      exact ⟨queue, (congrArg State.channels resumed).trans (s.arrived_channels ..),
        (congrArg State.pins resumed).trans (s.arrived_pins ..), reports⟩

end Sys2Proof.Machine
end

section
/-!
The lapse of a session at its keepalive deadline, and its return (R125, R126, R128): O30.
-/

namespace Sys2Proof.Machine

/-! ### Held marks (R28) -/

/-- A channel record with the held mark of an output set. -/
def Channel.withHeld (held : Bool) : Channel → Channel
  | .output o => .output { o with held := held }
  | r => r

theorem Channel.withHeld_twice (held : Bool) (r : Channel) : (r.withHeld held).withHeld held = r.withHeld held := by
  cases r <;> rfl

theorem State.setHeld_chan (s : State) (d : Nat) (held : Bool) (c : Nat) :
    (s.setHeld d held).chan c = if c = d then (s.chan c).withHeld held else s.chan c := by
  unfold State.setHeld
  by_cases hc : c = d
  · subst hc
    rw [if_pos rfl]
    cases e : s.chan c with
    | output o =>
      dsimp only
      rw [s.chan_setChan_same c _ (s.lt_of_bound (c := c) (by simp [e]))]
      rfl
    | unbound => exact e
    | input i => exact e
  · rw [if_neg hc]
    split
    · exact s.chan_setChan_ne _ _ _ (fun k => hc k.symm)
    · rfl

theorem State.foldl_setHeld_chan (l : List Nat) (held : Bool) (s : State) (c : Nat) :
    (l.foldl (fun t d => t.setHeld d held) s).chan c = if c ∈ l then (s.chan c).withHeld held else s.chan c := by
  induction l generalizing s with
  | nil => rfl
  | cons d l ih =>
    rw [List.foldl_cons, ih, State.setHeld_chan]
    by_cases hd : c = d
    · simp only [hd, List.mem_cons, true_or, if_true, Channel.withHeld_twice, ite_self]
    · simp only [hd, List.mem_cons, false_or, if_false]

theorem State.foldl_setHeld_frame (l : List Nat) (held : Bool) (s : State) :
    ∃ ch, l.foldl (fun t c => t.setHeld c held) s = { s with channels := ch } := by
  induction l generalizing s with
  | nil => exact ⟨_, rfl⟩
  | cons c l ih =>
    obtain ⟨ch, first⟩ := s.setHeld_frame c held
    obtain ⟨ch', rest⟩ := ih (s.setHeld c held)
    exact ⟨ch', by rw [List.foldl_cons, rest, first]⟩

theorem State.mem_ownedOutputs {s : State} {n c : Nat} :
    c ∈ s.ownedOutputs n ↔ ∃ o, s.chan c = .output o ∧ o.owner = some n := by
  rw [State.ownedOutputs, List.mem_filter, channelNumbers, List.mem_range]
  cases e : s.chan c with
  | output o =>
    have lt : c < 32 := s.lt_of_bound (by simp [e])
    simp [lt]
  | unbound => simp
  | input i => simp

theorem State.mem_heldOutputs {s : State} {n c : Nat} :
    c ∈ s.heldOutputs n ↔ ∃ o, s.chan c = .output o ∧ o.owner = some n ∧ o.held = true := by
  rw [State.heldOutputs, List.mem_filter, State.mem_ownedOutputs]
  cases e : s.chan c <;> simp

theorem State.heldOutputs_length (s : State) (n : Nat) : (s.heldOutputs n).length =
    (List.range 32).countP fun c => (s.outputAt c).any fun o => o.owner == some n && o.held := by
  rw [State.heldOutputs, State.ownedOutputs, List.filter_filter, List.countP_eq_length_filter, channelNumbers]
  refine congrArg List.length (List.filter_congr fun c _ => ?_)
  unfold State.outputAt
  cases s.chan c with
  | output o => exact Bool.and_comm _ _
  | unbound => rfl
  | input i => rfl

/-! ### The lapse (R126) -/

theorem State.restOutput_owner (s : State) (l : List Nat) (c : Nat) (o : Output) :
    (s.restOutput l c o).owner = o.owner := by
  unfold State.restOutput
  split
  · rfl
  · split
    · rfl
    · split <;> rfl

/-- The drives of a lapse leave every channel what it was, and every output with its owner. -/
theorem State.mem_ownedOutputs_driven {s : State} (kept : s.joinedKept) {l : List Nat} (distinct : l.Nodup) {n c : Nat} :
    (∃ o, (l.foldl State.driveSafe s).chan c = .output o ∧ o.owner = some n) ↔ c ∈ s.ownedOutputs n := by
  obtain ⟨becomes, same⟩ := State.foldl_driveSafe_rest kept distinct c
  rw [State.mem_ownedOutputs]
  by_cases bound : ∃ o, s.chan c = .output o
  · obtain ⟨o, e⟩ := bound
    rw [becomes o e, e]
    simp [State.restOutput_owner]
  · rw [same fun o e => bound ⟨o, e⟩]

/-- The state that a lapse drives: the session LAPSED, the level changes of its entries passed over. -/
def State.lapsing (s : State) (n : Nat) (h : HostSession) : State :=
  (s.setSession n (.host { h with life := .lapsed (s.elapsed + h.interval) })).passOver

theorem State.lapse_eq (s : State) (n : Nat) (h : HostSession) :
    s.lapse n h = ((s.lapsing n h).ownedOutputs n).foldl (fun t c => t.setHeld c true)
      (((s.lapsing n h).ownedOutputs n).foldl State.driveSafe (s.lapsing n h)) := rfl

theorem State.lapsing_frame (s : State) (n : Nat) (h : HostSession) : ∃ ss ls,
    s.lapsing n h = { s with sessions := ss, levelChanges := ls } := by
  unfold State.lapsing State.setSession
  split
  · exact ⟨_, _, rfl⟩
  · exact ⟨_, _, rfl⟩

theorem State.lapsing_session {s : State} {n : Nat} {h : HostSession} (live : s.session n = .host h) :
    (s.lapsing n h).session n = .host { h with life := .lapsed (s.elapsed + h.interval) } ∧
      ∀ m, m ≠ n → (s.lapsing n h).session m = s.session m := by
  obtain ⟨low, high⟩ := State.session_ne_zero live
  exact ⟨s.session_setSession_same n _ low high, fun m other => s.session_setSession_ne n m _ other.symm⟩

theorem State.lapsing_changes (s : State) (n : Nat) (h : HostSession) :
    (s.lapsing n h).changesStand s.levelChanges (s.lapsing n h).levelChanges := by
  have stand := (s.setSession n (.host { h with life := .lapsed (s.elapsed + h.interval) })).changesStand_standingChanges
  rw [State.setSession_levelChanges] at stand
  exact stand

theorem State.joinedKept_lapsing {s : State} (kept : s.joinedKept) (n : Nat) (h : HostSession) :
    (s.lapsing n h).joinedKept := by
  obtain ⟨ss, ls, frame⟩ := s.lapsing_frame n h
  rw [frame]
  exact kept

/-- A lapse: its frame, its channels, and the drives before the marks. -/
theorem State.lapse_spec {s : State} (kept : s.joinedKept) {n : Nat} {h : HostSession} (live : s.session n = .host h) :
    ∃ t, s.lapse n h = t ∧
      t = { s with
        sessions := t.sessions, levelChanges := t.levelChanges, channels := t.channels, pins := t.pins } ∧
      t.changesStand s.levelChanges t.levelChanges ∧
      t.session n = .host { h with life := .lapsed (s.elapsed + h.interval) } ∧
      (∀ m, m ≠ n → t.session m = s.session m) ∧
      ∃ u, s.restsWhere (fun o => o.owner = some n) u ∧ ∀ c, t.chan c = (match u.chan c with
        | .output o => if o.owner = some n then .output { o with held := true } else .output o
        | r => r) := by
  obtain ⟨ss, ls, frame⟩ := s.lapsing_frame n h
  obtain ⟨own, others⟩ := State.lapsing_session live
  have stand := s.lapsing_changes n h
  have kept1 := State.joinedKept_lapsing kept n h
  have distinct : ((s.lapsing n h).ownedOutputs n).Nodup := List.nodup_range.filter _
  have rests := State.restsWhere_foldl_driveSafe kept1 distinct (who := fun o => o.owner = some n) fun c o e => by
    rw [State.mem_ownedOutputs, e]
    simp
  have driven := fun c => State.mem_ownedOutputs_driven kept1 distinct (n := n) (c := c)
  have marked := State.foldl_setHeld_chan ((s.lapsing n h).ownedOutputs n) true
    (((s.lapsing n h).ownedOutputs n).foldl State.driveSafe (s.lapsing n h))
  rw [State.lapse_eq]
  obtain ⟨ch, ps, drives⟩ := State.foldl_driveSafe_frame ((s.lapsing n h).ownedOutputs n) (s.lapsing n h)
  obtain ⟨ch', marks⟩ := State.foldl_setHeld_frame ((s.lapsing n h).ownedOutputs n) true
    (((s.lapsing n h).ownedOutputs n).foldl State.driveSafe (s.lapsing n h))
  generalize (s.lapsing n h).ownedOutputs n = l at *
  generalize l.foldl State.driveSafe (s.lapsing n h) = u at *
  refine ⟨_, rfl, ?_, ?_, ?_, fun m other => ?_, u, ?_, fun c => ?_⟩
  · rw [marks, drives, frame]
  · rw [marks, drives]
    exact stand
  · rw [marks, drives]
    exact own
  · rw [marks, drives]
    exact others m other
  · refine rests.of_same ?_ ?_ ?_ rfl <;> rw [frame]
  · have mem := driven c
    rw [marked c]
    cases e : u.chan c with
    | output o =>
      have own : c ∈ l ↔ o.owner = some n := mem.symm.trans (by simp [e])
      simp only [own]
      rfl
    | unbound => exact ite_self _
    | input i => exact ite_self _

/-! ### The return (R128) -/

section
variable {s : State} {p : Port} {n g : Nat} {h : HostSession} {f : Frame} {rest : List Frame} {code : Byte}

/-- The state of a session that is back, before the disposition: held marks removed and SESSION_NOTICE given. -/
def State.noticed (s : State) (n : Nat) (h : HostSession) : State :=
  ((s.heldOutputs n).foldl (fun t c => t.setHeld c false)
    (s.setSession n (.host { h with life := .opened (s.elapsed + h.interval) }))).addReport n s.now
      (.sessionNotice (s.heldOutputs n).length)

/-- The entries of a session, by admission number, in queue order (R69). -/
def State.entriesOf (s : State) (n : Nat) : List Nat := (s.queue.filter fun e => e.owner == n).map Entry.adm

theorem State.returnSession_eq (s : State) (n : Nat) (h : HostSession) : s.returnSession n h =
    if (s.noticed n h).stopped then s.noticed n h else (s.noticed n h).dispose (· == n) := by
  rfl

/-- On a STOPPED part, or without an entry, the return disposes of nothing (R128). -/
theorem State.afterNotice_idle (idle : s.stop.run = .stopped ∨ ∀ e ∈ s.queue, e.owner ≠ n) :
    (if s.stopped then s else s.dispose (· == n)) = s := by
  rcases idle with stopped | none
  · exact if_pos (decide_eq_true stopped)
  · rw [State.dispose, List.filter_eq_nil_iff.2 fun e he => by simpa using none e he]
    exact ite_self _

theorem State.afterNotice_running (run : s.stop.run = .running) :
    (if s.stopped then s else s.dispose (· == n)) = (s.entriesOf n).foldl State.visitOverdue s := by
  rw [State.stopped, run]
  rfl

/-- The frame leaves the FIFO, and its session is OPEN again. -/
theorem State.noticed_arrived (s : State) (p : Port) (n : Nat) (h : HostSession) (rest : List Frame) :
    (s.setLink p { s.link p with fifo := rest }).noticed n h =
      ((s.heldOutputs n).foldl (fun t c => t.setHeld c false) (s.arrived p n h rest)).addReport n s.now
        (.sessionNotice (s.heldOutputs n).length) := by
  have held : (s.setLink p { s.link p with fifo := rest }).heldOutputs n = s.heldOutputs n := by
    cases p <;> rfl
  have now : (s.setLink p { s.link p with fifo := rest }).now = s.now := by
    cases p <;> rfl
  have elapsed : (s.setLink p { s.link p with fifo := rest }).elapsed = s.elapsed := by
    cases p <;> rfl
  rw [State.noticed, held, now, elapsed, State.setLink_setSession]
  rfl

/-- The channels and reports of a session that is back. -/
theorem State.noticed_spec (live : s.session n = .host h) (p : Port) (rest : List Frame) : ∃ ch r,
    (s.setLink p { s.link p with fifo := rest }).noticed n h =
      { s.arrived p n h rest with channels := ch, reports := r } ∧
    (∀ c, State.chan { s with channels := ch } c = (match s.chan c with
      | .output o => if o.owner = some n then .output { o with held := false } else .output o
      | r => r)) ∧
    ∀ m, State.reportQueue { s with reports := r } m = (s.addReport n s.now (.sessionNotice ((List.range 32).countP fun c =>
      (s.outputAt c).any fun o => o.owner == some n && o.held))).reportQueue m := by
  obtain ⟨ch, marks⟩ := State.foldl_setHeld_frame (s.heldOutputs n) false (s.arrived p n h rest)
  obtain ⟨r, reported⟩ := State.addReport_frame { s.arrived p n h rest with channels := ch } n s.now
    (.sessionNotice (s.heldOutputs n).length)
  refine ⟨ch, r, ?_, fun c => ?_, fun m => ?_⟩
  · rw [State.noticed_arrived, marks, reported]
  · have marked := State.foldl_setHeld_chan (s.heldOutputs n) false (s.arrived p n h rest) c
    rw [marks, State.arrived_chan] at marked
    refine Eq.trans marked ?_
    cases e : s.chan c with
    | unbound => exact ite_self _
    | input i => exact ite_self _
    | output o =>
      have member : c ∈ s.heldOutputs n ↔ o.owner = some n ∧ o.held = true := by
        rw [State.mem_heldOutputs, e]
        simp
      dsimp only [Channel.withHeld]
      by_cases own : o.owner = some n
      · cases held : o.held with
        | true => rw [if_pos (member.2 ⟨own, held⟩), if_pos own]
        | false => rw [if_neg (by simp [member, held]), if_pos own, ← held]
      · rw [if_neg fun k => own (member.1 k).1, if_neg own]
  · have queue : State.reportQueue { s with reports := r } m =
        (State.addReport { s.arrived p n h rest with channels := ch } n s.now
          (.sessionNotice (s.heldOutputs n).length)).reportQueue m := by
      rw [reported]
      rfl
    rw [queue, ← s.heldOutputs_length]
    exact State.addReport_reportQueue_of_same (s := s) (t := { s.arrived p n h rest with channels := ch })
      (State.arrived_live live n) (s.arrived_reportQueue p n h rest m) _ _

/-! ### KEEPALIVE of a LAPSED session -/

/-- A frame for a LAPSED session brings it back before its request is judged (R122, R128). -/
theorem State.takeRequest_returns (can : s.canTake p = true) (fifo : (s.link p).fifo = f :: rest) (kind : f.kind = code)
    (ses : f.ses.toNat = n) (live : s.session n = .host h) (port : h.port = p) (lapsed : h.life = .lapsed g)
    (seq : f.seq.toNat = h.expected) (serve : Service) : s.takeRequest p code serve =
      ((s.setLink p { s.link p with fifo := rest }).returnSession n h).performRequest p n f serve := by
  unfold State.takeRequest
  rw [s.takeFrame_eq p _ f rest can fifo (by simp [kind])]
  simp only [State.routeFrame, ses, State.routed_setLink, State.routed_eq live port, State.frameForSession, State.arrive,
    lapsed, seq, if_true]

/-- A request without an effect of its own, on a state that an effect beside sessions and ports has changed. -/
theorem State.performRequest_effect (live : s.session n = .host h) {serve : Service} {fields : List Byte}
    (served : ∀ t, serve n f.body t = (t, okWith fields)) (effect : State → State)
    (session : ∀ t, (effect t).session n = t.session n)
    (setSession : ∀ t q, (effect t).setSession n q = effect (t.setSession n q))
    (link : ∀ t, (effect t).link p = t.link p) (setLink : ∀ t q, (effect t).setLink p q = effect (t.setLink p q)) :
    (effect (s.arrived p n h rest)).performRequest p n f serve = effect (s.answered p n h f rest .ok fields) := by
  simp only [State.performRequest, served, okWith, State.noteReply, session, State.arrived_session live, if_true,
    setSession, State.placeReply, link, setLink]
  simp only [State.arrived, State.setLink_setSession, State.setSession_setSession, State.link_setLink_same,
    State.setLink_setLink, State.answered]

/-- A request without an effect of its own, on the state that an arrival with work has left. -/
theorem State.performRequest_worked (live : s.session n = .host h) {serve : Service} {fields : List Byte} {q : List Entry}
    {na : Nat} {ch : Vector Channel 32} {ps : Vector PinRec 24} {rs : Vector ReportQueue 5}
    (served : ∀ t, serve n f.body t = (t, okWith fields)) :
    State.performRequest { s.arrived p n h rest with
        queue := q, nextAdmission := na, channels := ch, pins := ps, reports := rs } p n f serve =
      { s.answered p n h f rest .ok fields with
        queue := q, nextAdmission := na, channels := ch, pins := ps, reports := rs } :=
  State.performRequest_effect live served
    (fun t => { t with queue := q, nextAdmission := na, channels := ch, pins := ps, reports := rs }) (fun _ => rfl)
    (fun t r => by unfold State.setSession; split <;> rfl) (fun _ => by cases p <;> rfl) (fun _ _ => by cases p <;> rfl)

/-- KEEPALIVE of a LAPSED session: the state before the disposition, and the answer on what it leaves. -/
theorem execKeepalive_lapsed (can : s.canTake p = true) (fifo : (s.link p).fifo = f :: rest) (kind : f.kind = 0x05)
    (ses : f.ses.toNat = n) (empty : f.body = []) (live : s.session n = .host h) (port : h.port = p)
    (lapsed : h.life = .lapsed g) (seq : f.seq.toNat = h.expected) {s1 u : State}
    (noticed : (s.setLink p { s.link p with fifo := rest }).noticed n h = s1)
    (back : ∃ ch r, s1 = { s.arrived p n h rest with channels := ch, reports := r })
    (left : (if s1.stopped then s1 else s1.dispose (· == n)) = u) (worked : s1.workedOn u) :
    exec (.keepalive p) s = .next { s.answered p n h f rest .ok [] with
      queue := u.queue, nextAdmission := u.nextAdmission, channels := u.channels, pins := u.pins, reports := u.reports } := by
  have step := State.takeRequest_returns can fifo kind ses live port lapsed seq serveKeepalive
  rw [State.returnSession_eq, noticed, left] at step
  obtain ⟨ch, r, back⟩ := back
  obtain ⟨ch', ps, q, na, rs, worked⟩ := worked
  have answered := State.performRequest_worked (p := p) (f := f) (rest := rest) live (serve := serveKeepalive)
    (fields := []) (q := q) (na := na) (ch := ch') (ps := ps) (rs := rs) fun t => by
      rw [serveKeepalive, emptyQuery, empty]
      rfl
  rw [worked]
  rw [worked, back] at step
  exact congrArg Host.Outcome.next (step.trans answered)

end

/-- Settles O30: the lapse with its drives and marks, and the return with the disposition of the session's entries. -/
theorem expiryLapses : Obligations.ExpiryLapses := by
  refine ⟨fun s n d h kept live opened => ?_, fun s p n g h f rest can fifo kind ses empty live port lapsed seq idle => ?_,
    fun s p n g h f rest can fifo kind ses empty live port lapsed seq run => ?_⟩
  · have event : exec (.keepaliveExpiry n) s = if d ≤ s.elapsed then .next (s.lapse n h) else .next s := by
      show execKeepaliveExpiry n s = _
      rw [execKeepaliveExpiry, live]
      dsimp only
      rw [opened]
    refine ⟨fun due => ?_, fun early => event.trans (if_neg (Nat.not_le.2 early))⟩
    obtain ⟨t, lapses, spec⟩ := State.lapse_spec ((State.pairsKept_iff s).1 kept).1 live
    exact ⟨t, event.trans ((if_pos due).trans (congrArg Host.Outcome.next lapses)), spec⟩
  · obtain ⟨ch, r, back, marks, reports⟩ := State.noticed_spec live p rest
    have left : _ = { s.arrived p n h rest with channels := ch, reports := r } := State.afterNotice_idle
      (idle.imp (s.arrived_stop p n h rest ▸ ·) (s.arrived_queue p n h rest ▸ ·))
    have step := execKeepalive_lapsed can fifo kind ses empty live port lapsed seq back ⟨ch, r, rfl⟩ left
      (State.workedOn_refl _)
    refine ⟨_, step, ?_, marks, reports⟩
    simp only [State.arrived_queue, State.arrived_nextAdmission, State.arrived_pins, State.answered_queue,
      State.answered_nextAdmission, State.answered_pins]
  · obtain ⟨ch, r, back, marks, reports⟩ := State.noticed_spec live p rest
    have left := State.afterNotice_running (n := n) (s := { s.arrived p n h rest with channels := ch, reports := r })
      (s.arrived_stop p n h rest ▸ run)
    have entries : State.entriesOf { s.arrived p n h rest with channels := ch, reports := r } n = s.entriesOf n :=
      congrArg (fun q => (q.filter fun e : Entry => e.owner == n).map Entry.adm) (s.arrived_queue p n h rest)
    rw [entries] at left
    exact ⟨{ s.arrived p n h rest with channels := ch, reports := r }, _, rfl, marks, reports, State.visitsTo_foldl _ _,
      execKeepalive_lapsed can fifo kind ses empty live port lapsed seq back ⟨ch, r, rfl⟩ left
        (State.foldl_visitOverdue_frame _ _)⟩

end Sys2Proof.Machine
end

end

section
/-!
The dead time of R84 after a whole step: a step that ends in a TIME_SET measures it on the shifted clock (R5, R6, R128).
-/

namespace Sys2Proof.Machine

/-! ### A pair whose dead time has just passed -/

/-- An output of session 1 on pin `pin`: ACTIVE_HIGH, PUSH_PULL, safe level INACTIVE, settle time 50. -/
def pairOutput (pin : Nat) (level : Level) (condition : Condition) (lastOff : Option Nat) : Output :=
  ⟨⟨[pin], .activeHigh, .pushPull, .inactive, 50⟩, some 1, level, condition, false, none, lastOff⟩

/-- C0 and C1 are INACTIVE and interlocked with a dead time of 10. -/
def pairAtRest : State :=
  ((State.reset.putOutput 0 (pairOutput 0 .inactive .ready none)).putOutput 1
    (pairOutput 1 .inactive .ready (some 90))).setInterlock 0 (some ⟨0, 1, 10, .refuse⟩)

/-- C1 became INACTIVE at 90, and now is 100. Session 1 is LAPSED, its CARRY entry that sets C0 has been due since 50,
and the first frame that it sends after its lapse is a TIME_SET to 5. -/
def lapsedTimeSet : State :=
  { pairAtRest with
    time := ⟨100, true, ⟨0, 3600⟩, 100, none, 100⟩
    queue := [⟨1, 1, 0, .waitingTime 50, ⟨0, .set, 0, none, none, false, true⟩, .request, 0⟩]
    handleCounter := 2
    nextAdmission := 1
    stop := { State.reset.stop with level := .released, gateOpen := true }
    sessions := State.reset.sessions.setIfInBounds 0 (.host ⟨.a, .operator, 7, 1000, .lapsed 1000, 5, none⟩)
    linkA := { State.reset.linkA with fifo := [⟨1, 5, 0x09, [5, 0, 0, 0, 0, 0]⟩] }
    pending := [.timeSet .a] }

theorem lapsedTimeSet_outputAt {c : Nat} {o : Output} (h : lapsedTimeSet.outputAt c = some o) :
    c = 0 ∧ o = pairOutput 0 .inactive .ready none ∨ c = 1 ∧ o = pairOutput 1 .inactive .ready (some 90) := by
  have chan : pairAtRest.chan c = .output o := State.chan_of_outputAt h
  rw [pairAtRest, State.setInterlock_chan, State.putOutput_chan, State.putOutput_chan, State.reset_chan] at chan
  split at chan
  · rename_i second
    cases chan
    exact .inr ⟨second.1.symm, rfl⟩
  · split at chan
    · rename_i first
      cases chan
      exact .inl ⟨first.1.symm, rfl⟩
    · cases chan

theorem lapsedTimeSet_interlock {i : Nat} {r : Interlock} (h : lapsedTimeSet.interlock i = some r) :
    r = ⟨0, 1, 10, .refuse⟩ := by
  have table : pairAtRest.interlock i = some r := h
  rw [pairAtRest, State.interlock_setInterlock] at table
  split at table
  · cases table
    rfl
  · have none : State.reset.interlock i = none := tget_replicate _ _ _
    cases none.symm.trans table

theorem lapsedTimeSet_pairsKept : lapsedTimeSet.pairsKept := by
  refine ⟨fun c o output _ => ?_, fun i r held => ?_⟩
  · rcases lapsedTimeSet_outputAt output with ⟨-, rfl⟩ | ⟨-, rfl⟩
    · exact ⟨rfl, rfl⟩
    · exact ⟨rfl, rfl⟩
  · cases lapsedTimeSet_interlock held
    exact ⟨by decide, _, _, rfl, rfl, by decide, by decide, by decide⟩

theorem lapsedTimeSet_lastOffPast : lapsedTimeSet.lastOffPast := by
  intro c o k output off
  rcases lapsedTimeSet_outputAt output with ⟨-, rfl⟩ | ⟨-, rfl⟩
  · cases off
  · cases off
    decide

/-! ### Its drive and its TIME_SET in one step -/

/-- The state that the step ends in. -/
def afterTimeSet : State := { lapsedTimeSet with pending := [] }.takeRequest .a 0x09 serveTimeSet

theorem step_lapsedTimeSet : step lapsedTimeSet = .next afterTimeSet := rfl

/-- The frame first returns session 1, whose overdue disposition drives C0 at 100, exactly the dead time after 90 (R70,
R83, R128). -/
theorem afterTimeSet_C0 : afterTimeSet.outputAt 0 = some (pairOutput 0 .active (.settling 150) none) := by
  decide +kernel

/-- The frame then sets the time from 100 to 5, and the last-off time 90 of C1, which would fall to -5, becomes 0 (R6). -/
theorem afterTimeSet_C1 : afterTimeSet.outputAt 1 = some (pairOutput 1 .inactive .ready (some 0)) := by
  decide +kernel

theorem afterTimeSet_now : afterTimeSet.now = 5 := rfl

/-- Refutes O55: the drive keeps the dead time, but the step goes on. The first frame of a LAPSED session makes C0 ACTIVE
through the overdue disposition, and where that frame is a TIME_SET far enough back, the last-off time of the partner is
held at 0, so that less than the dead time lies between it and the time at which the step ends. -/
theorem not_deadTimeKept : ¬ Obligations.DeadTimeKept := by
  intro kept
  have wasInactive : ∀ o, lapsedTimeSet.outputAt 0 = some o → o.level = .inactive := fun o before => by
    cases before
    rfl
  obtain ⟨y, partner, -, passed⟩ := kept lapsedTimeSet afterTimeSet lapsedTimeSet_pairsKept lapsedTimeSet_lastOffPast
    step_lapsedTimeSet 0 0 1 ⟨0, 1, 10, .refuse⟩ _ rfl (.inl ⟨rfl, rfl⟩) afterTimeSet_C0 rfl wasInactive
  cases afterTimeSet_C1.symm.trans partner
  have deadTime : 0 + 10 ≤ afterTimeSet.now := passed 0 rfl
  rw [afterTimeSet_now] at deadTime
  exact absurd deadTime (by decide)

end Sys2Proof.Machine
end

section
/-!
The requests that write the interlock table: INTERLOCK_SET and INTERLOCK_CLEAR (R75 to R78).
-/

namespace Sys2Proof.Machine

section
variable {s : State} {p : Port} {n : Nat} {h : HostSession} {f : Frame} {rest : List Frame} {code : Byte}

/-! ### The table -/

/-- A request in sequence that writes one interlock position: the same write on the answered state. -/
theorem State.takeRequest_interlock (received : s.receives p n h f rest code) (serve : Service) {fields : List Byte}
    {i : Nat} {r : Option Interlock}
    (served : serve n f.body (s.arrived p n h rest) = ((s.arrived p n h rest).setInterlock i r, okWith fields)) :
    s.takeRequest p code serve = (s.answered p n h f rest .ok fields).setInterlock i r :=
  State.takeRequest_effect received serve .ok fields (fun t => t.setInterlock i r) served (fun t => by simp)
    (fun t q => t.setSession_setInterlock n q i r) (fun t => by simp) (fun t q => t.setLink_setInterlock p q i r)

/-- The search of R75 gives the lowest free position. -/
theorem State.freeInterlock_eq_some {i : Nat} :
    s.freeInterlock = some i ↔ i < 12 ∧ s.interlock i = none ∧ ∀ j, j < i → s.interlock j ≠ none := by
  simp only [State.freeInterlock, List.find?_range_eq_some, List.mem_range, Option.isNone_iff_eq_none, Bool.not_eq_true',
    Option.isNone_eq_false_iff, ← Option.ne_none_iff_isSome]
  tauto

/-! ### INTERLOCK_SET -/

/-- An INTERLOCK_SET body in range is read as the number and the record it spells (R75). -/
theorem readInterlockSet_spelled {number : Option Nat} {r : Interlock} (position : ∀ i, number = some i → i ≤ 11)
    (a : r.a ≤ 31) (b : r.b ≤ 31) (ne : r.a ≠ r.b) (dead : r.dead ≤ 65535) :
    readInterlockSet (u8 (number.getD 255) ++ u8 r.a ++ u8 r.b ++ leBytes 2 r.dead ++ u8 r.mode.code) =
      some (number, r) := by
  set body := u8 (number.getD 255) ++ u8 r.a ++ u8 r.b ++ leBytes 2 r.dead ++ u8 r.mode.code
  have first : field body 0 1 = number.getD 255 := by
    refine (field_byte body _ 0 rfl).trans (toByte_toNat _ ?_)
    cases number with
    | none => decide
    | some i => exact Nat.lt_of_le_of_lt (position i rfl) (by decide)
  have time : field body 3 2 = r.dead :=
    (field_of_split _ (leBytes 2 r.dead) _ 3 2 rfl (leBytes_length 2 _)).trans (leNat_leBytes 2 _ (by omega))
  have record : checkedInterlock (field body 1 1) (field body 2 1) (field body 3 2) (field body 5 1) = some r := by
    rw [field_byte body (toByte r.a) 1 rfl, field_byte body (toByte r.b) 2 rfl, time,
      field_byte body (toByte r.mode.code) 5 rfl, checkedInterlock_eq_some]
    refine ⟨a, b, ne, rfl, rfl, rfl, ?_⟩
    cases r.mode <;> rfl
  rw [readInterlockSet, first, record]
  cases number with
  | none => rfl
  | some i =>
    have low := position i rfl
    have other : i ≠ 255 := by omega
    simp only [Option.getD_some]
    rw [if_pos ⟨rfl, .inl low⟩]
    simp [other]

/-- R75, step 4: both channels are the requester's, or the rights of SERVICE stand in. -/
theorem interlockRights_arrived (received : s.receives p n h f rest code) {key : Bool} {a b : Output}
    (rights : a.owner = some n ∧ b.owner = some n ∨ h.cls = .service ∧ key = true) :
    (if bothOwned a b n then none else foreignRefusal (s.arrived p n h rest) n key) = none := by
  obtain ⟨⟨_, _, _, _, live, _⟩, _⟩ := received
  rcases rights with ⟨ownA, ownB⟩ | ⟨service, rfl⟩
  · exact if_pos (by simp [bothOwned, ownA, ownB])
  · rw [foreignRefusal, State.arrived_classOf live, if_pos service]
    exact ite_self none

/-- R75, step 5: the number given is free, or held where the rights of SERVICE stand in; for ANY it is the lowest free
one. -/
theorem State.interlockPosition_arrived (received : s.receives p n h f rest code) {key : Bool} {number : Option Nat}
    {i : Nat} (range : i ≤ 11)
    (position : number = some i ∧ (s.interlock i = none ∨ h.cls = .service ∧ key = true) ∨
      number = none ∧ s.interlock i = none ∧ ∀ j, j < i → s.interlock j ≠ none) :
    (s.arrived p n h rest).interlockPosition n key number = .ok i := by
  obtain ⟨⟨_, _, _, _, live, _⟩, _⟩ := received
  unfold State.interlockPosition
  rcases position with ⟨rfl, free | ⟨service, rfl⟩⟩ | ⟨rfl, lowest⟩
  · simp [free]
  · simp [State.arrived_classOf live, service]
  · have found : (s.arrived p n h rest).freeInterlock = some i := by
      rw [State.freeInterlock_eq_some]
      simp only [State.arrived_interlock]
      exact ⟨by omega, lowest⟩
    rw [found]

/-- An INTERLOCK_SET of two outputs that passes steps 1 to 5 of R75 is judged by R76. -/
theorem serveInterlockSet_read (received : s.receives p n h f rest code) (operator : h.cls ≠ .observer) {key : Bool}
    {number : Option Nat} {i : Nat} {r : Interlock} {a b : Output} (read : readInterlockSet f.body = some (number, r))
    (outA : s.outputAt r.a = some a) (outB : s.outputAt r.b = some b)
    (rights : a.owner = some n ∧ b.owner = some n ∨ h.cls = .service ∧ key = true)
    (position : (s.arrived p n h rest).interlockPosition n key number = .ok i) :
    serveInterlockSet key n f.body (s.arrived p n h rest) =
      if pairSafe a b r.dead then ((s.arrived p n h rest).setInterlock i (some r), okWith (u8 i))
      else (s.arrived p n h rest, refuse .interlockConflict) := by
  rw [serveInterlockSet, asOperator_arrived received operator, read]
  simp only [State.arrived_outputAt, outA, outB, interlockRights_arrived received rights, position]

/-! ### INTERLOCK_CLEAR -/

theorem asService_arrived (received : s.receives p n h f rest code) (key : Bool) (act : State × Answer) :
    asService (s.arrived p n h rest) n key act =
      if h.cls = .service ∧ key = true then act else (s.arrived p n h rest, refuse .notPermitted) := by
  obtain ⟨⟨_, _, _, _, live, _⟩, _⟩ := received
  simp [asService, State.serviceRights, State.arrived_classOf live, and_comm]

/-- An INTERLOCK_CLEAR body of one byte (R78). -/
theorem serveInterlockClear_read (received : s.receives p n h f rest code) (key : Bool) {i : Nat} (body : f.body = u8 i)
    (byte : i ≤ 255) :
    serveInterlockClear key n f.body (s.arrived p n h rest) =
      if h.cls = .service ∧ key = true then
        if i < 12 then ((s.arrived p n h rest).setInterlock i none, okWith (flag (s.interlock i).isSome))
        else (s.arrived p n h rest, refuse .malformed)
      else (s.arrived p n h rest, refuse .notPermitted) := by
  have spelled : field (u8 i) 0 1 = i := (field_byte (u8 i) (toByte i) 0 rfl).trans (toByte_toNat i (by omega))
  have read : readIndex 12 (u8 i) = if i < 12 then some i else none := by
    rw [readIndex, spelled]
    exact if_congr (and_iff_right rfl) rfl rfl
  rw [serveInterlockClear, asService_arrived received, body, read]
  refine if_congr Iff.rfl ?_ rfl
  by_cases low : i < 12
  · simp only [if_pos low, State.arrived_interlock]
  · simp only [if_neg low]

end

/-- A pair is refused for any one of the three conditions of R76. -/
theorem not_pairSafe_iff (a b : Output) (dead : Nat) : ¬pairSafe a b dead = true ↔
    a.level = .active ∧ b.level = .active ∨ a.cfg.safe = .active ∧ b.cfg.safe = .active ∨
      (a.cfg.safe = .active ∨ b.cfg.safe = .active) ∧ dead ≠ 0 := by
  rw [pairSafe_iff]
  tauto

/-- Settles O22: each outcome of INTERLOCK_SET is that of `pairSafe` at the position of R75, and INTERLOCK_CLEAR judges
the rights before the number. -/
theorem interlockTableWritten : Obligations.InterlockTableWritten := by
  refine ⟨fun s p key n h f rest number i r a b received operator rangeA rangeB ne dead body outA outB rights range
    position => ?_, fun s p key n h f rest i received body byte => ?_⟩
  · have read : readInterlockSet f.body = some (number, r) := by
      rw [body]
      refine readInterlockSet_spelled (fun j given => ?_) rangeA rangeB ne dead
      rcases position with ⟨rfl, -⟩ | ⟨rfl, -⟩
      · cases given
        exact range
      · cases given
    have served := serveInterlockSet_read received operator read outA outB rights
      (State.interlockPosition_arrived received range position)
    refine ⟨fun safe => ?_, fun conflict => ?_⟩
    · rw [if_pos ((pairSafe_iff a b r.dead).2 safe)] at served
      exact congrArg Host.Outcome.next (State.takeRequest_interlock received _ served)
    · rw [if_neg ((not_pairSafe_iff a b r.dead).2 conflict)] at served
      exact congrArg Host.Outcome.next (State.takeRequest_answered received _ .interlockConflict [] served)
  · have served := serveInterlockClear_read received key body byte
    refine ⟨fun rights low => ?_, fun rights high => ?_, fun noRights => ?_⟩
    · rw [if_pos rights, if_pos (Nat.lt_succ_of_le low)] at served
      exact congrArg Host.Outcome.next (State.takeRequest_interlock received _ served)
    · rw [if_pos rights, if_neg (Nat.not_lt.2 high)] at served
      exact congrArg Host.Outcome.next (State.takeRequest_answered received _ .malformed [] served)
    · rw [if_neg (by simpa [imp_iff_not_or] using noRights)] at served
      exact congrArg Host.Outcome.next (State.takeRequest_answered received _ .notPermitted [] served)

end Sys2Proof.Machine
end

section
/-!
The trigger table: TRIGGER_SET and TRIGGER_CLEAR (R90 to R92), and one visit of the Trigger Unit on an edge (R94, R95).
-/

namespace Sys2Proof.Machine

section
variable {s : State} {p : Port} {n : Nat} {h : HostSession} {f : Frame} {rest : List Frame} {code : Byte}

/-! ### Requests that write the trigger table -/

/-- A request in sequence that writes one trigger position: the same write on the answered state. -/
theorem State.takeRequest_trigger (received : s.receives p n h f rest code) (serve : Service) {fields : List Byte}
    {i : Nat} {r : Option Trigger}
    (served : serve n f.body (s.arrived p n h rest) = ((s.arrived p n h rest).setTrigger i r, okWith fields)) :
    s.takeRequest p code serve = (s.answered p n h f rest .ok fields).setTrigger i r :=
  State.takeRequest_effect received serve .ok fields (fun t => t.setTrigger i r) served (fun t => by simp)
    (fun t q => t.setSession_setTrigger n q i r) (fun t => by simp) (fun t q => t.setLink_setTrigger p q i r)

theorem State.foreignTrigger_arrived (i : Nat) :
    (s.arrived p n h rest).foreignTrigger i n = s.foreignTrigger i n := by
  rw [State.foreignTrigger, State.arrived_trigger, State.foreignTrigger]

theorem State.foreignTrigger_iff (i m : Nat) :
    s.foreignTrigger i m = true ↔ ∃ r, s.trigger i = some r ∧ r.owner ≠ m := by
  simp [State.foreignTrigger, Option.any_eq_true]

theorem foreignRefusal_arrived (received : s.receives p n h f rest code) (key : Bool) :
    foreignRefusal (s.arrived p n h rest) n key =
      if h.cls = .service then (if key then none else some .notPermitted) else some .notOwner := by
  obtain ⟨⟨_, _, _, _, live, _⟩, _⟩ := received
  rw [foreignRefusal, State.arrived_classOf live]

/-! ### TRIGGER_SET -/

/-- A TRIGGER_SET body in range is read as the number and the fields it spells (R90). -/
theorem readTriggerSet_spelled {i : Nat} {g : TriggerSpec} (number : i ≤ 15) (source : g.source ≤ 31) (low : 1 ≤ g.tag)
    (high : g.tag ≤ 255) (holdoff : g.holdoff < 2 ^ 24) :
    readTriggerSet (u8 i ++ u8 g.source ++ u8 g.edge.code ++ u8 g.tag ++ u8 g.mode.code ++ leBytes 3 g.holdoff) =
      some (i, g) := by
  set body := u8 i ++ u8 g.source ++ u8 g.edge.code ++ u8 g.tag ++ u8 g.mode.code ++ leBytes 3 g.holdoff
  have size : body.length = 8 := rfl
  have time : field body 5 3 = g.holdoff :=
    (field_append_right _ (leBytes 3 g.holdoff) 0 3).trans (by simpa using field_leBytes 3 g.holdoff [] holdoff)
  rw [readTriggerSet, if_pos size, field_byte body (toByte i) 0 rfl, field_byte body (toByte g.source) 1 rfl,
    field_byte body (toByte g.edge.code) 2 rfl, field_byte body (toByte g.tag) 3 rfl,
    field_byte body (toByte g.mode.code) 4 rfl, time, checkedTrigger_eq_some _ _ _ _ _ _ _ _ holdoff]
  refine ⟨number, source, low, Nat.lt_succ_of_le high, rfl, rfl, rfl, ?_, rfl, ?_⟩
  · cases g.edge <;> rfl
  · cases g.mode <;> rfl

/-- A TRIGGER_SET on a bound input is judged by who holds the position (R90, R91). -/
theorem serveTriggerSet_read (received : s.receives p n h f rest code) (operator : h.cls ≠ .observer) {i : Nat}
    {g : TriggerSpec} (read : readTriggerSet f.body = some (i, g)) {input : Input}
    (bound : s.inputAt g.source = some input) :
    serveTriggerSet n f.body (s.arrived p n h rest) =
      if s.foreignTrigger i n then (s.arrived p n h rest, refuse .inUse)
      else ((s.arrived p n h rest).setTrigger i (some ⟨n, g, .ready, none⟩), okWith []) := by
  rw [serveTriggerSet, asOperator_arrived received operator, read]
  simp only [State.arrived_chan, State.chan_of_inputAt bound, State.foreignTrigger_arrived] <;> rfl

/-! ### TRIGGER_CLEAR -/

/-- A TRIGGER_CLEAR whose number is read is judged by who holds the position (R92). -/
theorem serveTriggerClear_read (received : s.receives p n h f rest code) (operator : h.cls ≠ .observer) (key : Bool)
    {i : Nat} (body : f.body = u8 i) (number : i ≤ 15) :
    serveTriggerClear key n f.body (s.arrived p n h rest) =
      match if s.foreignTrigger i n then foreignRefusal (s.arrived p n h rest) n key else none with
      | some r => (s.arrived p n h rest, refuse r)
      | none => ((s.arrived p n h rest).setTrigger i none, okWith (flag (s.trigger i).isSome)) := by
  have read : readIndex 16 (u8 i) = some i := readIndex_single i 16 (by omega) (by omega)
  rw [serveTriggerClear, asOperator_arrived received operator, body, read]
  simp only [State.foreignTrigger_arrived, State.arrived_trigger] <;> rfl

/-- R92, step 3: the position is free or the requester's, or the rights of SERVICE stand in. -/
theorem triggerRights_arrived (received : s.receives p n h f rest code) {key : Bool} {i : Nat}
    (rights : ∀ r, s.trigger i = some r → r.owner = n ∨ h.cls = .service ∧ key = true) :
    (if s.foreignTrigger i n then foreignRefusal (s.arrived p n h rest) n key else none) = none := by
  by_cases foreign : s.foreignTrigger i n = true
  · obtain ⟨r, held, other⟩ := (State.foreignTrigger_iff i n).1 foreign
    obtain ⟨service, rfl⟩ := (rights r held).resolve_left other
    rw [if_pos foreign, foreignRefusal_arrived received, if_pos service, if_pos rfl]
  · exact if_neg foreign

end

/-- Settles O23: both requests turn on whether the position holds a record of another session. -/
theorem triggerTableWritten : Obligations.TriggerTableWritten := by
  intro s p key n h f rest i operator number
  refine ⟨fun g received source low high holdoff bound body => ?_, fun received body => ?_⟩
  · obtain ⟨input, bound⟩ := Option.isSome_iff_exists.1 bound
    have read : readTriggerSet f.body = some (i, g) := by
      rw [body]
      exact readTriggerSet_spelled number source low high holdoff
    have served := serveTriggerSet_read received operator read bound
    refine ⟨fun own => ?_, fun foreign => ?_⟩
    · have notForeign : ¬s.foreignTrigger i n = true := fun foreign => by
        obtain ⟨r, held, other⟩ := (State.foreignTrigger_iff i n).1 foreign
        exact other (own r held)
      rw [if_neg notForeign] at served
      exact congrArg Host.Outcome.next (State.takeRequest_trigger received serveTriggerSet served)
    · rw [if_pos ((State.foreignTrigger_iff i n).2 foreign)] at served
      exact congrArg Host.Outcome.next (State.takeRequest_answered received serveTriggerSet .inUse [] served)
  · have served := serveTriggerClear_read received operator key body number
    refine ⟨fun rights => ?_, fun r held other => ?_⟩
    · rw [triggerRights_arrived received rights] at served
      exact congrArg Host.Outcome.next (State.takeRequest_trigger received (serveTriggerClear key) served)
    · rw [if_pos ((State.foreignTrigger_iff i n).2 ⟨r, held, other⟩), foreignRefusal_arrived received] at served
      refine ⟨fun cls => ?_, fun cls noKey => ?_⟩
      · rw [if_neg (by simp [cls])] at served
        exact congrArg Host.Outcome.next
          (State.takeRequest_answered received (serveTriggerClear key) .notOwner [] served)
      · rw [if_pos cls, if_neg (by simp [noKey])] at served
        exact congrArg Host.Outcome.next
          (State.takeRequest_answered received (serveTriggerClear key) .notPermitted [] served)

/-! ### One record on an edge (R94, R95) -/

theorem EdgeSel.accepts_iff (e : EdgeSel) (rising : Bool) :
    e.accepts rising = true ↔ e = .either ∨ e = if rising then .rising else .falling := by
  cases e <;> cases rising <;> decide

theorem State.stopped_eq_false_iff (s : State) : s.stopped = false ↔ s.stop.run = .running := by
  cases run : s.stop.run <;> simp [State.stopped, run]

/-- The four conditions of R94. -/
theorem State.fires_iff (s : State) (x : Edge) (r : Trigger) :
    s.fires x r = true ↔ r.spec.source = x.channel ∧ r.state = .ready ∧
      (r.spec.edge = .either ∨ r.spec.edge = if x.rising then .rising else .falling) ∧
      (s.session r.owner).isOpen = true ∧ s.stop.run = .running := by
  simp only [State.fires, Bool.and_eq_true, beq_iff_eq, decide_eq_true_eq, Bool.not_eq_true', EdgeSel.accepts_iff,
    State.stopped_eq_false_iff]
  tauto

theorem TriggerSpec.stateAfter_once {g : TriggerSpec} (once : g.mode = .once) (t now : Nat) :
    g.stateAfter t now = .spent := by
  rw [TriggerSpec.stateAfter, once]

theorem TriggerSpec.stateAfter_every {g : TriggerSpec} (every : g.mode = .every) (t now : Nat) :
    g.stateAfter t now =
      if now < clampTime (t + g.holdoff) then .holdoff (clampTime (t + g.holdoff)) else .ready := by
  rw [TriggerSpec.stateAfter, every]

/-- A record that has fired on edge `x` at `now` (R95, steps 1 and 2). -/
def Trigger.firedOn (r : Trigger) (x : Edge) (now : Nat) : Trigger :=
  { r with state := r.spec.stateAfter x.t now, lastFire := some x.t }

/-- The fire request of record `r` at position `i` on edge `x` (R95, step 3). -/
def Trigger.requestOn (r : Trigger) (i : Nat) (x : Edge) : FireReq :=
  ⟨i, r.owner, x.channel, x.rising, r.spec.tag, r.spec.mode, x.t⟩

/-- A record after the visit on edge `x`. -/
def State.afterEdge (s : State) (x : Edge) (r : Trigger) : Trigger := if s.fires x r then r.firedOn x s.now else r

theorem State.visitTrigger_of_fires {s : State} {x : Edge} {i : Nat} {r : Trigger} (held : s.trigger i = some r)
    (fires : s.fires x r = true) :
    s.visitTrigger x i = { s.setTrigger i (some (r.firedOn x s.now)) with
      fireRequests := s.fireRequests ++ [r.requestOn i x] } := by
  simp only [State.visitTrigger, held, fires, if_true] <;> rfl

theorem State.visitTrigger_of_not_fires {s : State} {x : Edge} {i : Nat}
    (ignores : ∀ r, s.trigger i = some r → s.fires x r = false) : s.visitTrigger x i = s := by
  unfold State.visitTrigger
  split
  · rfl
  · rename_i r held
    simp [ignores r held]

/-! ### The visit of the table -/

/-- The records that fire on edge `x` among the first `k` positions, in table order. -/
def State.firing (s : State) (x : Edge) (k : Nat) : List (Nat × Trigger) :=
  (List.range k).filterMap fun i => ((s.trigger i).filter (s.fires x)).map fun r => (i, r)

theorem State.mem_firing (s : State) (x : Edge) (k i : Nat) (r : Trigger) :
    (i, r) ∈ s.firing x k ↔ i < k ∧ s.trigger i = some r ∧ s.fires x r = true := by
  simp only [State.firing, List.mem_filterMap, List.mem_range, Option.map_eq_some_iff, Option.filter_eq_some_iff,
    Prod.mk.injEq]
  constructor
  · rintro ⟨_, low, _, fires, rfl, rfl⟩
    exact ⟨low, fires⟩
  · rintro ⟨low, fires⟩
    exact ⟨i, low, r, fires, rfl, rfl⟩

theorem State.firing_pairwise (s : State) (x : Edge) (k : Nat) : (s.firing x k).Pairwise fun a b => a.1 < b.1 := by
  refine List.Pairwise.filterMap _ (fun i j lt a first b second => ?_) List.pairwise_lt_range
  obtain ⟨_, -, rfl⟩ := Option.map_eq_some_iff.1 first
  obtain ⟨_, -, rfl⟩ := Option.map_eq_some_iff.1 second
  exact lt

theorem State.firing_succ (s : State) (x : Edge) (k : Nat) :
    s.firing x (k + 1) =
      s.firing x k ++ (((s.trigger k).filter (s.fires x)).map fun r => (k, r)).toList := by
  rw [State.firing, List.range_succ, List.filterMap_append, State.firing, List.filterMap_cons, List.filterMap_nil]
  cases ((s.trigger k).filter (s.fires x)).map fun r => (k, r) <;> rfl

/-- `t` is `s` once the first `k` positions have been visited on edge `x`. -/
structure State.visitedTo (s : State) (x : Edge) (k : Nat) (t : State) : Prop where
  frame : t = { s with triggers := t.triggers, fireRequests := t.fireRequests }
  requests : t.fireRequests = s.fireRequests ++ (s.firing x k).map fun y => y.2.requestOn y.1 x
  table : ∀ i, t.trigger i = if i < k then (s.trigger i).map (s.afterEdge x) else s.trigger i

namespace State.visitedTo
variable {s t : State} {x : Edge} {k : Nat}

/-- No visit changes what the conditions of R94 look at outside the record. -/
theorem fires_eq (visited : s.visitedTo x k t) : t.fires x = s.fires x := by
  rw [visited.frame]
  rfl

theorem now_eq (visited : s.visitedTo x k t) : t.now = s.now := by
  rw [visited.frame]
  rfl

theorem next (visited : s.visitedTo x k t) : t.trigger k = s.trigger k := by
  rw [visited.table, if_neg (Nat.lt_irrefl k)]

/-- The visit of a record that fires. -/
theorem step_fires (visited : s.visitedTo x k t) {r : Trigger} (low : k < 16) (held : s.trigger k = some r)
    (fires : s.fires x r = true) : s.visitedTo x (k + 1) (t.visitTrigger x k) := by
  rw [State.visitTrigger_of_fires (visited.next.trans held) (by rw [visited.fires_eq, fires]), visited.now_eq]
  refine ⟨?_, ?_, fun i => ?_⟩
  · rw [visited.frame]
    rfl
  · simp [State.firing_succ, held, Option.filter_some_pos fires, visited.requests]
  · change (t.setTrigger k _).trigger i = _
    rw [State.trigger_setTrigger, visited.table]
    by_cases same : i = k
    · subst same
      simp [low, held, State.afterEdge, fires]
    · rw [if_neg (by omega)]
      exact if_congr (by omega) rfl rfl

/-- The visit of a position that is free, or whose record ignores the edge. -/
theorem step_ignores (visited : s.visitedTo x k t) (ignores : ∀ r, s.trigger k = some r → s.fires x r = false) :
    s.visitedTo x (k + 1) (t.visitTrigger x k) := by
  have none_fires : (s.trigger k).filter (s.fires x) = none :=
    Option.filter_eq_none_iff.2 fun r held => by simp [ignores r held]
  have unchanged : (s.trigger k).map (s.afterEdge x) = s.trigger k := by
    cases held : s.trigger k with
    | none => rfl
    | some r => simp [State.afterEdge, ignores r held]
  rw [State.visitTrigger_of_not_fires fun r held => by rw [visited.fires_eq, ignores r (visited.next ▸ held)]]
  refine ⟨visited.frame, ?_, fun i => ?_⟩
  · rw [visited.requests, State.firing_succ, none_fires]
    simp
  · rw [visited.table]
    by_cases same : i = k
    · subst same
      simp [unchanged]
    · exact if_congr (by omega) rfl rfl

end State.visitedTo

theorem State.visitedTo_foldl (s : State) (x : Edge) {k : Nat} (size : k ≤ 16) :
    s.visitedTo x k ((List.range k).foldl (State.visitTrigger x) s) := by
  induction k with
  | zero => exact ⟨rfl, (List.append_nil _).symm, fun i => (if_neg i.not_lt_zero).symm⟩
  | succ k ih =>
    have visited := ih (by omega)
    rw [List.range_succ, List.foldl_append, List.foldl_cons, List.foldl_nil]
    by_cases fires : ∃ r, s.trigger k = some r ∧ s.fires x r = true
    · obtain ⟨r, held, fires⟩ := fires
      exact visited.step_fires (by omega) held fires
    · exact visited.step_ignores fun r held => Bool.eq_false_iff.2 fun yes => fires ⟨r, held, yes⟩

theorem State.lt_of_trigger {s : State} {i : Nat} {r : Trigger} (held : s.trigger i = some r) : i < 16 := by
  by_contra out
  rw [State.trigger, tget_out _ _ _ (Nat.le_of_not_lt out)] at held
  cases held

/-- The whole table has been visited. -/
theorem State.visitedTo.table_all {s t : State} {x : Edge} (visited : s.visitedTo x 16 t) (i : Nat) :
    t.trigger i = (s.trigger i).map (s.afterEdge x) := by
  rw [visited.table]
  split
  · rfl
  · rename_i out
    cases held : s.trigger i with
    | none => rfl
    | some r => exact absurd (State.lt_of_trigger held) out

/-- Settles O25: whether a record fires depends on no other record, so that the visit of the table fires the records that
meet the conditions of R94 when the edge is taken. -/
theorem triggerEdgeFires : Obligations.TriggerEdgeFires := by
  intro s x xs edges
  set s1 : State := { s with edges := xs }
  have visited := s1.visitedTo_foldl x (Nat.le_refl 16)
  refine ⟨(List.range 16).foldl (State.visitTrigger x) s1, s1.firing x 16, ?_, visited.frame, fun i r => ?_,
    s1.firing_pairwise x 16, visited.requests, fun i r mem => ?_, fun i quiet => ?_⟩
  · simp only [exec, execTriggerEdge, edges] <;> rfl
  · rw [State.mem_firing, State.fires_iff]
    exact and_iff_right_of_imp fun fired => State.lt_of_trigger fired.1
  · obtain ⟨-, held, fires⟩ := (s1.mem_firing x 16 i r).1 mem
    refine ⟨r.spec.stateAfter x.t s.now, ?_, fun once => TriggerSpec.stateAfter_once once _ _, fun every ahead => ?_,
      fun every reached => ?_⟩
    · rw [visited.table_all, held, Option.map_some, State.afterEdge, if_pos fires]
      rfl
    · exact (TriggerSpec.stateAfter_every every _ _).trans (if_pos ahead)
    · exact (TriggerSpec.stateAfter_every every _ _).trans (if_neg (Nat.not_lt.2 reached))
  · rw [visited.table_all]
    change (s.trigger i).map _ = s.trigger i
    cases held : s.trigger i with
    | none => rfl
    | some r =>
      have ignores : ¬s1.fires x r = true := fun fires =>
        quiet r ((s1.mem_firing x 16 i r).2 ⟨State.lt_of_trigger held, held, fires⟩)
      rw [Option.map_some, State.afterEdge, if_neg ignores]

end Sys2Proof.Machine
end

section
/-!
What leaves Stop Control as it stands (R105): drives, the queue, reports, sessions, loads, the ports, and every request
but TIME_SET, HALT and RESUME.
-/

namespace Sys2Proof.Machine

/-! ### Channels, the queue and reports -/

theorem State.stop_of_frame {s t : State} (h : ∃ ch ps, t = { s with channels := ch, pins := ps }) : t.stop = s.stop := by
  obtain ⟨ch, ps, rfl⟩ := h
  rfl

theorem State.workedOn.stop {s t : State} (h : s.workedOn t) : t.stop = s.stop := by
  obtain ⟨ch, ps, q, a, r, rfl⟩ := h
  rfl

theorem State.foldl_stop {α : Type} {f : State → α → State} (hf : ∀ s a, (f s a).stop = s.stop) (l : List α)
    (s : State) : (l.foldl f s).stop = s.stop := by
  induction l generalizing s with
  | nil => rfl
  | cons a l ih => exact (ih (f s a)).trans (hf s a)

@[simp] theorem State.driveSafe_stop (s : State) (c : Nat) : (s.driveSafe c).stop = s.stop :=
  State.stop_of_frame (s.driveSafe_frame c)

@[simp] theorem State.setHeld_stop (s : State) (c : Nat) (held : Bool) : (s.setHeld c held).stop = s.stop := by
  obtain ⟨ch, frame⟩ := s.setHeld_frame c held
  rw [frame]

@[simp] theorem State.reportTo_stop (s : State) (n : Option Nat) (body : ReportBody) :
    (s.reportTo n body).stop = s.stop := by
  cases n with
  | none => rfl
  | some m => exact s.addReport_stop _ _ _

@[simp] theorem State.failOccurrence_stop (s : State) (e : Entry) (reason : FailReason) (time : Nat) :
    (s.failOccurrence e reason time).stop = s.stop := by
  obtain ⟨q, a, r, frame⟩ := s.failOccurrence_frame e reason time
  rw [frame]

@[simp] theorem State.applyVerdict_stop (s : State) (e : Entry) (v : Verdict) : (s.applyVerdict e v).stop = s.stop := by
  obtain ⟨f, worked, -⟩ := s.applyVerdict_frame e v
  exact worked.stop

@[simp] theorem State.dispose_stop (s : State) (owners : Nat → Bool) : (s.dispose owners).stop = s.stop :=
  (s.dispose_frame owners).stop

@[simp] theorem State.reevaluate_stop (s : State) (e : Entry) : (s.reevaluate e).stop = s.stop := by
  unfold State.reevaluate
  split
  · rfl
  · split
    · exact s.applyVerdict_stop e _
    · rfl

@[simp] theorem State.faultEntry_stop (s : State) (c : Nat) (o : Output) (bad : List Nat) :
    (s.faultEntry c o bad).stop = s.stop := by
  have faulted := State.stop_of_frame (s.faulted_frame c o bad)
  rw [State.faultEntry_eq]
  split
  · exact (State.addReport_stop _ _ _ _).trans faulted
  · exact faulted

@[simp] theorem State.readback_stop (s : State) (c : Nat) (o : Output) (wires : BitVec 24) :
    (s.readback c o wires).stop = s.stop := by
  unfold State.readback
  split
  · rfl
  · exact s.faultEntry_stop c o _

@[simp] theorem State.handLevelChange_stop (s : State) (c : Nat) : (s.handLevelChange c).stop = s.stop := by
  unfold State.handLevelChange
  dsimp only
  split <;> rfl

@[simp] theorem State.handEdge_stop (s : State) (c : Nat) (subscribers : List Nat) (rising : Bool) (t : Nat) :
    (s.handEdge c subscribers rising t).stop = s.stop := State.handLevelChange_stop _ c

@[simp] theorem State.sampleInput_stop (s : State) (c : Nat) (i : Input) (l : PinLevel) :
    (s.sampleInput c i l).stop = s.stop := by
  unfold State.sampleInput
  dsimp only
  split
  · rfl
  split
  · rfl
  split
  · exact State.handLevelChange_stop _ c
  · exact State.handEdge_stop _ _ _ _ _

theorem State.visitTrigger_stop (x : Edge) (s : State) (k : Nat) : (s.visitTrigger x k).stop = s.stop := by
  unfold State.visitTrigger
  split
  · rfl
  · split <;> rfl

theorem State.copyTemplate_stop (t : Nat) (s : State) (e : Entry) : (s.copyTemplate t e).stop = s.stop := by
  unfold State.copyTemplate
  split
  · rfl
  · exact s.addReport_stop _ _ _

@[simp] theorem State.takeFireRequest_stop (s : State) (f : FireReq) : (s.takeFireRequest f).stop = s.stop := by
  unfold State.takeFireRequest
  dsimp only
  split
  · exact (State.addReport_stop _ _ _ _).trans (State.foldl_stop (f := State.convertTemplate f.t) (fun _ _ => rfl) _ s)
  · exact (State.addReport_stop _ _ _ _).trans (State.foldl_stop (State.copyTemplate_stop f.t) _ s)

/-! ### Sessions -/

@[simp] theorem State.returnSession_stop (s : State) (n : Nat) (h : HostSession) : (s.returnSession n h).stop = s.stop := by
  unfold State.returnSession
  extract_lets held s1 s2 s3
  have released : s2.stop = s1.stop := State.foldl_stop (fun t c => t.setHeld_stop c false) held s1
  have noticed : s3.stop = s.stop := (s2.addReport_stop _ _ _).trans (released.trans (s.setSession_stop _ _))
  split
  · exact noticed
  · exact (s3.dispose_stop _).trans noticed

@[simp] theorem State.arrive_stop (s : State) (n : Nat) (h : HostSession) : (s.arrive n h).stop = s.stop := by
  unfold State.arrive
  split
  · exact s.setSession_stop _ _
  · exact s.returnSession_stop n h

@[simp] theorem State.noteReply_stop (s : State) (n seq : Nat) (r : Frame) (cached : Bool) :
    (s.noteReply n seq r cached).stop = s.stop := by
  unfold State.noteReply
  split
  · exact s.setSession_stop _ _
  · rfl

@[simp] theorem State.teardown_stop (s : State) (n : Nat) : (s.teardown n).stop = s.stop := by
  unfold State.teardown
  extract_lets s1 s2 s3
  have driven : s2.stop = s1.stop := State.stop_of_frame (State.foldl_driveSafe_frame _ s1)
  rw [State.setSession_stop, State.setReportQueue_stop]
  exact driven

@[simp] theorem State.takeOver_stop (s : State) (n : Nat) : (s.takeOver n).stop = s.stop := by
  unfold State.takeOver
  extract_lets s1
  rw [State.setSession_stop, State.setReportQueue_stop]

@[simp] theorem State.lapse_stop (s : State) (n : Nat) (h : HostSession) : (s.lapse n h).stop = s.stop := by
  unfold State.lapse
  extract_lets s1 owned
  have lapsed : s1.stop = s.stop := s.setSession_stop _ _
  have driven := State.foldl_stop State.driveSafe_stop owned s1
  exact (State.foldl_stop (fun t c => t.setHeld_stop c true) owned _).trans (driven.trans lapsed)

@[simp] theorem State.forceClaim_stop (s : State) (c m n : Nat) : (s.forceClaim c m n).stop = s.stop := by
  obtain ⟨q, r, cancelled, -⟩ := State.foldl_cancelClaimed_frame (s.entriesOn m c) s
  unfold State.forceClaim
  dsimp only
  rw [cancelled, State.addReport_stop, State.setChan_stop]

/-! ### The storage array and the loads -/

theorem State.applyPlanRecord_stop (s : State) (target base : Nat) (x : PlanRecord) :
    (s.applyPlanRecord target base x).stop = s.stop := by
  cases x with
  | bind c spec =>
    refine (State.stop_of_frame (State.holdFor_frame _ c target)).trans (State.stop_of_frame ?_)
    split
    · exact s.bindForLoad_frame c target spec
    · exact s.rebindChannel_frame c target
  | interlock r =>
    unfold State.applyPlanRecord
    dsimp only
    split <;> rfl
  | trigger t spec => rfl
  | action form a => rfl
  | unreadable => rfl

theorem State.runPlan_stop {target base : Nat} {plan : List PlanRecord} :
    ∀ {index : Nat} {s t : State}, State.runPlan target base index plan s = .ok t → t.stop = s.stop := by
  induction plan with
  | nil =>
    rintro index s t ⟨⟩
    rfl
  | cons x xs ih =>
    intro index s t h
    unfold State.runPlan at h
    split at h
    · cases h
    · exact (ih h).trans (s.applyPlanRecord_stop target base x)

@[simp] theorem State.settleStartup_stop (s : State) (target : Nat) (outcome : StartupOutcome) (ends : Bool) :
    (s.settleStartup target outcome ends).stop = s.stop := by
  unfold State.settleStartup
  dsimp only
  split
  · split
    · exact State.teardown_stop _ 5
    · rfl
  · rfl

theorem State.loadFor_stop (s : State) (k target : Nat) (start : LoadStart) (plan : List PlanRecord) :
    (s.loadFor k target start plan).stop = s.stop := by
  unfold State.loadFor
  dsimp only
  split
  · rename_i s1 ran
    rw [State.settleStartup_stop, State.addReport_stop, State.runPlan_stop ran]
  · rw [State.settleStartup_stop, State.addReport_stop]

theorem State.loadCorrupt_stop (s : State) (k : Nat) (n : Option Nat) : (s.loadCorrupt k n).stop = s.stop := by
  unfold State.loadCorrupt
  dsimp only
  split
  · exact State.reportTo_stop _ _ _
  · rw [State.settleStartup_stop, State.reportTo_stop, State.setSlot_stop]

@[simp] theorem State.completeRead_stop (s : State) (k : Nat) (n : Option Nat) (start : LoadStart) (bytes : List Byte) :
    (s.completeRead k n start bytes).stop = s.stop := by
  unfold State.completeRead
  dsimp only
  split
  · exact State.loadCorrupt_stop _ k n
  · split
    · rfl
    · exact State.loadFor_stop _ k _ start _

@[simp] theorem State.endProgramming_stop (s : State) (k : Nat) (n : Option Nat) (image bytes : List Byte) :
    (s.endProgramming k n image bytes).stop = s.stop := by
  unfold State.endProgramming
  dsimp only
  split <;> exact State.reportTo_stop _ _ _

@[simp] theorem State.abortByLow_stop (s : State) : s.abortByLow.stop = s.stop := by
  unfold State.abortByLow
  split
  · rfl
  · rfl
  all_goals exact State.reportTo_stop _ _ _

/-! ### The ports -/

@[simp] theorem State.countError_stop (s : State) (p : Port) : (s.countError p).stop = s.stop := s.setLink_stop p _

@[simp] theorem State.receive_stop (s : State) (p : Port) (f : Frame) : (s.receive p f).stop = s.stop := by
  unfold State.receive
  dsimp only
  split <;> exact s.setLink_stop p _

@[simp] theorem State.discard_stop (s : State) : s.discard.stop = s.stop := s.countError_stop .a

@[simp] theorem State.gapTimeout_stop (s : State) : s.gapTimeout.stop = s.stop := by
  unfold State.gapTimeout
  split
  · exact s.discard_stop
  · rfl

theorem State.checkFrame_stop (s : State) (len : Nat) (kept : List Byte) : (s.checkFrame len kept).stop = s.stop := by
  unfold State.checkFrame
  split
  · exact s.receive_stop .a _
  · exact s.discard_stop

theorem State.judgeByte_stop (s : State) (b : RxByte) : (s.judgeByte b).stop = s.stop := by
  unfold State.judgeByte
  split
  · split <;> rfl
  · split
    · rfl
    · exact s.discard_stop
  · split
    · exact s.discard_stop
    split
    · exact s.checkFrame_stop _ _
    · rfl

theorem State.takeByte_stop (s : State) (b : RxByte) : (s.takeByte b).stop = s.stop :=
  (State.judgeByte_stop _ b).trans s.gapTimeout_stop

@[simp] theorem State.judgeWrite_stop (s : State) (bytes : List Byte) : (s.judgeWrite bytes).stop = s.stop := by
  unfold State.judgeWrite
  split
  · exact s.countError_stop .b
  · split
    · exact s.receive_stop .b _
    · exact s.countError_stop .b

theorem State.choose_stop {s s1 : State} {p : Port} {f : OutFrame} (h : s.choose p = some (f, s1)) : s1.stop = s.stop := by
  unfold State.choose at h
  split at h
  · cases h
    exact s.setLink_stop p _
  split at h
  · cases h
  split at h
  · cases h
  unfold State.handOver at h
  dsimp only at h
  split at h
  · cases h
  · cases h
    rw [State.setLink_stop, State.setReportQueue_stop]

theorem State.offer_stop {s s1 : State} {f : OutFrame} (h : s.offer = some (f, s1)) : s1.stop = s.stop := by
  unfold State.offer at h
  split at h
  · cases h
    rfl
  · obtain ⟨⟨g, s2⟩, chosen, eq⟩ := Option.map_eq_some_iff.1 h
    cases eq
    have same := State.choose_stop chosen
    exact same

theorem State.takeFrame_stop {s s1 : State} {p : Port} {sel : Byte → Bool} {f : Frame}
    (taken : s.takeFrame p sel = some (f, s1)) : s1.stop = s.stop := by
  obtain ⟨rest, -, -, rfl⟩ := State.takeFrame_eq_some taken
  exact s.setLink_stop p _

@[simp] theorem State.placeReply_stop (s : State) (p : Port) (r : Frame) (resets : Bool) :
    (s.placeReply p r resets).stop = s.stop := s.setLink_stop p _

/-! ### The rules of the requests -/

/-- The rule of a request leaves Stop Control as it stands, whatever the session, the body and the state. -/
def Service.leavesStop (serve : Service) : Prop := ∀ n body (s : State), (serve n body s).1.stop = s.stop

section
variable {s : State} {n : Nat} {key : Bool}

theorem asOperator_stop {act : State × Answer} (h : act.1.stop = s.stop) : (asOperator s n act).1.stop = s.stop := by
  unfold asOperator
  split
  · rfl
  · exact h

theorem asService_stop {act : State × Answer} (h : act.1.stop = s.stop) : (asService s n key act).1.stop = s.stop := by
  unfold asService
  split
  · exact h
  · rfl

theorem withBuild_stop {act : Build → State × Answer} (h : ∀ b, (act b).1.stop = s.stop) :
    (withBuild s n key act).1.stop = s.stop := by
  unfold withBuild
  split
  · rfl
  split
  · rfl
  split
  · rfl
  split
  · rfl
  · exact h _

end

theorem emptyQuery_leavesStop (fields : State → List Byte) :
    Service.leavesStop fun _ body s => emptyQuery body s (fields s) := by
  intro n body s
  dsimp only
  rw [emptyQuery_state]

theorem serveUnknown_leavesStop : Service.leavesStop serveUnknown := fun _ _ _ => rfl

theorem serveOpen_stop (p : Port) (key : Bool) (body : List Byte) (s : State) :
    (serveOpen p key body s).1.stop = s.stop := by
  unfold serveOpen
  split
  · rfl
  split
  · rfl
  split
  · rfl
  split
  · rfl
  split
  · rfl
  · exact (State.setReportQueue_stop _ _ _).trans (s.setSession_stop _ _)

theorem serveClose_leavesStop : Service.leavesStop serveClose := by
  intro n body s
  unfold serveClose
  split
  · exact s.teardown_stop n
  · rfl

theorem serveTimeTrim_leavesStop (key : Bool) : Service.leavesStop (serveTimeTrim key) := by
  intro n body s
  refine asService_stop ?_
  split <;> rfl

theorem serveBind_leavesStop : Service.leavesStop serveBind := by
  intro n body s
  refine asOperator_stop ?_
  split
  · rfl
  split
  · rfl
  split
  · rfl
  · exact State.stop_of_frame (s.bindChannel_frame _ n _)

theorem serveUnbind_leavesStop (key : Bool) : Service.leavesStop (serveUnbind key) := by
  intro n body s
  refine asOperator_stop ?_
  repeat' split
  all_goals rfl

theorem serveClearFault_leavesStop (key : Bool) : Service.leavesStop (serveClearFault key) := by
  intro n body s
  refine asOperator_stop ?_
  repeat' split
  all_goals rfl

theorem serveRequalify_leavesStop : Service.leavesStop serveRequalify := by
  intro n body s
  refine asOperator_stop ?_
  repeat' split
  all_goals rfl

theorem serveChannelQuery_leavesStop : Service.leavesStop serveChannelQuery := by
  intro n body s
  unfold serveChannelQuery
  split <;> rfl

theorem serveSubscribers_stop (change : List Nat → List Nat) (body : List Byte) (s : State) :
    (serveSubscribers change body s).1.stop = s.stop := by
  unfold serveSubscribers
  repeat' split
  all_goals rfl

theorem serveClaim_leavesStop (key : Bool) : Service.leavesStop (serveClaim key) := by
  intro n body s
  refine asOperator_stop ?_
  split
  · rfl
  split
  · rfl
  split
  · rfl
  split
  · rfl
  split
  · rfl
  split
  · exact s.forceClaim_stop _ _ n
  · rfl

theorem serveRelease_leavesStop : Service.leavesStop serveRelease := by
  intro n body s
  refine asOperator_stop ?_
  repeat' split
  all_goals rfl

theorem serveTakeover_leavesStop : Service.leavesStop serveTakeover := by
  intro n body s
  refine asOperator_stop ?_
  split
  · rfl
  split
  · rfl
  split
  · rfl
  split
  · rfl
  · exact s.takeOver_stop n

theorem serveActionAdd_leavesStop : Service.leavesStop serveActionAdd := by
  intro n body s
  refine asOperator_stop ?_
  repeat' split
  all_goals rfl

theorem serveActionCancel_leavesStop (key : Bool) : Service.leavesStop (serveActionCancel key) := by
  intro n body s
  refine asOperator_stop ?_
  repeat' split
  all_goals rfl

theorem serveGroupCancel_leavesStop : Service.leavesStop serveGroupCancel := by
  intro n body s
  refine asOperator_stop ?_
  split <;> rfl

theorem serveQueueQuery_leavesStop : Service.leavesStop serveQueueQuery := by
  intro n body s
  unfold serveQueueQuery
  split <;> rfl

theorem serveInterlockSet_leavesStop (key : Bool) : Service.leavesStop (serveInterlockSet key) := by
  intro n body s
  refine asOperator_stop ?_
  repeat' split
  all_goals rfl

theorem serveInterlockClear_leavesStop (key : Bool) : Service.leavesStop (serveInterlockClear key) := by
  intro n body s
  refine asService_stop ?_
  split <;> rfl

theorem serveTriggerSet_leavesStop : Service.leavesStop serveTriggerSet := by
  intro n body s
  refine asOperator_stop ?_
  repeat' split
  all_goals rfl

theorem serveTriggerClear_leavesStop (key : Bool) : Service.leavesStop (serveTriggerClear key) := by
  intro n body s
  refine asOperator_stop ?_
  repeat' split
  all_goals rfl

theorem serveTriggerQuery_leavesStop : Service.leavesStop serveTriggerQuery := by
  intro n body s
  unfold serveTriggerQuery
  split <;> rfl

theorem serveReportAck_leavesStop : Service.leavesStop serveReportAck := by
  intro n body s
  unfold serveReportAck
  split
  · rfl
  dsimp only
  split
  · exact s.setReportQueue_stop n _
  split <;> rfl

theorem serveReportResend_leavesStop : Service.leavesStop serveReportResend := by
  intro n body s
  unfold serveReportResend
  split
  · exact s.setReportQueue_stop n _
  · rfl

theorem servePlanBegin_leavesStop (key : Bool) : Service.leavesStop (servePlanBegin key) := by
  intro n body s
  refine asService_stop ?_
  repeat' split
  all_goals rfl

theorem servePlanPut_leavesStop (key : Bool) : Service.leavesStop (servePlanPut key) := by
  intro n body s
  refine withBuild_stop fun b => ?_
  repeat' split
  all_goals rfl

theorem servePlanAbandon_leavesStop (key : Bool) : Service.leavesStop (servePlanAbandon key) := by
  intro n body s
  refine withBuild_stop fun b => ?_
  split <;> rfl

theorem servePlanCommit_leavesStop (key prot : Bool) : Service.leavesStop (servePlanCommit key prot) := by
  intro n body s
  refine withBuild_stop fun b => ?_
  repeat' split
  all_goals rfl

theorem servePlanErase_leavesStop (key prot : Bool) : Service.leavesStop (servePlanErase key prot) := by
  intro n body s
  refine asService_stop ?_
  repeat' split
  all_goals rfl

theorem servePlanLoad_leavesStop : Service.leavesStop servePlanLoad := by
  intro n body s
  refine asOperator_stop ?_
  repeat' split
  all_goals rfl

theorem serveDeviceReset_leavesStop (p : Port) (key : Bool) : Service.leavesStop (serveDeviceReset p key) := by
  intro n body s
  refine asService_stop ?_
  repeat' split
  all_goals rfl

end Sys2Proof.Machine
end

section
/-!
What a command can do to Stop Control (R105 to R116), and that it keeps its law: O53.
-/

namespace Sys2Proof.Machine

/-! ### The changes of Stop Control -/

/-- Stop Control after an entry into STOPPED at `now` (R109). -/
def StopControl.entered (c : StopControl) (byLine : Bool) (now : Nat) : StopControl :=
  { c.addCause byLine with run := .stopped, entryTime := some now, safeAsserted := true }

/-- Stop Control after a cause has come: an entry from RUNNING, else the cause alone (R107, R108). -/
def StopControl.caused (c : StopControl) (byLine : Bool) (now : Nat) : StopControl :=
  if c.run = .running then c.entered byLine now else c.addCause byLine

/-- Stop Control after a line change, its level already written (R107). -/
def StopControl.lineChanged (c : StopControl) (asserted : Bool) (now : Nat) : StopControl :=
  if asserted then c.caused true now else { c with line := false }

/-- The qualified level that a sampled one gives. -/
def StopLevel.ofSample (asserted : Bool) : StopLevel := if asserted then .asserted else .released

/-- Stop Control with a level just qualified, before the line change: the gate is open (R106, R116). -/
def StopControl.leveled (c : StopControl) (asserted : Bool) : StopControl :=
  { c with level := .ofSample asserted, candidate := none, gateOpen := true }

/-- Stop Control after a level has qualified; the first level after a reset is a line change only when it is ASSERTED
(R106, R107). -/
def StopControl.qualified (c : StopControl) (asserted : Bool) (now : Nat) : StopControl :=
  if c.level = .unknown ∧ asserted = false then c.leveled asserted else (c.leveled asserted).lineChanged asserted now

/-- Stop Control after a sample at the elapsed count `elapsed` (R106). -/
def StopControl.sampled (c : StopControl) (asserted : Bool) (now elapsed : Nat) : StopControl :=
  match c.count asserted now with
  | none => { c with candidate := none, nextSample := elapsed + 1 }
  | some k =>
    if k.count < Config.stopQualify then { c with candidate := some k, nextSample := elapsed + 1 }
    else { c with nextSample := elapsed + 1 }.qualified k.asserted now

/-- What one command can do to Stop Control: a HALT, a RESUME accepted on a STOPPED part, a sample of STOP_N, a TIME_SET,
which shifts the candidate's first-sample time, and a reset. -/
inductive StopControl.movesTo (c : StopControl) : StopControl → Prop
  | stands : c.movesTo c
  | halted (now : Nat) : c.movesTo (c.caused false now)
  | resumed (stopped : c.run = .stopped) (line : c.line = false) : c.movesTo c.resumed
  | sampled (asserted : Bool) (now elapsed : Nat) : c.movesTo (c.sampled asserted now elapsed)
  | shifted (f : Nat → Nat) :
      c.movesTo { c with candidate := c.candidate.map fun k => { k with first := f k.first } }
  | reset (first : Nat) : c.movesTo (.reset first)

/-! ### The qualified level -/

theorem StopLevel.ofSample_eq_asserted {asserted : Bool} : StopLevel.ofSample asserted = .asserted ↔ asserted = true := by
  cases asserted <;> decide

theorem StopLevel.ofSample_ne_unknown (asserted : Bool) : StopLevel.ofSample asserted ≠ .unknown := by
  cases asserted <;> decide

theorem RunState.stopped_of_not_running {r : RunState} (h : r ≠ .running) : r = .stopped := by
  cases r with
  | running => exact absurd rfl h
  | stopped => rfl

section
variable {c : StopControl} {asserted : Bool} {now : Nat}

/-- A qualified level writes level, line and gate, and lets the candidate go; a line that never was in the set stays out
of it. -/
theorem StopControl.qualified_frame (h : c.level = .unknown → c.line = false) : c.qualified asserted now =
    { c with
      run := (c.qualified asserted now).run, line := asserted, level := .ofSample asserted, candidate := none
      entryTime := (c.qualified asserted now).entryTime, gateOpen := true
      safeAsserted := (c.qualified asserted now).safeAsserted } := by
  unfold StopControl.qualified
  split
  · rename_i quiet
    obtain ⟨unknown, rfl⟩ := quiet
    rw [StopControl.leveled, ← h unknown]
  · cases asserted with
    | false => rfl
    | true =>
      unfold StopControl.lineChanged StopControl.caused
      rw [if_pos rfl]
      split <;> rfl

theorem StopControl.qualified_changes (h : asserted = true ∨ c.level ≠ .unknown) :
    c.qualified asserted now = (c.leveled asserted).lineChanged asserted now := by
  refine if_neg ?_
  rintro ⟨unknown, rfl⟩
  exact h.resolve_left Bool.false_ne_true unknown

theorem StopControl.qualified_enters (run : c.run = .running) :
    c.qualified true now = (c.leveled true).entered true now :=
  (StopControl.qualified_changes (.inl rfl)).trans (if_pos run)

theorem StopControl.qualified_stays (h : asserted = false ∨ c.run = .stopped) :
    (c.qualified asserted now).run = c.run ∧ (c.qualified asserted now).entryTime = c.entryTime ∧
      (c.qualified asserted now).safeAsserted = c.safeAsserted := by
  cases asserted with
  | false => unfold StopControl.qualified; split <;> exact ⟨rfl, rfl, rfl⟩
  | true =>
    have stays : (c.leveled true).run ≠ .running := fun run => nomatch run.symm.trans (h.resolve_left nofun)
    have caused : (c.leveled true).lineChanged true now = (c.leveled true).addCause true := if_neg stays
    rw [StopControl.qualified_changes (.inl rfl), caused]
    exact ⟨rfl, rfl, rfl⟩

end

/-! ### The law of Stop Control -/

theorem StopControl.lawful.caused {c : StopControl} (h : c.lawful) (now : Nat) : (c.caused false now).lawful := by
  obtain ⟨safe, running, line, gate, entry, candidate⟩ := h
  unfold StopControl.caused
  split
  · exact ⟨rfl, (nomatch ·), line, gate, fun _ => rfl, candidate⟩
  · rename_i stopped
    exact ⟨safe, fun run => absurd run stopped, line, gate, entry, candidate⟩

theorem StopControl.lawful.resumed {c : StopControl} (h : c.lawful) (clear : c.line = false) : c.resumed.lawful := by
  obtain ⟨safe, running, line, gate, entry, candidate⟩ := h
  exact ⟨rfl, fun _ => ⟨clear, rfl⟩, line, gate, (nomatch ·), candidate⟩

theorem StopControl.lawful.line_of_unknown {c : StopControl} (h : c.lawful) (unknown : c.level = .unknown) :
    c.line = false := by
  obtain ⟨-, -, line, -⟩ := h
  rw [← Bool.not_eq_true, line, unknown]
  decide

/-- A level that qualifies takes its cause with it: ASSERTED stops the part or finds it STOPPED, and RELEASED leaves LINE
out of the set. -/
theorem StopControl.lawful.qualified {c : StopControl} (h : c.lawful) (asserted : Bool) (now : Nat) :
    (c.qualified asserted now).lawful := by
  have shape := StopControl.qualified_frame (asserted := asserted) (now := now) h.line_of_unknown
  have level := (StopLevel.ofSample_eq_asserted (asserted := asserted)).symm
  have known := StopLevel.ofSample_ne_unknown asserted
  obtain ⟨safe, running, -, -, entry, -⟩ := h
  rw [shape]
  by_cases stays : asserted = false ∨ c.run = .stopped
  · obtain ⟨run, entryTime, safeAsserted⟩ := StopControl.qualified_stays (now := now) stays
    rw [run, entryTime, safeAsserted]
    have released : c.run = .running → asserted = false := fun run =>
      stays.resolve_right fun stopped => nomatch run.symm.trans stopped
    exact ⟨safe, fun run => ⟨released run, (running run).2⟩, level, iff_of_true rfl known, entry, fun _ => (nomatch ·)⟩
  · obtain ⟨rose, run⟩ := not_or.1 stays
    obtain rfl := Bool.not_eq_false _ ▸ rose
    rw [StopControl.qualified_enters (RunState.running_of_not_stopped run)]
    exact ⟨rfl, (nomatch ·), level, iff_of_true rfl known, fun _ => rfl, fun _ => (nomatch ·)⟩

/-- A candidate counts a level other than the qualified one, from 1 (R106). -/
theorem StopControl.count_spec {c : StopControl} {asserted : Bool} {now : Nat} {k : StopCandidate}
    (h : c.count asserted now = some k) : k.asserted = asserted ∧ 1 ≤ k.count ∧ c.level.equals asserted = false := by
  unfold StopControl.count at h
  split at h
  · cases h
  · rename_i differs
    have differs := Bool.not_eq_true _ ▸ differs
    split at h
    · cases h
      exact ⟨rfl, Nat.le_refl 1, differs⟩
    · split at h
      · rename_i same
        cases h
        exact ⟨same, Nat.succ_pos _, differs⟩
      · cases h
        exact ⟨rfl, Nat.le_refl 1, differs⟩

theorem StopControl.lawful.sampled {c : StopControl} (h : c.lawful) (asserted : Bool) (now elapsed : Nat) :
    (c.sampled asserted now elapsed).lawful := by
  have noted : StopControl.lawful { c with nextSample := elapsed + 1 } := h
  obtain ⟨safe, running, line, gate, entry, candidate⟩ := h
  unfold StopControl.sampled
  split
  · exact ⟨safe, running, line, gate, entry, fun _ => (nomatch ·)⟩
  · rename_i k counted
    obtain ⟨level, positive, differs⟩ := StopControl.count_spec counted
    split
    · rename_i below
      refine ⟨safe, running, line, gate, entry, ?_⟩
      rintro _ ⟨⟩
      exact ⟨positive, below, level ▸ differs⟩
    · exact noted.qualified _ _

theorem StopControl.lawful.shifted {c : StopControl} (h : c.lawful) (f : Nat → Nat) :
    StopControl.lawful { c with candidate := c.candidate.map fun k => { k with first := f k.first } } := by
  obtain ⟨safe, running, line, gate, entry, candidate⟩ := h
  refine ⟨safe, running, line, gate, entry, fun k found => ?_⟩
  obtain ⟨k', held, rfl⟩ := Option.map_eq_some_iff.1 found
  exact candidate k' held

theorem StopControl.reset_lawful (first : Nat) : (StopControl.reset first).lawful :=
  State.reset_stop_lawful

theorem StopControl.movesTo.lawful {c d : StopControl} (moves : c.movesTo d) (h : c.lawful) : d.lawful := by
  cases moves with
  | stands => exact h
  | halted now => exact h.caused now
  | resumed stopped line => exact h.resumed line
  | sampled asserted now elapsed => exact h.sampled asserted now elapsed
  | shifted f => exact h.shifted f
  | reset first => exact StopControl.reset_lawful first

theorem StopControl.movesTo.of_eq {c d : StopControl} (h : d = c) : c.movesTo d := h ▸ .stands

/-! ### HALT, RESUME and the samples of STOP_N -/

theorem State.enterStopped_stop (s : State) (byLine : Bool) (n : Nat) (first : Option Nat) :
    (s.enterStopped byLine n first).stop = s.stop.entered byLine s.now := by
  obtain ⟨ch, ps, r, entered, -⟩ := s.enterStopped_spec byLine n first
  rw [entered]
  rfl

theorem State.addCause_stop (s : State) (byLine : Bool) (n : Nat) (first : Option Nat) :
    (s.addCause byLine n first).stop = s.stop.addCause byLine := by
  obtain ⟨r, added, -⟩ := s.addCause_spec byLine n first
  rw [added]

theorem State.haltBy_stop (s : State) (n : Nat) : (s.haltBy n).stop = s.stop.caused false s.now := by
  unfold State.haltBy StopControl.caused
  split
  · exact s.enterStopped_stop _ _ _
  · split
    · rename_i requested
      rw [StopControl.addCause, if_neg Bool.false_ne_true, ← requested]
    · exact s.addCause_stop _ _ _

theorem State.resumeBy_stop (s : State) (n : Nat) : (s.resumeBy n).stop = s.stop.resumed := by
  rw [State.resumeBy_eq, State.dispose_stop]
  exact State.reportStop_stop _ _ _ _ _

theorem State.lineChange_stop (s : State) (asserted : Bool) (first : Nat) :
    (s.lineChange asserted first).stop = s.stop.lineChanged asserted s.now := by
  unfold State.lineChange StopControl.lineChanged StopControl.caused
  split
  · split
    · exact s.enterStopped_stop _ _ _
    · exact s.addCause_stop _ _ _
  · exact State.reportStop_stop _ _ _ _ _

@[simp] theorem State.beginStartup_stop (s : State) : s.beginStartup.stop = s.stop := by
  unfold State.beginStartup
  split
  · exact (State.setReportQueue_stop _ _ _).trans (s.setSession_stop _ _)
  · rfl

theorem State.qualifyStop_stop (s : State) (k : StopCandidate) :
    (s.qualifyStop k).stop = s.stop.qualified k.asserted s.now := by
  unfold State.qualifyStop StopControl.qualified
  extract_lets firstTime level s1 s2
  have changed : s2.stop = if firstTime ∧ k.asserted = false then s.stop.leveled k.asserted
      else (s.stop.leveled k.asserted).lineChanged k.asserted s.now := by
    unfold s2
    split
    · rfl
    · exact s1.lineChange_stop _ _
  split
  · exact s2.beginStartup_stop.trans changed
  · exact changed

theorem State.sampleStop_stop (s : State) (asserted : Bool) :
    (s.sampleStop asserted).stop = s.stop.sampled asserted s.now s.elapsed := by
  unfold State.sampleStop StopControl.sampled
  cases s.stop.count asserted s.now with
  | none => rfl
  | some k =>
    dsimp only
    split
    · rfl
    · exact State.qualifyStop_stop _ k

/-! ### Requests -/

/-- The rule of a request moves Stop Control once at most, whatever the session, the body and the state. -/
def Service.movesStop (serve : Service) : Prop := ∀ n body (s : State), s.stop.movesTo (serve n body s).1.stop

theorem Service.leavesStop.movesStop {serve : Service} (h : serve.leavesStop) : serve.movesStop :=
  fun n body s => .of_eq (h n body s)

theorem serveHalt_movesStop : Service.movesStop serveHalt := by
  intro n body s
  unfold serveHalt
  split
  · rw [State.haltBy_stop]
    exact .halted s.now
  · exact .stands

theorem serveResume_movesStop : Service.movesStop serveResume := by
  intro n body s
  unfold serveResume asOperator
  split
  · exact .stands
  split
  · exact .stands
  split
  · exact .stands
  split
  · exact .stands
  · rename_i line run
    rw [State.resumeBy_stop]
    exact .resumed (RunState.stopped_of_not_running run) (Bool.not_eq_true _ ▸ line)

theorem serveTimeSet_movesStop : Service.movesStop serveTimeSet := by
  intro n body s
  unfold serveTimeSet asOperator
  split
  · exact .stands
  split
  · exact .stands
  · rw [State.setTime_stop]
    exact .shifted _

section
variable (s : State) (p : Port) (f : Frame) (code : Byte) {serve : Service}

/-- What becomes of a frame that names a session moves Stop Control as its rule does, for neither the arrival of the
frame nor the reply does. -/
theorem State.movesStop_routeFrame (h : serve.movesStop) : s.stop.movesTo (s.routeFrame p f serve).stop := by
  unfold State.routeFrame
  split
  · rename_i x _
    have arrived := s.arrive_stop f.ses.toNat x
    unfold State.frameForSession
    dsimp only
    split
    · rw [State.performRequest]
      dsimp only
      rw [State.placeReply_stop, State.noteReply_stop, ← arrived]
      exact h _ _ _
    · split
      · split <;> exact .of_eq ((State.placeReply_stop _ _ _ _).trans arrived)
      · exact .of_eq ((State.placeReply_stop _ _ _ _).trans arrived)
  · exact .of_eq (s.placeReply_stop _ _ _)

theorem State.movesStop_takeRequest (h : serve.movesStop) : s.stop.movesTo (s.takeRequest p code serve).stop := by
  unfold State.takeRequest
  split
  · exact .stands
  · rename_i f s1 taken
    rw [← State.takeFrame_stop taken]
    exact s1.movesStop_routeFrame p f h

theorem State.movesStop_takeSessionless {bare : List Byte → State → State × Answer}
    (hb : ∀ body (t : State), (bare body t).1.stop = t.stop) (h : serve.leavesStop) :
    s.stop.movesTo (s.takeSessionless p code bare serve).stop := by
  unfold State.takeSessionless
  split
  · exact .stands
  · rename_i f s1 taken
    rw [← State.takeFrame_stop taken]
    split
    · exact .of_eq ((State.placeReply_stop _ _ _ _).trans (hb f.body s1))
    · exact s1.movesStop_routeFrame p f h.movesStop

end

/-! ### Whole commands -/

/-- Whatever next state the command ends in, Stop Control has moved once at most. -/
def State.movesStop (s : State) (o : Host.Outcome State Fault Refusal) : Prop := ∀ t, o = .next t → s.stop.movesTo t.stop

theorem State.movesStop_next {s t : State} (h : s.stop.movesTo t.stop) : s.movesStop (.next t) := by
  rintro _ ⟨⟩
  exact h

theorem State.movesStop_of_eq {s t : State} (h : t.stop = s.stop) : s.movesStop (.next t) := State.movesStop_next (.of_eq h)

theorem State.movesStop_idle (s : State) : s.movesStop (.next s) := State.movesStop_of_eq rfl

theorem execUnknownRequestKind_movesStop (p : Port) (s : State) : s.movesStop (execUnknownRequestKind p s) := by
  unfold execUnknownRequestKind
  split
  · exact s.movesStop_idle
  · rename_i f s1 taken
    have took := State.takeFrame_stop taken
    split
    · exact State.movesStop_of_eq ((State.placeReply_stop _ _ _ _).trans took)
    · exact State.movesStop_next (took ▸ s1.movesStop_routeFrame p f serveUnknown_leavesStop.movesStop)

theorem execEntryDue_movesStop (s : State) : s.movesStop (execEntryDue s) := by
  unfold execEntryDue
  split
  · exact s.movesStop_idle
  · split
    · exact s.movesStop_idle
    · exact State.movesStop_of_eq (s.applyVerdict_stop _ _)

theorem execGuardDeadline_movesStop (s : State) : s.movesStop (execGuardDeadline s) := by
  unfold execGuardDeadline
  split
  · exact s.movesStop_idle
  · split
    · exact State.movesStop_of_eq (s.failOccurrence_stop _ _ _)
    · exact s.movesStop_idle

theorem execGuardReevaluation_movesStop (s : State) : s.movesStop (execGuardReevaluation s) := by
  unfold execGuardReevaluation
  split
  · exact s.movesStop_idle
  · split
    · exact State.movesStop_of_eq s.passOver_stop
    · exact State.movesStop_of_eq (State.reevaluate_stop _ _)

theorem execActionDrive_movesStop (s : State) : s.movesStop (execActionDrive s) := by
  unfold execActionDrive
  split
  · exact s.movesStop_idle
  · exact State.movesStop_of_eq (State.settleDrive_frame _ _).stop

theorem execPulseRelease_movesStop (c : Nat) (s : State) : s.movesStop (execPulseRelease c s) := by
  unfold execPulseRelease
  repeat' split
  all_goals exact State.movesStop_of_eq rfl

theorem execSettleEnd_movesStop (c : Nat) (wires : BitVec 24) (s : State) : s.movesStop (execSettleEnd c wires s) := by
  unfold execSettleEnd
  split
  · split
    · split
      · exact State.movesStop_of_eq (s.readback_stop c _ wires)
      · exact s.movesStop_idle
    · exact s.movesStop_idle
  · exact s.movesStop_idle

theorem execInputSample_movesStop (c : Nat) (l : PinLevel) (s : State) : s.movesStop (execInputSample c l s) := by
  unfold execInputSample
  split
  · split
    · exact State.movesStop_of_eq (s.sampleInput_stop c _ l)
    · exact s.movesStop_idle
  · exact s.movesStop_idle

theorem execTriggerEdge_movesStop (s : State) : s.movesStop (execTriggerEdge s) := by
  unfold execTriggerEdge
  split
  · exact s.movesStop_idle
  · exact State.movesStop_of_eq (State.foldl_stop (State.visitTrigger_stop _) _ _)

theorem execFireRequest_movesStop (s : State) : s.movesStop (execFireRequest s) := by
  unfold execFireRequest
  split
  · exact s.movesStop_idle
  · exact State.movesStop_of_eq (State.takeFireRequest_stop _ _)

theorem execHoldoffEnd_movesStop (k : Nat) (s : State) : s.movesStop (execHoldoffEnd k s) := by
  unfold execHoldoffEnd
  repeat' split
  all_goals exact State.movesStop_of_eq rfl

theorem execStopNSample_movesStop (asserted : Bool) (s : State) : s.movesStop (execStopNSample asserted s) := by
  unfold execStopNSample
  split
  · refine State.movesStop_next ?_
    rw [State.sampleStop_stop]
    exact .sampled _ _ _
  · exact s.movesStop_idle

theorem execKeepaliveExpiry_movesStop (n : Nat) (s : State) : s.movesStop (execKeepaliveExpiry n s) := by
  unfold execKeepaliveExpiry
  split
  · split
    · split
      · exact State.movesStop_of_eq (s.lapse_stop n _)
      · exact s.movesStop_idle
    · exact s.movesStop_idle
  · exact s.movesStop_idle

theorem execGraceExpiry_movesStop (n : Nat) (s : State) : s.movesStop (execGraceExpiry n s) := by
  unfold execGraceExpiry
  split
  · split
    · split
      · exact State.movesStop_of_eq (s.teardown_stop n)
      · exact s.movesStop_idle
    · exact s.movesStop_idle
  · exact s.movesStop_idle

theorem execReportAdd_movesStop (s : State) : s.movesStop (execReportAdd s) := by
  unfold execReportAdd
  split
  · exact s.movesStop_idle
  · exact State.movesStop_of_eq (State.addReport_stop _ _ _ _)

theorem execErasePhaseEnd_movesStop (s : State) : s.movesStop (execErasePhaseEnd s) := by
  unfold execErasePhaseEnd
  split <;> exact State.movesStop_of_eq rfl

theorem execProgrammingPhaseEnd_movesStop (readBack : Option (List Byte)) (s : State) :
    s.movesStop (execProgrammingPhaseEnd readBack s) := by
  unfold execProgrammingPhaseEnd
  split
  · exact State.movesStop_of_eq (s.endProgramming_stop _ _ _ _)
  · exact s.movesStop_idle

theorem execEraseEnd_movesStop (s : State) : s.movesStop (execEraseEnd s) := by
  unfold execEraseEnd
  split
  · exact State.movesStop_of_eq (State.reportTo_stop _ _ _)
  · exact s.movesStop_idle

theorem execReadCompletion_movesStop (bytesRead : Option (List Byte)) (s : State) :
    s.movesStop (execReadCompletion bytesRead s) := by
  unfold execReadCompletion
  split
  · exact State.movesStop_of_eq (s.completeRead_stop _ _ _ _)
  · exact s.movesStop_idle

theorem execSupplyChange_movesStop (level : SupplyLevel) (s : State) : s.movesStop (execSupplyChange level s) := by
  unfold execSupplyChange
  split
  · exact s.movesStop_idle
  · dsimp only
    split
    · exact State.movesStop_of_eq (State.abortByLow_stop _)
    · exact State.movesStop_of_eq rfl

theorem State.movesStop_transmitted {s u : State} (same : u.stop = s.stop) (f : OutFrame) :
    s.stop.movesTo (u.transmitted f).stop := by
  unfold State.transmitted
  split
  · exact .reset _
  · exact .of_eq same

theorem execPortATransmit_movesStop (s : State) : s.movesStop (execPortATransmit s) := by
  unfold execPortATransmit
  split
  · exact s.movesStop_idle
  split
  · exact s.movesStop_idle
  · rename_i f s1 chosen
    have same := State.choose_stop chosen
    exact State.movesStop_of_eq same

theorem execPortAFrameSent_movesStop (s : State) : s.movesStop (execPortAFrameSent s) := by
  unfold execPortAFrameSent
  split
  · exact s.movesStop_idle
  · exact State.movesStop_next (State.movesStop_transmitted (by rfl) _)

theorem execDeviceResetTimeout_movesStop (s : State) : s.movesStop (execDeviceResetTimeout s) := by
  unfold execDeviceResetTimeout
  split
  · split
    · exact State.movesStop_next (.reset _)
    · exact s.movesStop_idle
  · exact s.movesStop_idle

theorem execWrite_movesStop (bytes : List Byte) (cut : Bool) (s : State) : s.movesStop (execWrite bytes cut s) := by
  unfold execWrite
  split
  · exact s.movesStop_idle
  · refine State.movesStop_of_eq ?_
    dsimp only
    split
    · exact s.countError_stop .b
    · exact s.judgeWrite_stop bytes

theorem execLevel_movesStop (clocked : Nat) (s : State) : s.movesStop (execLevel clocked s) := by
  unfold execLevel
  split <;> exact State.movesStop_of_eq rfl

theorem execRead_movesStop (s : State) : s.movesStop (execRead s) := by
  unfold execRead
  split
  · exact s.movesStop_idle
  split
  · rename_i f s1 offered
    have same := State.offer_stop offered
    exact State.movesStop_of_eq same
  · exact State.movesStop_of_eq rfl

theorem execReadEnd_movesStop (clocked before : Nat) (s : State) : s.movesStop (execReadEnd clocked before s) := by
  unfold execReadEnd
  split
  · exact s.movesStop_idle
  split
  · exact State.movesStop_of_eq rfl
  · refine State.movesStop_next ?_
    unfold State.finishRead
    split
    · split
      · exact State.movesStop_transmitted (by rfl) _
      · exact .stands
    · exact .stands

theorem execUnknownSpiCommand_movesStop (command : Byte) (clocked : Nat) (s : State) :
    s.movesStop (execUnknownSpiCommand command clocked s) := by
  unfold execUnknownSpiCommand
  split
  · exact s.movesStop_idle
  split
  · exact s.movesStop_idle
  · exact State.movesStop_of_eq (s.countError_stop .b)

/-- Every command moves Stop Control once at most: HALT, RESUME, TIME_SET, a sample of STOP_N and what resets the part
do, and no other command. -/
theorem exec_movesStop (c : Instr) (s : State) : s.movesStop (exec c s) := by
  have moves : ∀ p code {serve : Service}, serve.movesStop → s.movesStop (.next (s.takeRequest p code serve)) :=
    fun p code _ h => State.movesStop_next (s.movesStop_takeRequest p code h)
  have leaves : ∀ p code {serve : Service}, serve.leavesStop → s.movesStop (.next (s.takeRequest p code serve)) :=
    fun p code _ h => moves p code h.movesStop
  have query : ∀ p code (fields : State → List Byte), s.movesStop (.next (s.takeSessionless p code
      (fun body u => emptyQuery body u (fields u)) fun _ body u => emptyQuery body u (fields u))) :=
    fun p code fields => State.movesStop_next (s.movesStop_takeSessionless p code
      (emptyQuery_leavesStop fields 0) (emptyQuery_leavesStop fields))
  cases c with
  | openSession p key =>
    exact State.movesStop_next (s.movesStop_takeSessionless p _ (serveOpen_stop p key) fun _ _ _ => rfl)
  | identify p => exact query p _ _
  | status p => exact query p _ _
  | close p => exact leaves p _ serveClose_leavesStop
  | keepalive p => exact leaves p _ (emptyQuery_leavesStop _)
  | timeGet p => exact leaves p _ (emptyQuery_leavesStop _)
  | timeSet p => exact moves p _ serveTimeSet_movesStop
  | timeTrim p key => exact leaves p _ (serveTimeTrim_leavesStop key)
  | bind p => exact leaves p _ serveBind_leavesStop
  | unbind p key => exact leaves p _ (serveUnbind_leavesStop key)
  | clearFault p key => exact leaves p _ (serveClearFault_leavesStop key)
  | requalify p => exact leaves p _ serveRequalify_leavesStop
  | channelQuery p => exact leaves p _ serveChannelQuery_leavesStop
  | subscribe p => exact leaves p _ fun _ => serveSubscribers_stop _
  | unsubscribe p => exact leaves p _ fun _ => serveSubscribers_stop _
  | claim p key => exact leaves p _ (serveClaim_leavesStop key)
  | release p => exact leaves p _ serveRelease_leavesStop
  | takeover p => exact leaves p _ serveTakeover_leavesStop
  | actionAdd p => exact leaves p _ serveActionAdd_leavesStop
  | actionCancel p key => exact leaves p _ (serveActionCancel_leavesStop key)
  | groupCancel p => exact leaves p _ serveGroupCancel_leavesStop
  | queueQuery p => exact leaves p _ serveQueueQuery_leavesStop
  | interlockSet p key => exact leaves p _ (serveInterlockSet_leavesStop key)
  | interlockClear p key => exact leaves p _ (serveInterlockClear_leavesStop key)
  | interlockQuery p => exact leaves p _ (emptyQuery_leavesStop _)
  | triggerSet p => exact leaves p _ serveTriggerSet_leavesStop
  | triggerClear p key => exact leaves p _ (serveTriggerClear_leavesStop key)
  | triggerQuery p => exact leaves p _ serveTriggerQuery_leavesStop
  | halt p => exact moves p _ serveHalt_movesStop
  | resume p => exact moves p _ serveResume_movesStop
  | reportAck p => exact leaves p _ serveReportAck_leavesStop
  | reportResend p => exact leaves p _ serveReportResend_leavesStop
  | planBegin p key => exact leaves p _ (servePlanBegin_leavesStop key)
  | planPut p key => exact leaves p _ (servePlanPut_leavesStop key)
  | planAbandon p key => exact leaves p _ (servePlanAbandon_leavesStop key)
  | planCommit p key prot => exact leaves p _ (servePlanCommit_leavesStop key prot)
  | planErase p key prot => exact leaves p _ (servePlanErase_leavesStop key prot)
  | planList p => exact leaves p _ (emptyQuery_leavesStop _)
  | planLoad p => exact leaves p _ servePlanLoad_leavesStop
  | deviceReset p key => exact leaves p _ (serveDeviceReset_leavesStop p key)
  | unknownRequestKind p => exact execUnknownRequestKind_movesStop p s
  | tick => exact State.movesStop_of_eq rfl
  | trimWindowEnd => exact State.movesStop_of_eq rfl
  | entryDue => exact execEntryDue_movesStop s
  | actionDrive => exact execActionDrive_movesStop s
  | guardDeadline => exact execGuardDeadline_movesStop s
  | guardReevaluation => exact execGuardReevaluation_movesStop s
  | pulseRelease c => exact execPulseRelease_movesStop c s
  | settleEnd c wires => exact execSettleEnd_movesStop c wires s
  | inputSample c level => exact execInputSample_movesStop c level s
  | triggerEdge => exact execTriggerEdge_movesStop s
  | fireRequest => exact execFireRequest_movesStop s
  | holdoffEnd k => exact execHoldoffEnd_movesStop k s
  | stopNSample asserted => exact execStopNSample_movesStop asserted s
  | keepaliveExpiry n => exact execKeepaliveExpiry_movesStop n s
  | graceExpiry n => exact execGraceExpiry_movesStop n s
  | reportAdd => exact execReportAdd_movesStop s
  | erasePhaseEnd => exact execErasePhaseEnd_movesStop s
  | programmingPhaseEnd readBack => exact execProgrammingPhaseEnd_movesStop readBack s
  | eraseEnd => exact execEraseEnd_movesStop s
  | readCompletion bytesRead => exact execReadCompletion_movesStop bytesRead s
  | supplyChange level => exact execSupplyChange_movesStop level s
  | hardReset a b l x => exact State.movesStop_next (.reset 0)
  | portAFrame bytes => exact State.movesStop_of_eq (State.foldl_stop State.takeByte_stop bytes s)
  | portAGapTimeout => exact State.movesStop_of_eq s.gapTimeout_stop
  | portATransmit => exact execPortATransmit_movesStop s
  | portAFrameSent => exact execPortAFrameSent_movesStop s
  | deviceResetTimeout => exact execDeviceResetTimeout_movesStop s
  | write bytes cut => exact execWrite_movesStop bytes cut s
  | level clocked => exact execLevel_movesStop clocked s
  | read => exact execRead_movesStop s
  | readEnd clocked before => exact execReadEnd_movesStop clocked before s
  | unknownSpiCommand command clocked => exact execUnknownSpiCommand_movesStop command clocked s

/-- Settles O53: every command moves Stop Control once at most, and each of its moves keeps the law. -/
theorem stopLawKept : Obligations.StopLawKept := by
  intro s t law h
  unfold step at h
  split at h
  · cases h
    exact law
  · exact (exec_movesStop _ _ t h).lawful law

end Sys2Proof.Machine
end

section
/-!
Samples of STOP_N, from the count to the startup load (R106, R107, R109, R116, R181): O29.
-/

namespace Sys2Proof.Machine

/-! ### The count of R106 -/

theorem StopLevel.equals_eq_true {q : StopLevel} {asserted : Bool} :
    q.equals asserted = true ↔ q = .ofSample asserted := by
  cases q <;> cases asserted <;> decide

section
variable {c : StopControl} {asserted : Bool} {now : Nat}

theorem StopControl.count_qualified (same : c.level = .ofSample asserted) : c.count asserted now = none :=
  if_pos (StopLevel.equals_eq_true.2 same)

theorem StopControl.count_more (differs : c.level ≠ .ofSample asserted) {k first : Nat}
    (counted : c.candidate = some ⟨asserted, k, first⟩) : c.count asserted now = some ⟨asserted, k + 1, first⟩ := by
  rw [StopControl.count, if_neg (mt StopLevel.equals_eq_true.1 differs), counted]
  exact if_pos rfl

theorem StopControl.count_new (differs : c.level ≠ .ofSample asserted)
    (other : ∀ k first, c.candidate ≠ some ⟨asserted, k, first⟩) :
    c.count asserted now = some ⟨asserted, 1, now⟩ := by
  rw [StopControl.count, if_neg (mt StopLevel.equals_eq_true.1 differs)]
  cases held : c.candidate with
  | none => rfl
  | some k =>
    refine if_neg fun same => other k.count k.first ?_
    rw [held, ← same]

end

/-! ### One sample -/

section
variable {s : State} {asserted : Bool} (due : s.stop.nextSample ≤ s.elapsed)
include due

theorem execStopNSample_discards (discards : s.stop.count asserted s.now = none) : exec (.stopNSample asserted) s =
    .next { s with stop := { s.stop with candidate := none, nextSample := s.elapsed + 1 } } := by
  change execStopNSample asserted s = _
  rw [execStopNSample, if_pos due, State.sampleStop, discards]

theorem execStopNSample_counts {k : StopCandidate} (counted : s.stop.count asserted s.now = some k) (below : k.count < 4) :
    exec (.stopNSample asserted) s =
      .next { s with stop := { s.stop with candidate := some k, nextSample := s.elapsed + 1 } } := by
  change execStopNSample asserted s = _
  rw [execStopNSample, if_pos due, State.sampleStop, counted]
  exact congrArg Host.Outcome.next (if_pos below)

theorem execStopNSample_qualifies {k : StopCandidate} (counted : s.stop.count asserted s.now = some k)
    (reached : k.count = 4) : exec (.stopNSample asserted) s =
      .next (State.qualifyStop { s with stop := { s.stop with nextSample := s.elapsed + 1 } } k) := by
  change execStopNSample asserted s = _
  rw [execStopNSample, if_pos due, State.sampleStop, counted]
  refine congrArg Host.Outcome.next (if_neg ?_)
  rw [reached]
  exact Nat.lt_irrefl 4

end

/-! ### The line change (R107) -/

/-- The STOP_CHANGE report of a line change: an entry, a cause added, or one removed (R107, R115). -/
def StopControl.lineReport (c : StopControl) (asserted : Bool) (first now : Nat) : ReportBody :=
  .stopChange
    ⟨if asserted then (if c.run = .running then .entered else .causeAdded) else .causeRemoved, true,
      (c.lineChanged asserted now).run, asserted, c.request, 0, some first, (c.lineChanged asserted now).entryTime⟩

section
variable {c : StopControl} {first now : Nat}

theorem StopControl.lineReport_enters (run : c.run = .running) : c.lineReport true first now =
    .stopChange ⟨.entered, true, .stopped, true, c.request, 0, some first, some now⟩ := by
  have turned : c.lineChanged true now = c.entered true now := if_pos run
  rw [StopControl.lineReport, turned, if_pos rfl, if_pos run]
  rfl

theorem StopControl.lineReport_adds (run : c.run ≠ .running) : c.lineReport true first now =
    .stopChange ⟨.causeAdded, true, c.run, true, c.request, 0, some first, c.entryTime⟩ := by
  have turned : c.lineChanged true now = c.addCause true := if_neg run
  rw [StopControl.lineReport, turned, if_pos rfl, if_neg run]
  rfl

end

theorem State.addReport_withStop (s : State) (c : StopControl) (m time : Nat) (body : ReportBody) :
    (State.addReport { s with stop := c } m time body).reportQueue m = (s.addReport m time body).reportQueue m :=
  State.addReport_reportQueue_of_same (s := s) (t := { s with stop := c }) rfl rfl time body

/-- LINE leaves the cause set of a part that stays as it is. -/
theorem State.releaseLine_spec (s : State) (first : Nat) : ∃ r,
    { s with stop := { s.stop with line := false } }.reportStop .causeRemoved true 0 (some first) =
      { s with stop := { s.stop with line := false }, reports := r } ∧
    ∀ m, State.reportQueue { s with reports := r } m =
      (s.addReport m s.now (s.stop.lineReport false first s.now)).reportQueue m := by
  set s1 := { s with stop := { s.stop with line := false } }
  obtain ⟨r, reported⟩ := s1.reportToAll_frame s1.now (s1.stopReport .causeRemoved true 0 (some first))
  refine ⟨r, reported, fun m => ?_⟩
  have queue : State.reportQueue { s with reports := r } m =
      (s1.reportToAll s1.now (s1.stopReport .causeRemoved true 0 (some first))).reportQueue m := by
    rw [reported]
    rfl
  rw [queue, State.reportToAll_reportQueue]
  exact s.addReport_withStop _ _ _ _

/-- What a line change makes of a state: an entry into STOPPED brings every output to rest, nothing else moves one, and each
is reported. -/
structure State.lineTurned (s : State) (asserted : Bool) (first : Nat) (t : State) : Prop where
  frame : ∃ ls ch ps r, t = { s with
    stop := s.stop.lineChanged asserted s.now, levelChanges := ls, channels := ch, pins := ps, reports := r }
  enters : asserted = true → s.stop.run = .running →
    t.levelChanges = [] ∧ (s.joinedKept → s.restsWhere (fun _ => True) t)
  stays : asserted = false ∨ s.stop.run = .stopped →
    t.channels = s.channels ∧ t.pins = s.pins ∧ t.levelChanges = s.levelChanges
  reports : ∀ m, t.reportQueue m = (s.addReport m s.now (s.stop.lineReport asserted first s.now)).reportQueue m

theorem State.lineTurned_lineChange (s : State) (asserted : Bool) (first : Nat) :
    s.lineTurned asserted first (s.lineChange asserted first) := by
  cases asserted with
  | false =>
    obtain ⟨r, released, reports⟩ := s.releaseLine_spec first
    have turned : s.lineChange false first = _ := released
    rw [turned]
    exact ⟨⟨_, _, _, _, rfl⟩, (nomatch ·), fun _ => ⟨rfl, rfl, rfl⟩, reports⟩
  | true =>
    by_cases run : s.stop.run = .running
    · obtain ⟨ch, ps, r, entered, rests, reports⟩ := s.enterStopped_spec true 0 (some first)
      have turned : s.lineChange true first = _ := (if_pos run).trans entered
      have stop : s.stop.lineChanged true s.now = s.stop.entered true s.now := if_pos run
      rw [turned]
      refine ⟨⟨_, _, _, _, by rw [stop]; rfl⟩, fun _ _ => ⟨rfl, fun kept => (rests kept).of_same rfl rfl rfl rfl⟩,
        by simp [run], fun m => ?_⟩
      rw [StopControl.lineReport_enters run]
      exact reports m
    · obtain ⟨r, added, reports⟩ := s.addCause_spec true 0 (some first)
      have turned : s.lineChange true first = _ := (if_neg run).trans added
      have stop : s.stop.lineChanged true s.now = s.stop.addCause true := if_neg run
      rw [turned]
      refine ⟨⟨_, _, _, _, by rw [stop]⟩, fun _ k => absurd k run, fun _ => ⟨rfl, rfl, rfl⟩, fun m => ?_⟩
      rw [StopControl.lineReport_adds run]
      exact reports m

/-! ### The level qualified (R106) -/

/-- The state once a level has qualified, before the startup load: the first level after a reset is a line change only
when it is ASSERTED. -/
def State.takeLevel (s : State) (asserted : Bool) (first : Nat) : State :=
  if s.stop.level = .unknown ∧ asserted = false then { s with stop := s.stop.leveled asserted }
  else { s with stop := s.stop.leveled asserted }.lineChange asserted first

theorem State.qualifyStop_eq (s : State) (k : StopCandidate) : s.qualifyStop k =
    if s.stop.level = .unknown then (s.takeLevel k.asserted k.first).beginStartup else s.takeLevel k.asserted k.first := rfl

/-- What a qualified level makes of a state: what its line change makes of it, if it is one. -/
structure State.levelTaken (s : State) (asserted : Bool) (first : Nat) (t : State) : Prop where
  frame : ∃ ls ch ps r, t =
    { s with stop := s.stop.qualified asserted s.now, levelChanges := ls, channels := ch, pins := ps, reports := r }
  enters : asserted = true → s.stop.run = .running →
    t.levelChanges = [] ∧ (s.joinedKept → s.restsWhere (fun _ => True) t)
  stays : asserted = false ∨ s.stop.run = .stopped →
    t.channels = s.channels ∧ t.pins = s.pins ∧ t.levelChanges = s.levelChanges
  reports : asserted = true ∨ s.stop.level ≠ .unknown → ∀ m, t.reportQueue m =
    (s.addReport m s.now ((s.stop.leveled asserted).lineReport asserted first s.now)).reportQueue m
  silent : asserted = false → s.stop.level = .unknown → t.reports = s.reports

theorem State.levelTaken_takeLevel (s : State) (asserted : Bool) (first : Nat) :
    s.levelTaken asserted first (s.takeLevel asserted first) := by
  unfold State.takeLevel
  split
  · rename_i quiet
    have stop : s.stop.qualified asserted s.now = s.stop.leveled asserted := if_pos quiet
    exact ⟨⟨_, _, _, _, by rw [stop]⟩, by simp [quiet], fun _ => ⟨rfl, rfl, rfl⟩, by simp [quiet], fun _ _ => rfl⟩
  · rename_i changes
    have stop : s.stop.qualified asserted s.now = (s.stop.leveled asserted).lineChanged asserted s.now := if_neg changes
    have turned := State.lineTurned_lineChange { s with stop := s.stop.leveled asserted } asserted first
    refine ⟨?_, fun k run => ?_, turned.stays, fun _ m => ?_, fun k unknown => absurd ⟨unknown, k⟩ changes⟩
    · rw [stop]
      exact turned.frame
    · obtain ⟨passed, rests⟩ := turned.enters k run
      exact ⟨passed, fun kept => (rests kept).of_same rfl rfl rfl rfl⟩
    · exact (turned.reports m).trans (s.addReport_withStop _ _ _ _)

/-! ### The startup load (R181) -/

/-- What the startup load makes of a state, at the first qualification after a reset: the LOCAL session and the read of a
VALID slot 0 with autostart, or nothing (R139, R181). -/
structure State.startedUp (s : State) (isFirst : Prop) (t : State) : Prop where
  frame : ∃ ss r op, t = { s with sessions := ss, reports := r, store := op }
  reports : ∀ m, m ≠ 5 → t.reportQueue m = s.reportQueue m
  begins : isFirst → (s.slot 0).state = .valid → (s.slot 0).autostart = true →
    t.session 5 = .localSession ∧ (∀ m, m ≠ 5 → t.session m = s.session m) ∧ t.store = .reading 0 (some 5) .now
  idles : ¬isFirst ∨ (s.slot 0).state ≠ .valid ∨ (s.slot 0).autostart = false →
    t.sessions = s.sessions ∧ t.store = s.store

theorem State.startedUp_idle {s : State} {isFirst : Prop}
    (idle : ¬(isFirst ∧ (s.slot 0).state = .valid ∧ (s.slot 0).autostart = true)) : s.startedUp isFirst s where
  frame := ⟨_, _, _, rfl⟩
  reports := fun _ _ => rfl
  begins := fun isFirst valid auto => absurd ⟨isFirst, valid, auto⟩ idle
  idles := fun _ => ⟨rfl, rfl⟩

theorem State.startedUp_beginStartup {s : State} {isFirst : Prop} (now : isFirst) : s.startedUp isFirst s.beginStartup := by
  unfold State.beginStartup
  split
  · rename_i starts
    exact
      { frame := ⟨_, _, _, rfl⟩
        reports := fun m hm => (State.reportQueue_setReportQueue_ne _ 5 m _ hm.symm).trans (by simp)
        begins := fun _ _ _ => ⟨s.session_setSession_same 5 _ (by decide) (by decide),
          fun m hm => s.session_setSession_ne 5 m _ hm.symm, rfl⟩
        idles := fun h => by simp [starts, now] at h }
  · rename_i idle
    exact State.startedUp_idle fun ⟨_, starts⟩ => idle starts

theorem State.qualifyStop_steps (s : State) (k : StopCandidate) :
    ∃ u, s.levelTaken k.asserted k.first u ∧ u.startedUp (s.stop.level = .unknown) (s.qualifyStop k) := by
  refine ⟨_, s.levelTaken_takeLevel k.asserted k.first, ?_⟩
  rw [State.qualifyStop_eq]
  split
  · rename_i unknown
    exact State.startedUp_beginStartup unknown
  · rename_i known
    exact State.startedUp_idle fun starts => known starts.1

/-- Settles O29: the count of R106, and at the fourth sample the qualified level, its line change and the startup load,
one after another. -/
theorem stopSampleQualifies : Obligations.StopSampleQualifies := by
  intro s asserted law kept
  refine ⟨fun early => if_neg (Nat.not_le.2 early), fun due => ⟨fun same => ?_, fun differs => ⟨?_, ?_, ?_⟩⟩⟩
  · exact execStopNSample_discards due (StopControl.count_qualified same)
  · exact fun k first counted below =>
      execStopNSample_counts due (StopControl.count_more differs counted) (Nat.succ_lt_succ below)
  · exact fun other => execStopNSample_counts due (StopControl.count_new differs other) (by decide : 1 < 4)
  intro first counted
  refine ⟨_, execStopNSample_qualifies due (StopControl.count_more differs counted) rfl, ?_⟩
  set s1 : State := { s with stop := { s.stop with nextSample := s.elapsed + 1 } }
  have shape := StopControl.qualified_frame (c := s1.stop) (asserted := asserted) (now := s1.now) law.line_of_unknown
  obtain ⟨u, ⟨frameU, enters, stays, reports, silent⟩, ⟨frameT, others, begins, idles⟩⟩ :=
    s1.qualifyStop_steps ⟨asserted, 4, first⟩
  generalize s1.qualifyStop ⟨asserted, 4, first⟩ = t at *
  obtain ⟨ls, ch, ps, r, rfl⟩ := frameU
  obtain ⟨ss, r', op, rfl⟩ := frameT
  refine ⟨?_, fun rises run => ?_, fun rests => ?_, fun changes m hm => ?_, fun falls unknown m hm => ?_, begins, idles⟩
  · rw [shape]
    rfl
  · obtain ⟨passed, rests⟩ := enters rises run
    subst rises
    have stop := StopControl.qualified_enters (c := s1.stop) (now := s1.now) run
    exact ⟨passed, congrArg StopControl.run stop, congrArg StopControl.entryTime stop,
      congrArg StopControl.safeAsserted stop, (rests ((State.pairsKept_iff s).1 kept).1).of_same rfl rfl rfl rfl⟩
  · obtain ⟨run, entry, safe⟩ := StopControl.qualified_stays (c := s1.stop) (now := s1.now) rests
    exact ⟨run, entry, safe, stays rests⟩
  · have changes : asserted = true ∨ s1.stop.level ≠ .unknown :=
      changes.imp_right fun level unknown => nomatch level.symm.trans unknown
    refine (others m hm).trans ((reports changes m).trans ?_)
    rw [StopControl.lineReport, ← StopControl.qualified_changes changes]
    exact s.addReport_withStop _ _ _ _
  · refine (others m hm).trans ?_
    have same := silent falls unknown
    unfold State.reportQueue
    rw [same]

end Sys2Proof.Machine
end

section
/-!
The handler that waits: no request is taken while the gate is closed, a DEVICE_RESET is accepted or four replies wait
(R116, R186): O3.
-/

namespace Sys2Proof.Machine

/-- A request command takes a request of its port and kind, with a session or, for OPEN, IDENTIFY and STATUS, without. -/
theorem exec_request {c : Instr} {p : Port} {code : Byte} (h : requestOf c = some (p, code)) :
    (∃ serve, ∀ s, exec c s = .next (s.takeRequest p code serve)) ∨
      ∃ bare serve, ∀ s, exec c s = .next (s.takeSessionless p code bare serve) := by
  cases c with
  | openSession p key =>
    cases h
    exact .inr ⟨_, _, fun _ => rfl⟩
  | identify p =>
    cases h
    exact .inr ⟨_, _, fun _ => rfl⟩
  | status p =>
    cases h
    exact .inr ⟨_, _, fun _ => rfl⟩
  | _ =>
    cases h
    all_goals exact .inl ⟨_, fun _ => rfl⟩

section
variable {s : State} {p : Port}

/-- The three conditions of R186 under which the handler waits. -/
theorem State.canTake_eq_false : s.canTake p = false ↔
    s.stop.gateOpen = false ∨ s.deviceReset.isSome = true ∨ 4 ≤ (s.link p).replies.length := by
  have capacity : Config.replyCapacity = 4 := rfl
  simp only [State.canTake, Bool.and_eq_false_iff, decide_eq_false_iff_not, Nat.not_lt, capacity, or_assoc,
    ← Option.not_isSome, Bool.not_eq_false']

theorem State.takeFrame_of_not_canTake (waits : s.canTake p = false) (sel : Byte → Bool) : s.takeFrame p sel = none := by
  unfold State.takeFrame
  rw [waits]
  dsimp only
  split <;> rfl

theorem State.takeSessionless_of_not_canTake (waits : s.canTake p = false) (code : Byte)
    (bare : List Byte → State → State × Answer) (serve : Service) : s.takeSessionless p code bare serve = s := by
  rw [State.takeSessionless, State.takeFrame_of_not_canTake waits]

theorem execUnknownRequestKind_of_not_canTake (waits : s.canTake p = false) : execUnknownRequestKind p s = .next s := by
  rw [execUnknownRequestKind, State.takeFrame_of_not_canTake waits]

end

/-- Settles O3: whatever its kind, a request takes a frame only where the handler may take one. -/
theorem handlerWaits : Obligations.HandlerWaits := by
  intro c p code s request waits
  have waits := State.canTake_eq_false.2 waits
  rcases request with request | rfl
  · rcases exec_request request with ⟨serve, taken⟩ | ⟨bare, serve, taken⟩
    · rw [taken, s.takeRequest_of_not_canTake p code serve waits]
    · rw [taken, State.takeSessionless_of_not_canTake waits]
  · exact execUnknownRequestKind_of_not_canTake waits

end Sys2Proof.Machine
end

section
/-!
What befalls a request before its own rule: it names no live session, it is out of sequence, or its least class is
refused (R121, R122, R123, R125): O4, O5 and O6.
-/

namespace Sys2Proof.Machine

/-! ### Routing (R122) -/

section
variable {s : State} {p : Port} {n : Nat} {h : HostSession} {f : Frame} {rest : List Frame} {code : Byte} {c : Instr}

/-- A frame that a request command takes is routed by its session number, unless it is one of the three requests that
R188 lets name no session. -/
theorem exec_routes (request : requestOf c = some (p, code)) (can : s.canTake p = true) (fifo : (s.link p).fifo = f :: rest)
    (kind : f.kind = code) (named : f.ses = 0 → code ≠ 0x01 ∧ code ≠ 0x02 ∧ code ≠ 0x03) :
    ∃ serve, exec c s = .next ((s.setLink p { s.link p with fifo := rest }).routeFrame p f serve) := by
  have taken := s.takeFrame_eq p (· == code) f rest can fifo (beq_iff_eq.2 kind)
  have sessionless : ∀ bare serve, code = 0x01 ∨ code = 0x02 ∨ code = 0x03 → s.takeSessionless p code bare serve =
      (s.setLink p { s.link p with fifo := rest }).routeFrame p f serve := by
    intro bare serve one
    have notZero : f.ses ≠ 0 := fun zero => by
      obtain ⟨notOpen, notIdentify, notStatus⟩ := named zero
      exact one.elim notOpen fun one => one.elim notIdentify notStatus
    simp only [State.takeSessionless, taken, if_neg notZero]
  cases c with
  | openSession p key =>
    cases request
    exact ⟨_, congrArg Host.Outcome.next (sessionless _ _ (.inl rfl))⟩
  | identify p =>
    cases request
    exact ⟨_, congrArg Host.Outcome.next (sessionless _ _ (.inr (.inl rfl)))⟩
  | status p =>
    cases request
    exact ⟨_, congrArg Host.Outcome.next (sessionless _ _ (.inr (.inr rfl)))⟩
  | _ =>
    cases request
    all_goals exact ⟨_, congrArg Host.Outcome.next (by rw [State.takeRequest, taken])⟩

/-- No live session of the port has the number (R122). -/
theorem State.routed_eq_none (nobody : ∀ h, s.session n = .host h → h.port ≠ p) : s.routed p n = none := by
  unfold State.routed
  split
  · rename_i h live
    exact if_neg (nobody h live)
  · rfl

/-- A request command that hears a session takes the request for it (R122, R188). -/
theorem exec_hears (request : requestOf c = some (p, code)) (heard : s.hears p n h f rest code) :
    ∃ serve, exec c s = .next (s.takeRequest p code serve) := by
  rcases exec_request request with ⟨serve, taken⟩ | ⟨bare, serve, taken⟩
  · exact ⟨serve, taken s⟩
  · exact ⟨serve, (taken s).trans (congrArg Host.Outcome.next (State.takeSessionless_heard heard bare serve))⟩

/-! ### The least class (R121) -/

/-- The rule of an OPERATOR request judges the class first. -/
theorem exec_operator (request : requestOf c = some (p, code)) (operator : needsOperator c = true) :
    ∃ act : Service, ∀ s, exec c s = .next (s.takeRequest p code fun n body t => asOperator t n (act n body t)) := by
  cases c <;> cases request <;> cases operator <;> exact ⟨_, fun _ => rfl⟩

theorem asOperator_observer (received : s.receives p n h f rest code) (observer : h.cls = .observer) (act : State × Answer) :
    asOperator (s.arrived p n h rest) n act = (s.arrived p n h rest, refuse .notPermitted) := by
  obtain ⟨⟨_, _, _, _, live, _⟩, _⟩ := received
  exact if_pos (by rwa [State.arrived_classOf live])

theorem asService_refused (received : s.receives p n h f rest code) {key : Bool} (noRights : ¬(h.cls = .service ∧ key = true))
    (act : State × Answer) : asService (s.arrived p n h rest) n key act = (s.arrived p n h rest, refuse .notPermitted) := by
  rw [asService_arrived received, if_neg noRights]

theorem withBuild_refused (received : s.receives p n h f rest code) (key : Bool) (below : h.cls ≠ .service)
    (act : Build → State × Answer) :
    withBuild (s.arrived p n h rest) n key act = (s.arrived p n h rest, refuse .notPermitted) := by
  obtain ⟨⟨_, _, _, _, live, _⟩, _⟩ := received
  exact if_pos (by rwa [State.arrived_classOf live])

/-- The rule of a SERVICE request refuses a session of a lower class, whatever it judges next. -/
theorem exec_belowService (request : requestOf c = some (p, code)) (service : needsService c = true)
    (received : s.receives p n h f rest code) (below : h.cls ≠ .service) :
    exec c s = .next (s.answered p n h f rest .notPermitted []) := by
  have noRights : ∀ key : Bool, ¬(h.cls = .service ∧ key = true) := fun _ rights => below rights.1
  cases c <;> cases request <;> cases service
  case timeTrim | interlockClear | planBegin | planErase | deviceReset =>
    exact congrArg Host.Outcome.next (State.takeRequest_answered received _ .notPermitted []
      (asService_refused received (noRights _) _))
  case planPut | planAbandon | planCommit =>
    exact congrArg Host.Outcome.next (State.takeRequest_answered received _ .notPermitted []
      (withBuild_refused received _ below _))

/-- Without the key, a SERVICE request whose rule judges the key with the class is refused. -/
theorem exec_withoutKey (request : requestOf c = some (p, code)) (received : s.receives p n h f rest code)
    (keyless : c ∈ [.timeTrim p false, .interlockClear p false, .planBegin p false, .deviceReset p false,
      .planErase p false true, .planErase p false false]) :
    exec c s = .next (s.answered p n h f rest .notPermitted []) := by
  have noRights : ¬(h.cls = .service ∧ false = true) := fun rights => Bool.noConfusion rights.2
  simp only [List.mem_cons, List.not_mem_nil, or_false] at keyless
  rcases keyless with rfl | rfl | rfl | rfl | rfl | rfl
  all_goals
    cases request
    exact congrArg Host.Outcome.next (State.takeRequest_answered received _ .notPermitted []
      (asService_refused received noRights _))

end

/-- Settles O4: the frame is taken, and routed to nobody. -/
theorem unroutedFrameRefused : Obligations.UnroutedFrameRefused := by
  intro c p code s f rest request can fifo kind named nobody
  obtain ⟨serve, routes⟩ := exec_routes request can fifo kind named
  have unrouted := (s.routed_setLink p p { s.link p with fifo := rest } f.ses.toNat).trans (State.routed_eq_none nobody)
  rw [routes, State.routeFrame, unrouted]
  simp only [State.placeReply, State.link_setLink_same, State.setLink_setLink]
  rfl

/-- Settles O5: the sequence number is judged before the request's rule is asked. -/
theorem outOfSequenceNotExecuted : Obligations.OutOfSequenceNotExecuted := by
  intro c p code s n h f rest request heard outOfSequence
  obtain ⟨serve, taken⟩ := exec_hears request heard
  rw [taken, State.takeRequest_hears heard serve, if_neg outOfSequence]
  refine ⟨fun q r last repeated => ?_, fun new => ?_⟩
  · rw [last]
    dsimp only
    rw [if_pos repeated.symm]
  · cases last : h.last with
    | none => rfl
    | some x =>
      dsimp only
      rw [if_neg fun repeated => new x.1 x.2 last repeated.symm]
      rfl

/-- Settles O6: the least class, or the key with it, is what the rule judges first. -/
theorem classJudgedFirst : Obligations.ClassJudgedFirst := by
  intro c p code s n h f rest request received least
  rcases least with ⟨operator, observer⟩ | ⟨service, below⟩ | keyless
  · obtain ⟨act, taken⟩ := exec_operator request operator
    rw [taken]
    exact congrArg Host.Outcome.next (State.takeRequest_answered received _ .notPermitted []
      (asOperator_observer received observer _))
  · exact exec_belowService request service received below
  · exact exec_withoutKey request received keyless

end Sys2Proof.Machine
end

section
/-!
OPEN with session 0: the session that holds the client tag, or a new one (R119, R120): O10.
-/

namespace Sys2Proof.Machine

section
variable {s : State} {p : Port} {n : Nat} {h : HostSession} {f : Frame} {rest : List Frame} {tag : Nat}

/-! ### The body (R119) -/

theorem readClass_code (cls : SessionClass) : readClass cls.code = some cls := by
  cases cls <;> rfl

/-- An OPEN body in range is read as what it spells (R119). -/
theorem readOpen_spelled (cls : SessionClass) {interval : Nat} (low : 1000 ≤ interval) (high : interval ≤ 600000)
    (range : tag < 65536) : readOpen (u8 cls.code ++ leBytes 4 interval ++ leBytes 2 tag) = some (cls, interval, tag) := by
  set body := u8 cls.code ++ leBytes 4 interval ++ leBytes 2 tag
  have first : field body 0 1 = cls.code :=
    (field_byte body (toByte cls.code) 0 rfl).trans (toByte_toNat _ (by cases cls <;> decide))
  have keepalive : field body 1 4 = interval :=
    (field_of_split _ _ _ 1 4 rfl (leBytes_length 4 _)).trans (leNat_leBytes 4 _ (by omega))
  have client : field body 5 2 = tag :=
    (congrArg (fun b => field b 5 2) (List.append_nil body).symm).trans
      ((field_of_split _ _ [] 5 2 rfl (leBytes_length 2 _)).trans (leNat_leBytes 2 _ (by omega)))
  simp only [readOpen, first, keepalive, client, readClass_code]
  exact if_pos ⟨rfl, low, high⟩

/-! ### Who holds the tag (R119) -/

theorem State.session_of_routed (routed : s.routed p n = some h) : s.session n = .host h ∧ h.port = p := by
  unfold State.routed at routed
  split at routed
  · rename_i g live
    obtain ⟨port, same⟩ := Option.ite_none_right_eq_some.1 routed
    cases same
    exact ⟨live, port⟩
  · cases routed

theorem State.holderOf_spec (found : s.holderOf p tag = some (n, h)) :
    1 ≤ n ∧ n ≤ 4 ∧ s.session n = .host h ∧ h.port = p ∧ h.tag = tag := by
  obtain ⟨m, mem, holds⟩ := List.exists_of_findSome?_eq_some found
  split at holds
  · rename_i g routed
    obtain ⟨own, same⟩ := Option.ite_none_right_eq_some.1 holds
    cases same
    obtain ⟨live, port⟩ := State.session_of_routed routed
    simp only [List.mem_cons, List.not_mem_nil, or_false] at mem
    exact ⟨by omega, by omega, live, port, own⟩
  · cases holds

theorem State.holderOf_eq_none (free : ∀ m g, 1 ≤ m → m ≤ 4 → s.session m = .host g → g.port = p → g.tag ≠ tag) :
    s.holderOf p tag = none := by
  cases found : s.holderOf p tag with
  | none => rfl
  | some x =>
    obtain ⟨low, high, live, port, own⟩ := State.holderOf_spec found
    exact absurd own (free x.1 x.2 low high live port)

/-- A client tag names one session of a port (R118). -/
theorem State.sessionsLawful.holderOf_eq (lawful : s.sessionsLawful) (live : s.session n = .host h) (port : h.port = p) :
    s.holderOf p h.tag = some (n, h) := by
  obtain ⟨ranges, -, -, tags⟩ := lawful
  cases found : s.holderOf p h.tag with
  | none => exact absurd rfl (State.tag_ne_of_no_holder found (ranges n h live).2.1 live port)
  | some x =>
    obtain ⟨m, g⟩ := x
    obtain ⟨-, -, live', port', own⟩ := State.holderOf_spec found
    obtain rfl := tags m n g h live' live (port'.trans port.symm) own
    cases live.symm.trans live'
    rfl

theorem State.holderOf_setLink (l : Link) : (s.setLink p l).holderOf p tag = s.holderOf p tag := by
  simp only [State.holderOf, State.routed_setLink]

/-! ### A new session (R119, R120) -/

theorem State.serviceTaken_eq_false (free : ∀ m, (s.session m).live = true → s.classOf m ≠ .service) :
    s.serviceTaken = false := by
  rw [State.serviceTaken, List.any_eq_false]
  intro m _ taken
  obtain ⟨live, service⟩ := Bool.and_eq_true_iff.1 taken
  exact free m live (of_decide_eq_true service)

/-- The search of R120 gives the lowest FREE number. -/
theorem State.freeSession_eq_some (low : 1 ≤ n) (high : n ≤ 4) (free : s.session n = .free)
    (taken : ∀ m, 1 ≤ m → m < n → (s.session m).live = true) : s.freeSession = some n := by
  show (List.range' 1 4).find? _ = some n
  rw [List.find?_range'_eq_some]
  refine ⟨by rw [free]; rfl, List.mem_range'_1.2 ⟨low, by omega⟩, fun m first below => ?_⟩
  rw [taken m first below]
  rfl

/-- A request with session 0 is answered by its rule without a session (R188). -/
theorem State.takeSessionless_zero {code : Byte} (can : s.canTake p = true) (fifo : (s.link p).fifo = f :: rest)
    (kind : f.kind = code) (zero : f.ses = 0) (bare : List Byte → State → State × Answer) (serve : Service) {t : State}
    {r : Result} {fields : List Byte}
    (served : bare f.body (s.setLink p { s.link p with fifo := rest }) = (t, ⟨r, fields, true, false⟩)) :
    s.takeSessionless p code bare serve = t.placeReply p (replyFrame f r fields) false := by
  have taken := s.takeFrame_eq p (· == code) f rest can fifo (beq_iff_eq.2 kind)
  simp only [State.takeSessionless, taken, if_pos zero, served]

/-- OPEN opens a new session where the conditions of R119 hold (R120). -/
theorem serveOpen_opens {key : Bool} {body : List Byte} {cls : SessionClass} {interval : Nat}
    (read : readOpen body = some (cls, interval, tag)) (noHolder : s.holderOf p tag = none)
    (service : cls = .service → key = true ∧ s.serviceTaken = false) (free : s.freeSession = some n) :
    serveOpen p key body s = ((s.setSession n (.host (s.newSession p cls interval tag))).setReportQueue n ReportQueue.fresh,
      okWith (openReply n false (s.newSession p cls interval tag))) := by
  have keyed : ¬(cls = .service ∧ key = false) := fun k => by
    rw [(service k.1).1] at k
    exact Bool.noConfusion k.2
  have untaken : ¬(cls = .service ∧ s.serviceTaken = true) := fun k => by
    rw [(service k.1).2] at k
    exact Bool.noConfusion k.2
  simp only [serveOpen, read, noHolder, if_neg keyed, if_neg untaken, free]

/-- OPEN with a tag that is held finds its session and changes nothing (R119). -/
theorem serveOpen_finds {key : Bool} {body : List Byte} {cls : SessionClass} {interval : Nat}
    (read : readOpen body = some (cls, interval, tag)) (holder : s.holderOf p tag = some (n, h)) :
    serveOpen p key body s = (s, okWith (openReply n true h)) := by
  simp only [serveOpen, read, holder]

end

/-- Settles O10: the tag's holder answers, or the lowest FREE number is opened. -/
theorem openMakesOrFinds : Obligations.OpenMakesOrFinds := by
  refine ⟨fun s p key f rest cls interval tag n can fifo zero kind low high range body noHolder service first last free
    taken => ?_, fun s p key f rest n h cls interval lawful can fifo zero kind live port low high range body => ?_⟩
  · have untagged : (s.setLink p { s.link p with fifo := rest }).holderOf p tag = none :=
      State.holderOf_setLink _ |>.trans (State.holderOf_eq_none noHolder)
    have untaken : cls = .service → key = true ∧ (s.setLink p { s.link p with fifo := rest }).serviceTaken = false :=
      fun k => ⟨(service k).1, State.serviceTaken_eq_false fun m => by
        rw [State.setLink_session, State.setLink_classOf]
        exact (service k).2 m⟩
    have lowest : (s.setLink p { s.link p with fifo := rest }).freeSession = some n :=
      State.freeSession_eq_some first last (by rw [State.setLink_session, free]) fun m low high => by
        rw [State.setLink_session]
        exact taken m low high
    have served := serveOpen_opens (body ▸ readOpen_spelled cls low high range) untagged untaken lowest
    refine congrArg Host.Outcome.next ((State.takeSessionless_zero can fifo kind zero _ _ served).trans ?_)
    simp only [State.newSession, State.setLink_elapsed, State.placeReply, State.setLink_setSession,
      ← State.setLink_setReportQueue, State.link_setLink_same, State.setLink_setLink, replyFrame, zero, kind]
    rfl
  · have served := serveOpen_finds (key := key) (s := s.setLink p { s.link p with fifo := rest })
      (body ▸ readOpen_spelled cls low high range)
      (State.holderOf_setLink _ |>.trans (lawful.holderOf_eq live port))
    refine congrArg Host.Outcome.next ((State.takeSessionless_zero can fifo kind zero _ _ served).trans ?_)
    simp only [State.placeReply, State.link_setLink_same, State.setLink_setLink, replyFrame, zero, kind]
    rfl

end Sys2Proof.Machine
end

section
/-!
CLAIM and RELEASE: a channel gains or loses its owner (R135, R138), or is moved by force with the old owner's entries
removed and reported (R136, R145): O18 and O19.
-/

namespace Sys2Proof.Machine

section
variable {s : State} {p : Port} {n m : Nat} {h : HostSession} {f : Frame} {rest : List Frame} {code : Byte} {c : Nat}

/-! ### CLAIM (R135) -/

/-- A CLAIM body in range is read as what it spells (R135). -/
theorem readClaim_spelled (range : c ≤ 31) (force : Bool) :
    readClaim [BitVec.ofNat 8 c, if force then 1 else 0] = some (c, force) := by
  have channel : field [BitVec.ofNat 8 c, if force then 1 else 0] 0 1 = c :=
    (field_byte _ _ 0 rfl).trans (toByte_toNat c (by omega))
  have forced : readFlag (field [BitVec.ofNat 8 c, if force then 1 else 0] 1 1) = some force := by
    rw [field_byte _ _ 1 rfl, readFlag_eq_some]
  simp only [readClaim, channel, forced]
  exact if_pos ⟨rfl, range⟩

theorem serveClaim_unowned (received : s.receives p n h f rest code) (operator : h.cls ≠ .observer) (key : Bool)
    {force : Bool} (range : c ≤ 31) (body : f.body = [BitVec.ofNat 8 c, if force then 1 else 0])
    (bound : s.chan c ≠ .unbound) (unowned : (s.chan c).owner = none) :
    serveClaim key n f.body (s.arrived p n h rest) =
      ((s.arrived p n h rest).setChan c ((s.chan c).withOwner (some n)), okWith []) := by
  simp only [serveClaim, asOperator_arrived received operator, body, readClaim_spelled range, State.arrived_chan,
    if_neg bound, unowned]

/-- A CLAIM of an owned channel: the requester's own, or judged by the force flag and then the rights of SERVICE. -/
theorem serveClaim_owned (received : s.receives p n h f rest code) (operator : h.cls ≠ .observer) (key : Bool)
    {force : Bool} (range : c ≤ 31) (body : f.body = [BitVec.ofNat 8 c, if force then 1 else 0])
    (bound : s.chan c ≠ .unbound) (owner : (s.chan c).owner = some m) :
    serveClaim key n f.body (s.arrived p n h rest) =
      if m = n then (s.arrived p n h rest, okWith [])
      else if force = false then (s.arrived p n h rest, refuse .owned)
      else if h.cls = .service ∧ key = true then
        ((s.arrived p n h rest).forceClaim c m n, okWith (u16 ((s.arrived p n h rest).entriesOn m c).length))
      else (s.arrived p n h rest, refuse .notPermitted) := by
  have rights : (s.arrived p n h rest).serviceRights n key = true ↔ h.cls = .service ∧ key = true := by
    obtain ⟨⟨_, _, _, _, live, _⟩, _⟩ := received
    rw [State.serviceRights, State.arrived_classOf live, Bool.and_eq_true, decide_eq_true_iff, and_comm]
  simp only [serveClaim, asOperator_arrived received operator, body, readClaim_spelled range, State.arrived_chan,
    if_neg bound, owner, rights]

/-! ### RELEASE (R138) -/

theorem State.targetedBy_iff : s.targetedBy n c = true ↔ ∃ e ∈ s.queue, e.owner = n ∧ e.act.target = c := by
  simp only [State.targetedBy, List.any_eq_true, Bool.and_eq_true, beq_iff_eq]

theorem serveRelease_read (received : s.receives p n h f rest code) (operator : h.cls ≠ .observer) (range : c ≤ 31)
    (body : f.body = [BitVec.ofNat 8 c]) (bound : s.chan c ≠ .unbound) :
    serveRelease n f.body (s.arrived p n h rest) =
      if (s.chan c).owner ≠ some n then (s.arrived p n h rest, refuse .notOwner)
      else if s.targetedBy n c then (s.arrived p n h rest, refuse .inUse)
      else ((s.arrived p n h rest).setChan c ((s.chan c).withOwner none), okWith []) := by
  simp only [serveRelease, asOperator_arrived received operator, body, readIndex_single c 32 (by omega) (by omega),
    State.arrived_chan, if_neg bound, State.targetedBy, State.arrived_queue]
  rfl

end

/-- The channel with another owner, as the statement writes it (R133). -/
theorem Channel.withOwner_eq (r : Channel) (m : Option Nat) : r.withOwner m = (match r with
    | .output o => .output { o with owner := m }
    | .input i => .input { i with owner := m }
    | .unbound => .unbound) := by
  cases r <;> rfl

/-- Settles O18: each outcome is that of one branch of the rule, and the owner is all that an accepted one writes. -/
theorem claimAndRelease : Obligations.ClaimAndRelease := by
  refine ⟨fun s p key n h f rest c force received operator range body bound => ?_,
    fun s p n h f rest c received operator range body bound => ?_⟩
  · have owned := fun m => serveClaim_owned (m := m) received operator key range body bound
    refine ⟨fun unowned => ?_, fun own => ?_, fun m owner other unforced => ?_, fun m owner other forced noRights => ?_⟩
    · have served := serveClaim_unowned received operator key range body bound unowned
      rw [Channel.withOwner_eq] at served
      exact congrArg Host.Outcome.next (State.takeRequest_channel received (serveClaim key) c _ [] .isolated served)
    · have served := owned n own
      rw [if_pos rfl] at served
      exact congrArg Host.Outcome.next (State.takeRequest_answered received (serveClaim key) .ok [] served)
    · have served := owned m owner
      rw [if_neg other, if_pos unforced] at served
      exact congrArg Host.Outcome.next (State.takeRequest_answered received (serveClaim key) .owned [] served)
    · have served := owned m owner
      have refused : ¬(h.cls = .service ∧ key = true) := fun rights => by
        rw [noRights rights.1] at rights
        exact Bool.noConfusion rights.2
      rw [if_neg other, if_neg (by simp [forced]), if_neg refused] at served
      exact congrArg Host.Outcome.next (State.takeRequest_answered received (serveClaim key) .notPermitted [] served)
  · have served := serveRelease_read received operator range body bound
    refine ⟨fun own untargeted => ?_, fun own targeted => ?_, fun foreign => ?_⟩
    · have free : ¬s.targetedBy n c = true := fun k => by
        obtain ⟨e, he, mine, target⟩ := State.targetedBy_iff.1 k
        exact untargeted e he mine target
      rw [if_neg (not_not.2 own), if_neg free, Channel.withOwner_eq] at served
      exact congrArg Host.Outcome.next (State.takeRequest_channel received serveRelease c _ [] .isolated served)
    · rw [if_neg (not_not.2 own), if_pos (State.targetedBy_iff.2 targeted)] at served
      exact congrArg Host.Outcome.next (State.takeRequest_answered received serveRelease .inUse [] served)
    · rw [if_pos foreign] at served
      exact congrArg Host.Outcome.next (State.takeRequest_answered received serveRelease .notOwner [] served)

section
variable {s : State} {p : Port} {n m : Nat} {h : HostSession} {f : Frame} {rest : List Frame} {code : Byte} {c : Nat}

/-! ### Runs of reports (R145) -/

section
variable {α : Type} {time : Nat} {body : α → ReportBody}

theorem State.reportEach_cons (s : State) (n : Nat) (a : α) (l : List α) :
    s.reportEach n time body (a :: l) = (s.addReport n time (body a)).reportEach n time body l := rfl

theorem State.reportEach_session (s : State) (n : Nat) (l : List α) (k : Nat) :
    (s.reportEach n time body l).session k = s.session k := by
  unfold State.session
  rw [State.reportEach_sessions]

/-- A run of reports reaches no queue but its session's. -/
theorem State.reportEach_other (s : State) {k : Nat} (other : k ≠ n) (l : List α) :
    (s.reportEach n time body l).reportQueue k = s.reportQueue k := by
  induction l generalizing s with
  | nil => rfl
  | cons a l ih => rw [State.reportEach_cons, ih, State.addReport_other _ _ _ _ _ other]

/-- What a run of reports does to a queue rests on it and on whether the session is live. -/
theorem State.reportEach_reportQueue_of_same {s t : State} (live : (t.session n).live = (s.session n).live) {k : Nat}
    (same : t.reportQueue k = s.reportQueue k) (l : List α) :
    (t.reportEach n time body l).reportQueue k = (s.reportEach n time body l).reportQueue k := by
  induction l generalizing s t with
  | nil => exact same
  | cons a l ih =>
    rw [State.reportEach_cons, State.reportEach_cons]
    refine ih ?_ (State.addReport_reportQueue_of_same live same _ _)
    rw [State.addReport_session, State.addReport_session, live]

/-- A report for a live session stands last in a queue that has room (R145). -/
theorem State.addReport_bodies (s : State) (time : Nat) (b : ReportBody) (live : (s.session n).live = true)
    (room : (s.reportQueue n).records.length < Config.reportCapacity) :
    ((s.addReport n time b).reportQueue n).records.map Report.body = (s.reportQueue n).records.map Report.body ++ [b] := by
  rw [State.addReport_same _ _ _ _ live, if_neg (Nat.not_le.2 room), List.map_append]
  rfl

theorem State.reportEach_bodies (s : State) (l : List α) (live : (s.session n).live = true)
    (room : (s.reportQueue n).records.length + l.length ≤ Config.reportCapacity) :
    ((s.reportEach n time body l).reportQueue n).records.map Report.body =
      (s.reportQueue n).records.map Report.body ++ l.map body := by
  induction l generalizing s with
  | nil => rw [List.map_nil, List.append_nil]; rfl
  | cons a l ih =>
    rw [List.length_cons] at room
    have first := s.addReport_bodies time (body a) live (by omega)
    have longer := congrArg List.length first
    simp only [List.length_map, List.length_append, List.length_singleton] at longer
    rw [State.reportEach_cons, ih _ (by rwa [State.addReport_session]) (by omega), first, List.map_cons, List.append_assoc]
    rfl

end

/-! ### The forced CLAIM (R136) -/

/-- The report of an entry that a forced claim removes (R136). -/
def Entry.cancellation (e : Entry) : ReportBody := .actionCancelled e.handle e.act.target e.act.kind e.phase.state

/-- The reports that a forced claim by `n` gives the old owner `m` (R136, steps 1 and 4). -/
def State.claimReports (s : State) (c m n : Nat) : State :=
  (s.reportEach m s.now Entry.cancellation (s.entriesOn m c)).addReport m s.now
    (.ownershipLost c n (s.entriesOn m c).length)

/-- Entries of one owner cancelled one after another leave the queue, and each is reported. -/
theorem State.foldl_cancelClaimed_eq (l : List Entry) (own : ∀ e ∈ l, e.owner = m) (s : State) :
    l.foldl State.cancelClaimed s = { s with
      queue := s.queue.filter fun x => decide (x.adm ∉ l.map Entry.adm)
      reports := (s.reportEach m s.now Entry.cancellation l).reports } := by
  induction l generalizing s with
  | nil => simp [State.reportEach]
  | cons e l ih =>
    have mine := own e (List.mem_cons_self ..)
    have first : s.cancelClaimed e = { s with
        queue := s.queue.filter fun x => x.adm != e.adm
        reports := (s.addReport m s.now e.cancellation).reports } := by
      obtain ⟨r, frame⟩ := (s.removeEntry e.adm).addReport_frame m s.now e.cancellation
      have reports := State.addReport_reports_of_same (s := s) (t := s.removeEntry e.adm) rfl rfl m s.now e.cancellation
      rw [frame] at reports
      rw [State.cancelClaimed, mine, ← Entry.cancellation, frame, ← reports]
      rfl
    rw [List.foldl_cons, ih (fun x hx => own x (List.mem_cons_of_mem _ hx)), State.reportEach_cons]
    have reports := State.reportEach_reports_of_same (s := s.addReport m s.now e.cancellation) (t := s.cancelClaimed e)
      (by rw [first, State.addReport_sessions]) (by rw [first]) m s.now Entry.cancellation l
    rw [← reports, first]
    have queue : (s.queue.filter fun x => x.adm != e.adm).filter (fun x => decide (x.adm ∉ l.map Entry.adm)) =
        s.queue.filter fun x => decide (x.adm ∉ (e :: l).map Entry.adm) := by
      rw [List.filter_filter]
      refine List.filter_congr fun x _ => ?_
      rw [Bool.eq_iff_iff]
      simp [and_comm]
    rw [queue]
    rfl

/-- A forced claim of a channel: the channel, the queue and the old owner's reports, and nothing else (R136). -/
theorem State.forceClaim_eq (distinct : (s.queue.map Entry.adm).Nodup) (c m n : Nat) :
    s.forceClaim c m n = { s.setChan c ((s.chan c).claimed n) with
      queue := s.queue.filter fun e => !(e.owner == m && e.act.target == c)
      reports := (s.claimReports c m n).reports } := by
  have own : ∀ e ∈ s.entriesOn m c, e.owner = m := fun e he => by
    have chosen := List.of_mem_filter he
    exact beq_iff_eq.1 (Bool.and_eq_true_iff.1 chosen).1
  have cancelled := State.foldl_cancelClaimed_eq (s.entriesOn m c) own s
  have queue : (s.queue.filter fun x => decide (x.adm ∉ (s.entriesOn m c).map Entry.adm)) =
      s.queue.filter fun e => !(e.owner == m && e.act.target == c) := by
    refine List.filter_congr fun x hx => ?_
    have member : x.adm ∈ (s.entriesOn m c).map Entry.adm ↔ (x.owner == m && x.act.target == c) = true := by
      rw [List.mem_map]
      constructor
      · rintro ⟨y, hy, same⟩
        obtain ⟨hy, chosen⟩ := List.mem_filter.1 hy
        rwa [List.inj_on_of_nodup_map distinct hx hy same.symm]
      · exact fun chosen => ⟨x, List.mem_filter.2 ⟨hx, chosen⟩, rfl⟩
    rw [Bool.eq_iff_iff, decide_eq_true_iff, member, Bool.not_eq_true, Bool.not_eq_true']
  rw [queue] at cancelled
  have reports : ∀ u : State, u.sessions = s.sessions →
      u.reports = (s.reportEach m s.now Entry.cancellation (s.entriesOn m c)).reports →
      u.addReport m s.now (.ownershipLost c n (s.entriesOn m c).length) =
        { u with reports := (s.claimReports c m n).reports } := by
    intro u sessions same
    obtain ⟨r, frame⟩ := u.addReport_frame m s.now (.ownershipLost c n (s.entriesOn m c).length)
    have result := State.addReport_reports_of_same (sessions.trans (s.reportEach_sessions m s.now _ _).symm) same m s.now
      (.ownershipLost c n (s.entriesOn m c).length)
    rw [frame] at result
    rw [frame, State.claimReports, ← result]
  rw [State.forceClaim]
  dsimp only
  rw [cancelled]
  refine (reports _ ?_ ?_).trans ?_ <;> rfl

theorem State.arrived_entriesOn (m c : Nat) : (s.arrived p n h rest).entriesOn m c = s.entriesOn m c := by
  unfold State.entriesOn
  rw [State.arrived_queue]

theorem State.claimReports_other (s : State) (c n : Nat) {k : Nat} (other : k ≠ m) :
    (s.claimReports c m n).reportQueue k = s.reportQueue k := by
  rw [State.claimReports, State.addReport_other _ _ _ _ _ other, State.reportEach_other _ other]

/-- The arrival of a frame does not show in the reports of a forced claim. -/
theorem State.claimReports_arrived (live : s.session n = .host h) (c m k : Nat) :
    ((s.arrived p n h rest).claimReports c m n).reportQueue k = (s.claimReports c m n).reportQueue k := by
  have alive := State.arrived_live (p := p) (rest := rest) live m
  rw [State.claimReports, State.arrived_entriesOn, State.arrived_now]
  refine State.addReport_reportQueue_of_same ?_
    (State.reportEach_reportQueue_of_same alive (s.arrived_reportQueue p n h rest k) _) _ _
  rw [State.reportEach_session, State.reportEach_session, alive]

/-- With room in the old owner's queue, one report for each entry and then OWNERSHIP_LOST (R136). -/
theorem State.claimReports_bodies (s : State) (c n : Nat) (live : (s.session m).live = true)
    (room : (s.reportQueue m).records.length + (s.entriesOn m c).length < Config.reportCapacity) :
    ((s.claimReports c m n).reportQueue m).records.map Report.body =
      (s.reportQueue m).records.map Report.body ++ (s.entriesOn m c).map Entry.cancellation ++
        [.ownershipLost c n (s.entriesOn m c).length] := by
  have cancelled := s.reportEach_bodies (time := s.now) (body := Entry.cancellation) (s.entriesOn m c) live
    (Nat.le_of_lt room)
  have longer := congrArg List.length cancelled
  simp only [List.length_map, List.length_append] at longer
  rw [State.claimReports, State.addReport_bodies _ _ _ (by rwa [State.reportEach_session]) (by omega), cancelled]

/-- A request in sequence that writes one channel, the queue and the report queues: the same on the answered state. -/
theorem State.takeRequest_claim (received : s.receives p n h f rest code) (serve : Service) {fields : List Byte} {r : Channel}
    {q : List Entry} {rs : Vector ReportQueue 5}
    (served : serve n f.body (s.arrived p n h rest) =
      ({ (s.arrived p n h rest).setChan c r with queue := q, reports := rs }, okWith fields)) :
    s.takeRequest p code serve =
      { (s.answered p n h f rest .ok fields).setChan c r with queue := q, reports := rs } :=
  State.takeRequest_effect received serve .ok fields (fun t => { t.setChan c r with queue := q, reports := rs }) served
    (fun _ => rfl) (fun t x => by unfold State.setSession; split <;> rfl) (fun _ => by cases p <;> rfl)
    (fun _ _ => by cases p <;> rfl)

/-- A forced CLAIM by a session with the rights of SERVICE (R136). -/
theorem execClaim_forced (received : s.receives p n h f rest 0x18) (distinct : (s.queue.map Entry.adm).Nodup)
    (service : h.cls = .service) (range : c ≤ 31) (body : f.body = [BitVec.ofNat 8 c, 1]) (bound : s.chan c ≠ .unbound)
    (owner : (s.chan c).owner = some m) (other : m ≠ n) :
    exec (.claim p true) s = .next { (s.answered p n h f rest .ok (leBytes 2 (s.entriesOn m c).length)).setChan c
        ((s.chan c).claimed n) with
      queue := s.queue.filter fun e => !(e.owner == m && e.act.target == c)
      reports := ((s.arrived p n h rest).claimReports c m n).reports } := by
  have operator : h.cls ≠ .observer := fun k => by
    rw [service] at k
    exact SessionClass.noConfusion k
  have served := serveClaim_owned received operator true (force := true) range body bound owner
  have moved := State.forceClaim_eq (s := s.arrived p n h rest) (by rwa [State.arrived_queue]) c m n
  rw [if_neg other, if_neg Bool.noConfusion, if_pos ⟨service, rfl⟩, moved, State.arrived_entriesOn,
    State.arrived_chan, State.arrived_queue] at served
  exact congrArg Host.Outcome.next (State.takeRequest_claim received (serveClaim true) served)

end

/-- Settles O19: the entries go one after another, each with its report, before the channel changes hands. -/
theorem forcedClaimMovesOutput : Obligations.ForcedClaimMovesOutput := by
  intro s p n m h f rest c new law received service range body claimed other
  obtain ⟨bound, owner, result⟩ : s.chan c ≠ .unbound ∧ (s.chan c).owner = some m ∧ new = (s.chan c).claimed n := by
    rcases claimed with ⟨o, output, owner, rfl⟩ | ⟨i, input, owner, rfl⟩
    · rw [State.chan_of_outputAt output]
      exact ⟨Channel.noConfusion, owner, rfl⟩
    · rw [State.chan_of_inputAt input]
      exact ⟨Channel.noConfusion, owner, rfl⟩
  have ⟨⟨_, _, _, _, live, _⟩, _⟩ := received
  have step := execClaim_forced received law.2.1 service range body bound owner other
  have reports := State.claimReports_arrived (p := p) (rest := rest) live c m
  have count : (s.queue.countP fun e => e.owner == m && e.act.target == c) = (s.entriesOn m c).length :=
    List.countP_eq_length_filter
  rw [count, result]
  refine ⟨_, step, rfl, fun k foreign => ?_, fun sel chosen => ?_, fun alive room => ?_⟩
  · exact (reports k).trans (s.claimReports_other c n foreign)
  · subst chosen
    exact reports m
  · exact (congrArg (fun q => q.records.map Report.body) (reports m)).trans (s.claimReports_bodies c n alive room)

end Sys2Proof.Machine
end

section
/-!
The end of a session by CLOSE or at its grace deadline (R129, R130, R131): O31.
-/

namespace Sys2Proof.Machine

section
variable {s : State} {p : Port} {n : Nat} {h : HostSession} {f : Frame} {rest : List Frame}

/-! ### The teardown (R131) -/

/-- The state whose outputs a teardown drives: the session's entries, triggers and fire requests are gone. -/
def State.withoutWork (s : State) (n : Nat) : State :=
  { s with
    queue := s.queue.filter fun (e : Entry) => e.owner != n
    triggers := s.triggers.map fun (r : Option Trigger) => r.filter fun (t : Trigger) => t.owner != n
    fireRequests := s.fireRequests.filter fun (f : FireReq) => f.owner != n }

/-- A teardown is its drives, and then writes of what belonged to the session. -/
theorem State.teardown_eq (s : State) (n : Nat) : ∃ ch ps,
    (s.withoutWork n).driveOwnedSafe n = { s.withoutWork n with channels := ch, pins := ps } ∧
    s.teardown n = State.setSession (State.setReportQueue { s.withoutWork n with
      channels := ch.map (Channel.disown n)
      pins := ps
      inFlight := s.inFlight.map fun f => if f.owner = some n then { f with owner := none } else f
      build := s.build.filter fun b => b.owner != n
      store := s.store.disown n
      handed := s.handed.filter fun r => r.session != n } n ReportQueue.fresh) n .free := by
  obtain ⟨ch, ps, frame⟩ := State.foldl_driveSafe_frame ((s.withoutWork n).ownedOutputs n) (s.withoutWork n)
  have frame : (s.withoutWork n).driveOwnedSafe n = { s.withoutWork n with channels := ch, pins := ps } := frame
  refine ⟨ch, ps, frame, ?_⟩
  show State.setSession (State.setReportQueue { (s.withoutWork n).driveOwnedSafe n with
    channels := ((s.withoutWork n).driveOwnedSafe n).channels.map (Channel.disown n)
    inFlight := ((s.withoutWork n).driveOwnedSafe n).inFlight.map fun f =>
      if f.owner = some n then { f with owner := none } else f
    build := ((s.withoutWork n).driveOwnedSafe n).build.filter fun b => b.owner != n
    store := ((s.withoutWork n).driveOwnedSafe n).store.disown n
    handed := ((s.withoutWork n).driveOwnedSafe n).handed.filter fun r => r.session != n } n ReportQueue.fresh) n .free = _
  rw [frame]
  rfl

/-- A channel of an ended session, as the statement writes it (R131). -/
theorem Channel.disown_eq (n : Nat) (r : Channel) : r.disown n = (match r with
    | .unbound => .unbound
    | .output o => if o.owner = some n then .output { o with owner := none, held := false } else .output o
    | .input i => .input
        { i with
          owner := if i.owner = some n then none else i.owner
          subscribers := i.subscribers.filter fun m => m != n }) := by
  cases r <;> rfl

/-- The drives of a teardown are those of the safe levels of the session's outputs. -/
theorem State.restsWhere_withoutWork (kept : s.joinedKept) (n : Nat) :
    s.restsWhere (fun o => o.owner = some n) ((s.withoutWork n).driveOwnedSafe n) := by
  have distinct : ((s.withoutWork n).ownedOutputs n).Nodup := List.nodup_range.filter _
  have kept1 : (s.withoutWork n).joinedKept := kept
  have rests := State.restsWhere_foldl_driveSafe kept1 distinct (who := fun o => o.owner = some n) fun c o e => by
    rw [State.mem_ownedOutputs, e]
    simp
  exact rests.of_same rfl rfl rfl rfl

theorem State.teardown_session (s : State) (n : Nat) : (s.teardown n).session n = .free := by
  obtain ⟨ch, ps, -, result⟩ := s.teardown_eq n
  rw [result, State.session_setSession]
  split
  · rfl
  · rename_i out
    exact State.session_free_out _ _ (by omega)

/-- The teardown of a session, field by field. -/
theorem State.endedWith_teardown (kept : s.joinedKept) (n : Nat) : s.endedWith n (s.teardown n) := by
  have rests := State.restsWhere_withoutWork kept n
  have free := s.teardown_session n
  obtain ⟨ch, ps, drives, result⟩ := s.teardown_eq n
  rw [drives] at rests
  rw [result] at free ⊢
  refine ⟨?_, fun i => ?_, ?_, ?_, ?_, ?_, ?_, free, fun m other => ?_, ?_, fun m other => ?_, ⟨_, rests, fun c => ?_⟩, ?_⟩
  · simp only [State.setSession_queue, State.setReportQueue_queue]
    rfl
  · rw [State.setSession_trigger, State.setReportQueue_trigger]
    exact State.trigger_map rfl rfl i
  · simp only [State.setSession_fireRequests, State.setReportQueue_fireRequests]
    rfl
  · simp only [State.setSession_inFlight, State.setReportQueue_inFlight]
  · simp only [State.setSession_build, State.setReportQueue_build]
  · simp only [State.setSession_store, State.setReportQueue_store]
    rfl
  · simp only [State.setSession_handed, State.setReportQueue_handed]
  · rw [State.session_setSession_ne _ _ _ _ other.symm, State.setReportQueue_session]
    rfl
  · rw [State.setSession_reportQueue, State.reportQueue_setReportQueue]
    split
    · rfl
    · rename_i out
      exact State.reportQueue_fresh_out _ _ (by omega)
  · rw [State.setSession_reportQueue, State.reportQueue_setReportQueue_ne _ _ _ _ other.symm]
    rfl
  · rw [State.setSession_chan, State.setReportQueue_chan]
    refine (State.chan_map rfl rfl c).trans (Channel.disown_eq n _)
  · unfold State.setSession State.setReportQueue
    split <;> rfl

/-- The account of an ended session rests neither on that session's record before, nor on the port of its last frame. -/
theorem State.endedWith_of_arrived {t : State} (ended : (s.arrived p n h rest).endedWith n t) :
    s.endedWith n (t.setLink p (s.link p)) := by
  obtain ⟨queue, trigger, fireRequests, inFlight, build, store, handed, free, session, fresh, reports, ⟨u, rests, chan⟩,
    frame⟩ := ended
  refine ⟨?_, fun i => ?_, ?_, ?_, ?_, ?_, ?_, ?_, fun m other => ?_, ?_, fun m other => ?_, ⟨u, ?_, fun c => ?_⟩, ?_⟩
  · rw [State.setLink_queue, queue, State.arrived_queue]
  · rw [State.setLink_trigger, trigger, State.arrived_trigger]
  · rw [State.setLink_fireRequests, fireRequests, State.arrived_fireRequests]
  · rw [State.setLink_inFlight, inFlight, State.arrived_inFlight]
  · rw [State.setLink_build, build, State.arrived_build]
  · rw [State.setLink_store, store, State.arrived_store]
  · rw [State.setLink_handed, handed, State.arrived_handed]
  · rw [State.setLink_session, free]
  · rw [State.setLink_session, session m other, State.arrived_session_ne other]
  · rw [State.setLink_reportQueue, fresh]
  · rw [State.setLink_reportQueue, reports m other, State.arrived_reportQueue]
  · exact rests.of_same (s.arrived_channels p n h rest) (s.arrived_interlocks p n h rest) (s.arrived_time p n h rest) rfl
  · rw [State.setLink_chan, chan]
  · refine (congrArg (fun u => u.setLink p (s.link p)) frame).trans ?_
    unfold State.arrived State.setSession
    cases p <;> split <;> rfl

theorem State.teardown_link (s : State) (n : Nat) (x : Port) : (s.teardown n).link x = s.link x := by
  obtain ⟨ch, ps, -, result⟩ := s.teardown_eq n
  rw [result, State.setSession_link, State.setReportQueue_link]
  cases x <;> rfl

/-! ### CLOSE (R130) -/

theorem State.arrived_link (s : State) (p : Port) (n : Nat) (h : HostSession) (rest : List Frame) :
    (s.arrived p n h rest).link p = { s.link p with fifo := rest } := by
  rw [State.arrived, State.link_setLink_same]

/-- A CLOSE in sequence ends its session; the reply is placed, and no record is left to cache it (R130). -/
theorem execClose_ends (received : s.receives p n h f rest 0x04) (empty : f.body = []) :
    exec (.close p) s = .next (((s.arrived p n h rest).teardown n).setLink p { s.link p with
      fifo := rest
      replies := (s.link p).replies ++ [⟨replyFrame f .ok [], false⟩] }) := by
  have free : ((s.arrived p n h rest).teardown n).session n = .free :=
    State.teardown_session _ n
  refine congrArg Host.Outcome.next ((State.takeRequest_receives received serveClose).trans ?_)
  simp only [State.performRequest, serveClose, empty, if_true, okWith, State.noteReply, free, State.placeReply,
    State.teardown_link, State.arrived_link]

end

/-- Settles O31: the teardown is the same whether a frame or the grace deadline brings it. -/
theorem sessionEnds : Obligations.SessionEnds := by
  intro s n h kept
  have joined : s.joinedKept := ((State.pairsKept_iff s).1 kept).1
  refine ⟨fun p f rest received empty => ?_, fun d live lapsed => ?_⟩
  · have ended := State.endedWith_teardown (s := s.arrived p n h rest) (State.joinedKept_arrived joined) n
    have ⟨⟨_, _, kind, _⟩, _⟩ := received
    refine ⟨_, State.endedWith_of_arrived ended, ?_⟩
    rw [execClose_ends received empty, State.setLink_setLink, replyFrame, kind]
    rfl
  · have event : exec (.graceExpiry n) s = if d ≤ s.elapsed then .next (s.teardown n) else .next s := by
      show execGraceExpiry n s = _
      rw [execGraceExpiry, live]
      dsimp only
      rw [lapsed]
    exact ⟨fun due => ⟨_, event.trans (if_pos due), State.endedWith_teardown joined n⟩,
      fun early => event.trans (if_neg (Nat.not_le.2 early))⟩

end Sys2Proof.Machine
end

section
/-!
TAKEOVER: its conditions in their order (R140), and what LOCAL's work becomes (R141): O32 and O33.
-/

namespace Sys2Proof.Machine

/-! ### Counting over the tables (R141) -/

theorem toList_eq_map_tget {α : Type} {k : Nat} (v : Vector α k) (d : α) : v.toList = (List.range k).map fun i => tget v i d := by
  refine List.ext_getElem (by simp) fun i low high => ?_
  have bound : i < k := by simpa using low
  simp [tget, bound]

theorem State.countP_channels (s : State) (q : Channel → Bool) :
    s.channels.toList.countP q = (List.range 32).countP fun c => q (s.chan c) := by
  rw [toList_eq_map_tget s.channels .unbound, List.countP_map]
  rfl

theorem State.countP_triggerList (s : State) (q : Trigger → Bool) :
    (s.triggerList.countP fun x => q x.2) = (List.range 16).countP fun i => (s.trigger i).any q := by
  rw [State.triggerList, List.countP_filterMap]
  refine List.countP_congr fun i _ => ?_
  cases s.trigger i <;> rfl

/-- The fields of a TAKEOVER reply, as the statement counts them (R141). -/
theorem State.takeoverReply_eq (s : State) : s.takeoverReply =
    u8 ((List.range 32).countP fun c => (s.chan c).owner == some 5) ++ leBytes 2 (s.entriesOwned 5) ++
      u8 ((List.range 16).countP fun i => (s.trigger i).any fun r => r.owner == 5) ++
      u8 ((List.range 32).countP fun c => (s.inputAt c).any fun i => i.subscribers.contains 5) := by
  have subscriptions : (s.channels.toList.countP fun r => match r with
      | .input i => i.subscribers.contains 5
      | _ => false) = (List.range 32).countP fun c => (s.inputAt c).any fun i => i.subscribers.contains 5 := by
    rw [State.countP_channels]
    refine List.countP_congr fun c _ => ?_
    unfold State.inputAt
    cases s.chan c <;> rfl
  rw [← subscriptions, ← s.countP_triggerList fun r => r.owner == 5, ← s.countP_channels fun r => r.owner == some 5]
  rfl

section
variable {s : State} {p : Port} {n : Nat} {h : HostSession} {f : Frame} {rest : List Frame} {code : Byte}

/-! ### LOCAL's work moved (R141) -/

theorem tset_comm {α : Type} {k : Nat} (v : Vector α k) {i j : Nat} (other : i ≠ j) (a b : α) :
    tset (tset v i a) j b = tset (tset v j b) i a := by
  refine Vector.ext fun m low => ?_
  simp only [tset, Vector.getElem_setIfInBounds]
  by_cases first : i = m
  · rw [if_pos first, if_pos first, if_neg fun second => other (first.trans second.symm)]
  · rw [if_neg first, if_neg first]

theorem State.setSession_comm (s : State) {n m : Nat} (other : n ≠ m) (x y : Session) :
    (s.setSession n x).setSession m y = (s.setSession m y).setSession n x := by
  unfold State.setSession
  by_cases hn : n = 0
  · simp only [hn, if_true]
  by_cases hm : m = 0
  · simp only [hm, if_true]
  simp only [hn, hm, if_false]
  rw [tset_comm _ (by omega)]

/-- The moves of a TAKEOVER by `n` made on `t`, of the work that `s` holds (R141). -/
def State.takenFrom (t s : State) (n : Nat) : State :=
  { (t.setReportQueue 5 ReportQueue.fresh).setSession 5 .free with
    channels := s.channels.map (Channel.takenOver n)
    queue := s.queue.map fun e => { e with owner := movedTo n e.owner }
    triggers := s.triggers.map fun r => r.map fun t => { t with owner := movedTo n t.owner }
    fireRequests := s.fireRequests.map fun f => { f with owner := movedTo n f.owner }
    inFlight := s.inFlight.map fun f => { f with owner := f.owner.map (movedTo n) }
    handed := s.handed.filter fun r => r.session != 5 }

theorem State.takeOver_eq (s : State) (n : Nat) : s.takeOver n = s.takenFrom s n := rfl

theorem State.takenFrom_arrived (t : State) : t.takenFrom (s.arrived p n h rest) n = t.takenFrom s n := by
  simp only [State.takenFrom, State.arrived_channels, State.arrived_queue, State.arrived_triggers,
    State.arrived_fireRequests, State.arrived_inFlight, State.arrived_handed]

theorem State.takenFrom_chan (t s : State) (n c : Nat) : (t.takenFrom s n).chan c = (s.chan c).takenOver n :=
  State.chan_map rfl rfl c

theorem State.takenFrom_setSession (t s : State) (host : n ≠ 5) (x : Session) :
    (t.takenFrom s n).setSession n x = (t.setSession n x).takenFrom s n := by
  rw [State.takenFrom, State.takenFrom, ← State.setSession_setReportQueue, ← State.setSession_comm _ host.symm]
  unfold State.setSession
  split <;> rfl

/-- A request in sequence of a host session that makes the moves of a TAKEOVER. -/
theorem State.takeRequest_takenFrom (received : s.receives p n h f rest code) (host : n ≠ 5) (serve : Service)
    {fields : List Byte}
    (served : serve n f.body (s.arrived p n h rest) = ((s.arrived p n h rest).takenFrom s n, okWith fields)) :
    s.takeRequest p code serve = (s.answered p n h f rest .ok fields).takenFrom s n := by
  refine State.takeRequest_effect received serve .ok fields (fun t => t.takenFrom s n) served (fun t => ?_)
    (fun t x => t.takenFrom_setSession s host x) (fun t => ?_) fun t l => ?_
  · refine (State.session_setSession_ne _ 5 n .free host.symm).trans ?_
    rw [State.setReportQueue_session]
  · cases p <;> rfl
  · cases p <;> rfl

/-! ### The conditions (R140) -/

theorem State.startupLoading_iff : s.startupLoading = true ↔ ∃ k start, s.store = .reading k (some 5) start := by
  unfold State.startupLoading
  cases e : s.store <;> simp

theorem State.not_startupLoading (loaded : ∀ k start, s.store ≠ .reading k (some 5) start) : ¬s.startupLoading = true :=
  fun loading => by
    obtain ⟨k, start, reading⟩ := State.startupLoading_iff.1 loading
    exact loaded k start reading

theorem Session.eq_free_iff (r : Session) : r = .free ↔ r.live = false := by
  cases r <;> simp [Session.live]

theorem State.arrived_takeoverReply : (s.arrived p n h rest).takeoverReply = s.takeoverReply := by
  rw [State.takeoverReply, State.arrived_channels, State.arrived_entriesOwned, State.arrived_triggerList, State.takeoverReply]

/-- The conditions of a session that is no OBSERVER, on the state that the request finds (R140). -/
theorem serveTakeover_read (received : s.receives p n h f rest code) (operator : h.cls ≠ .observer) :
    serveTakeover n f.body (s.arrived p n h rest) =
      if f.body ≠ [] then (s.arrived p n h rest, refuse .malformed)
      else if s.session 5 = .free then (s.arrived p n h rest, refuse .noLocal)
      else if s.startupLoading then (s.arrived p n h rest, refuse .storeBusy)
      else if 384 < s.entriesOwned n + s.entriesOwned 5 then (s.arrived p n h rest, refuse .quota)
      else ((s.arrived p n h rest).takeOver n, okWith s.takeoverReply) := by
  have ⟨⟨_, _, _, _, live, _⟩, _⟩ := received
  have free : (s.arrived p n h rest).session 5 = .free ↔ s.session 5 = .free := by
    rw [Session.eq_free_iff, State.arrived_live live, Session.eq_free_iff]
  have loading : (s.arrived p n h rest).startupLoading = s.startupLoading := by
    rw [State.startupLoading, State.arrived_store, State.startupLoading]
  rw [serveTakeover, asOperator_arrived received operator]
  have quota : Config.quota = 384 := rfl
  simp only [free, loading, quota, State.arrived_entriesOwned, State.arrived_takeoverReply]

/-- An accepted TAKEOVER (R140, R141). -/
theorem execTakeover_accepted (received : s.receives p n h f rest 0x1A) (operator : h.cls ≠ .observer) (empty : f.body = [])
    (present : s.session 5 = .localSession) (loaded : ∀ k start, s.store ≠ .reading k (some 5) start)
    (room : s.entriesOwned n + s.entriesOwned 5 ≤ 384) :
    exec (.takeover p) s = .next ((s.answered p n h f rest .ok s.takeoverReply).takenFrom s n) := by
  have ⟨⟨_, _, _, _, live, _⟩, _⟩ := received
  have host : n ≠ 5 := by
    rintro rfl
    cases live.symm.trans present
  have served := serveTakeover_read received operator
  rw [if_neg (not_not.2 empty), if_neg (by rw [present]; exact Session.noConfusion),
    if_neg (State.not_startupLoading loaded), if_neg (Nat.not_lt.2 room), State.takeOver_eq, State.takenFrom_arrived] at served
  exact congrArg Host.Outcome.next (State.takeRequest_takenFrom received host serveTakeover served)

/-! ### What is left of each channel (R141) -/

theorem map_movedTo (n : Nat) (owner : Option Nat) : owner.map (movedTo n) = if owner = some 5 then some n else owner := by
  cases owner with
  | none => rfl
  | some m => simp only [Option.map_some, movedTo, Option.some.injEq, apply_ite some]

theorem Channel.takenOver_subscribers (n : Nat) (i : Input) : ∃ ms,
    Channel.takenOver n (.input i) =
      .input { i with owner := if i.owner = some 5 then some n else i.owner, subscribers := ms } ∧
    ∀ m, m ∈ ms ↔ m ≠ 5 ∧ m ∈ i.subscribers ∨ m = n ∧ 5 ∈ i.subscribers := by
  refine ⟨_, rfl, fun m => ?_⟩
  split
  · rename_i subscribed
    have subscribed : 5 ∈ i.subscribers := by simpa using subscribed
    rw [mem_addMember, mem_dropMember]
    tauto
  · rename_i foreign
    have foreign : 5 ∉ i.subscribers := by simpa using foreign
    have other : m ∈ i.subscribers → m ≠ 5 := fun mem five => foreign (five ▸ mem)
    tauto

end

/-- Settles O32: the rule judges its conditions in the order of R140. -/
theorem takeoverConditions : Obligations.TakeoverConditions := by
  intro s p n h f rest received
  refine ⟨fun observer => ?_, fun operator => ?_⟩
  · exact congrArg Host.Outcome.next (State.takeRequest_answered received serveTakeover .notPermitted []
      (asOperator_observer received observer _))
  have served := serveTakeover_read received operator
  have there : s.session 5 = .localSession → s.session 5 ≠ .free := fun present => by
    rw [present]
    exact Session.noConfusion
  have refused : ∀ r, serveTakeover n f.body (s.arrived p n h rest) = (s.arrived p n h rest, refuse r) →
      exec (.takeover p) s = .next (s.answered p n h f rest r []) := fun r k =>
    congrArg Host.Outcome.next (State.takeRequest_answered received serveTakeover r [] k)
  refine ⟨fun body => refused _ ?_, fun empty => ⟨fun absent => refused _ ?_, fun present => ⟨fun loading => refused _ ?_,
    fun loaded => ⟨fun full => refused _ ?_, fun room => ?_⟩⟩⟩⟩
  · rw [served, if_pos body]
  · rw [served, if_neg (not_not.2 empty), if_pos absent]
  · rw [served, if_neg (not_not.2 empty), if_neg (there present), if_pos (State.startupLoading_iff.2 loading)]
  · rw [served, if_neg (not_not.2 empty), if_neg (there present), if_neg (State.not_startupLoading loaded), if_pos full]
  · refine ⟨_, s.takeoverReply, execTakeover_accepted received operator empty present loaded room, ?_, ?_⟩
    · cases p <;> rfl
    · exact State.session_setSession_same _ 5 .free (by decide) (by decide)

/-- Settles O33: the moves of R141, list by list and table by table. -/
theorem takeoverMovesLocal : Obligations.TakeoverMovesLocal := by
  intro s p n h f rest received operator empty present loaded room
  have step := execTakeover_accepted received operator empty present loaded room
  rw [s.takeoverReply_eq] at step
  refine ⟨_, step, rfl, State.trigger_map rfl rfl, fun c o output => ?_, fun c i input => ?_, fun c unbound => ?_, rfl, ?_, rfl⟩
  · refine State.outputAt_of_chan ((State.takenFrom_chan _ s n c).trans ?_)
    rw [State.chan_of_outputAt output]
    rfl
  · obtain ⟨ms, taken, mem⟩ := Channel.takenOver_subscribers n i
    refine ⟨ms, State.inputAt_of_chan ((State.takenFrom_chan _ s n c).trans ?_), mem⟩
    rw [State.chan_of_inputAt input, taken]
  · rw [State.takenFrom_chan, unbound]
    rfl
  · refine congrArg (fun g => s.inFlight.map g) (funext fun x => ?_)
    rw [map_movedTo]

end Sys2Proof.Machine
end

section
/-!
The Report Unit's events: REPORT_ACK, REPORT_RESEND and REPORT_ADD (R145, R149, R151): O34 and O35.
-/

namespace Sys2Proof.Machine

/-! ### The report queue (R146, R149) -/

theorem ReportQueue.ready_iff (q : ReportQueue) : q.ready = true ↔ q.sent < q.records.length ∧ q.sent < 8 := by
  rw [ReportQueue.ready, Bool.and_eq_true, decide_eq_true_iff, decide_eq_true_iff]
  rfl

/-- The distance is the number of sequences from the oldest on, modulo 65536. -/
theorem ReportQueue.distance_eq {q : ReportQueue} {a d : Nat} (oldest : q.oldest < 65536) (small : d < 65536)
    (apart : (q.oldest + d) % 65536 = a) : q.distance a = d := by
  unfold ReportQueue.distance
  omega

/-- Records that the acknowledged ones leave unsent make the queue ready again: fewer than 8 are sent. -/
theorem ReportQueue.ready_drop {q : ReportQueue} (lawful : q.lawful) {k : Nat} (some_sent : 1 ≤ k) (sent : k ≤ q.sent)
    (unsent : q.sent < q.records.length) : (q.drop k).ready = true := by
  obtain ⟨-, window, -⟩ := lawful
  have window : q.sent ≤ 8 := window
  refine (ReportQueue.ready_iff _).2 ⟨?_, ?_⟩
  · show q.sent - k < (q.records.drop k).length
    rw [List.length_drop]
    omega
  · show q.sent - k < 8
    omega

section
variable {s : State} {p : Port} {n : Nat} {h : HostSession} {f : Frame} {rest : List Frame} {code : Byte}

/-- A request in sequence whose rule writes the report queue of its session alone. -/
theorem State.takeRequest_reportQueue (received : s.receives p n h f rest code) (serve : Service) {fields : List Byte}
    (q : ReportQueue)
    (served : serve n f.body (s.arrived p n h rest) = ((s.arrived p n h rest).setReportQueue n q, okWith fields)) :
    s.takeRequest p code serve = (s.answered p n h f rest .ok fields).setReportQueue n q :=
  State.takeRequest_effect received serve .ok fields (fun t => t.setReportQueue n q) served
    (fun t => t.setReportQueue_session n q n) (fun t r => t.setSession_setReportQueue n r n q)
    (fun t => t.setReportQueue_link n q p) (fun t l => t.setLink_setReportQueue p l n q)

/-! ### REPORT_ACK (R149) -/

theorem readReportAck_leBytes {a : Nat} (small : a < 65536) : readReportAck (leBytes 2 a) = some a := by
  have spelled := field_leBytes 2 a [] small
  rw [List.append_nil] at spelled
  rw [readReportAck, if_pos (leBytes_length 2 a), spelled]

theorem serveReportAck_malformed (long : f.body.length ≠ 2) (t : State) :
    serveReportAck n f.body t = (t, refuse .malformed) := by
  simp only [serveReportAck, readReportAck, if_neg long]

/-- REPORT_ACK judges the distance of the sequence that its two bytes spell. -/
theorem serveReportAck_spelled {q : ReportQueue} {a d : Nat} (queue : q = s.reportQueue n) (small : a < 65536)
    (body : f.body = leBytes 2 a) (apart : q.distance a = d) :
    serveReportAck n f.body (s.arrived p n h rest) =
      if d < q.sent then
        ((s.arrived p n h rest).setReportQueue n (q.drop (d + 1)), okWith (ackReply (d + 1) (q.drop (d + 1))))
      else if d ≤ 32767 then (s.arrived p n h rest, ⟨.badAck, u16 q.oldest ++ u8 q.sent, true, false⟩)
      else (s.arrived p n h rest, okWith (ackReply 0 q)) := by
  simp only [serveReportAck, body, readReportAck_leBytes small, State.arrived_reportQueue, ← queue, apart]

theorem ackReply_drop (q : ReportQueue) (k : Nat) :
    ackReply k (q.drop k) = u8 k ++ u8 (q.records.length - k) ++ u8 q.missed := by
  rw [ackReply, ReportQueue.drop, List.length_drop]

end

/-- Settles O34: the ranges of the distance are the branches of the rule. -/
theorem reportAckRemoves : Obligations.ReportAckRemoves := by
  intro s p n h f rest received lawful
  refine ⟨fun long => congrArg Host.Outcome.next
    (State.takeRequest_answered received serveReportAck .malformed [] (serveReportAck_malformed long _)), ?_⟩
  intro q a oldest d queue small body first low near apart
  have first : oldest = q.oldest := first
  subst first
  have served := serveReportAck_spelled (s := s) (p := p) (h := h) (rest := rest) queue small body
    (ReportQueue.distance_eq low near apart)
  refine ⟨fun sent => ⟨?_, fun unsent => ?_⟩, fun unsent within => ?_, fun before => ?_⟩
  · rw [if_pos sent, ackReply_drop] at served
    exact congrArg Host.Outcome.next (State.takeRequest_reportQueue received serveReportAck _ served)
  · rw [← queue] at lawful
    exact ReportQueue.ready_drop lawful (Nat.le_add_left 1 d) sent unsent
  · rw [if_neg (Nat.not_lt.2 unsent), if_pos within] at served
    exact congrArg Host.Outcome.next (State.takeRequest_answered received serveReportAck .badAck _ served)
  · obtain ⟨-, window, -⟩ := lawful
    have window : (s.reportQueue n).sent ≤ 8 := window
    rw [if_neg (by rw [queue]; omega), if_neg (by omega)] at served
    exact congrArg Host.Outcome.next (State.takeRequest_answered received serveReportAck .ok _ served)

/-! ### REPORT_ADD (R145) -/

theorem execReportAdd_cons {s : State} {r : Handed} {rs : List Handed} (handed : s.handed = r :: rs) :
    execReportAdd s = .next (({ s with handed := rs } : State).addReport r.session r.time r.body) := by
  simp only [execReportAdd, handed]

theorem State.addReport_full {s : State} {n : Nat} (live : (s.session n).live = true)
    (full : 32 ≤ (s.reportQueue n).records.length) (time : Nat) (body : ReportBody) :
    s.addReport n time body =
      s.setReportQueue n { s.reportQueue n with missed := min ((s.reportQueue n).missed + 1) 255 } := by
  unfold State.addReport
  rw [if_pos live]
  exact if_pos full

theorem State.addReport_room {s : State} {n : Nat} (live : (s.session n).live = true)
    (room : (s.reportQueue n).records.length < 32) (time : Nat) (body : ReportBody) :
    s.addReport n time body =
      s.setReportQueue n
        { s.reportQueue n with
          records := (s.reportQueue n).records ++ [⟨(s.reportQueue n).next, (s.reportQueue n).missed, time, body⟩]
          next := ((s.reportQueue n).next + 1) % 65536
          missed := 0 } := by
  unfold State.addReport
  rw [if_pos live]
  exact if_neg (Nat.not_le.2 room)

/-- Settles O35: REPORT_RESEND writes one queue of the answered state, and REPORT_ADD is the addition of R145. -/
theorem reportsAddedAndResent : Obligations.ReportsAddedAndResent := by
  refine ⟨fun s p n h f rest received body => ?_, fun s r rs q handed queue => ?_⟩
  · refine congrArg Host.Outcome.next (State.takeRequest_reportQueue received serveReportResend _ ?_)
    rw [serveReportResend, if_pos body, State.arrived_reportQueue]
  · subst queue
    have added := execReportAdd_cons handed
    refine ⟨fun free => ?_, fun live full => ?_, fun live room => ?_⟩
    · exact added.trans (congrArg Host.Outcome.next (State.addReport_free _ _ _ _ free))
    · exact added.trans (congrArg Host.Outcome.next (State.addReport_full (s := { s with handed := rs }) live full _ _))
    · exact added.trans (congrArg Host.Outcome.next (State.addReport_room (s := { s with handed := rs }) live room _ _))

end Sys2Proof.Machine
end

section
/-!
The transmitters: the selection that both ports share (R187), and Port A's frames and report layouts (R152 to R157,
R193): O50.
-/

namespace Sys2Proof.Machine

/-! ### Ready sessions (R146, R148) -/

theorem State.routed_isSome_iff (s : State) (p : Port) (n : Nat) :
    (s.routed p n).isSome = true ↔ ∃ h, s.session n = .host h ∧ h.port = p := by
  unfold State.routed
  cases s.session n with
  | free => simp
  | localSession => simp
  | host h => by_cases own : h.port = p <;> simp [own]

theorem State.readyOn_iff (s : State) (p : Port) (n : Nat) :
    s.readyOn p n = true ↔ (∃ h, s.session n = .host h ∧ h.port = p) ∧
      (s.reportQueue n).sent < (s.reportQueue n).records.length ∧ (s.reportQueue n).sent < 8 := by
  rw [State.readyOn, Bool.and_eq_true, State.routed_isSome_iff, ReportQueue.ready_iff]

/-! ### The selection (R187) -/

section
variable {s : State} {p : Port}

/-- The first ready session round from the last-served one, `j` places after it. -/
theorem State.nextReady_eq {j : Nat} (place : j < 4)
    (before : ∀ i, i < j → s.readyOn p (((s.link p).lastServed + i) % 4 + 1) = false)
    (ready : s.readyOn p (((s.link p).lastServed + j) % 4 + 1) = true) :
    s.nextReady p = some (((s.link p).lastServed + j) % 4 + 1) := by
  have found : (List.range 4).find? (s.readyOn p ∘ fun i => ((s.link p).lastServed + i) % 4 + 1) = some j :=
    List.find?_range_eq_some.2 ⟨ready, List.mem_range.2 place, fun i earlier =>
      congrArg Bool.not (before i earlier)⟩
  rw [State.nextReady, List.find?_map, found]
  rfl

theorem State.choose_reply {x : OutFrame} {xs : List OutFrame} (waiting : (s.link p).replies = x :: xs) :
    s.choose p = some (x, s.setLink p { s.link p with replies := xs }) := by
  simp only [State.choose, waiting]

/-- Without a reply, nothing is chosen once a DEVICE_RESET has been accepted (R190). -/
theorem State.choose_resetting (none_waiting : (s.link p).replies = []) (accepted : s.deviceReset.isSome = true) :
    s.choose p = none := by
  simp only [State.choose, none_waiting, accepted, if_true]

/-- Without a reply or a ready session there is nothing to choose. -/
theorem State.choose_nothing (none_waiting : (s.link p).replies = [])
    (idle : s.deviceReset.isSome = true ∨ ∀ n, 1 ≤ n → n ≤ 4 → s.readyOn p n = false) : s.choose p = none := by
  obtain accepted | idle := idle
  · exact State.choose_resetting none_waiting accepted
  have unready : s.nextReady p = none := Option.eq_none_iff_forall_ne_some.2 fun n chosen => by
    obtain ⟨low, high, ready⟩ := State.nextReady_range chosen
    exact Bool.false_ne_true ((idle n low high).symm.trans ready)
  simp only [State.choose, none_waiting, unready, ite_self]

/-- Without a reply, the session whose turn it is hands its oldest unsent record over. -/
theorem State.choose_report (none_waiting : (s.link p).replies = []) (no_reset : s.deviceReset = none) {j : Nat}
    (place : j < 4) (before : ∀ i, i < j → s.readyOn p (((s.link p).lastServed + i) % 4 + 1) = false) {n : Nat}
    (turn : n = ((s.link p).lastServed + j) % 4 + 1) (routed : (s.routed p n).isSome = true)
    (window : (s.reportQueue n).sent < 8) {r : Report}
    (unsent : (s.reportQueue n).records[(s.reportQueue n).sent]? = some r) :
    s.choose p = some (⟨reportFrame n r, false⟩,
      (s.setReportQueue n { s.reportQueue n with sent := (s.reportQueue n).sent + 1 }).setLink p
        { s.link p with lastServed := n }) := by
  obtain ⟨more, -⟩ := List.getElem?_eq_some_iff.1 unsent
  have ready : s.readyOn p n = true :=
    (s.readyOn_iff p n).2 ⟨(s.routed_isSome_iff p n).1 routed, more, window⟩
  have next : s.nextReady p = some n := by
    rw [turn] at ready ⊢
    exact State.nextReady_eq place before ready
  have accepting : ¬s.deviceReset.isSome = true := by rw [no_reset]; exact Bool.false_ne_true
  simp only [State.choose, none_waiting, if_neg accepting, next, State.handOver, unsent]

end

/-! ### Port A's transmitter -/

section
variable {s : State} {f : OutFrame}

theorem execPortATransmit_chosen {s1 : State} (idle : s.sendingA = none) (chosen : s.choose .a = some (f, s1)) :
    execPortATransmit s = .next { s1 with sendingA := some f } := by
  simp only [execPortATransmit, idle, chosen]

theorem execPortATransmit_idle (idle : s.sendingA = none) (chosen : s.choose .a = none) :
    execPortATransmit s = .next s := by
  simp only [execPortATransmit, idle, chosen]

theorem execPortATransmit_busy (busy : s.sendingA.isSome = true) : execPortATransmit s = .next s := by
  obtain ⟨f, sending⟩ := Option.isSome_iff_exists.1 busy
  simp only [execPortATransmit, sending]

theorem execPortAFrameSent_eq (sending : s.sendingA = some f) :
    execPortAFrameSent s =
      .next (({ s with sendingA := none, txd := 0xA7 :: f.frame.bytes } : State).transmitted f) := by
  simp only [execPortAFrameSent, sending, syncByte]

end

theorem State.transmitted_resets (s : State) {f : OutFrame} (resets : f.resets = true) :
    s.transmitted f = s.softReset := if_pos resets

theorem State.transmitted_plain (s : State) {f : OutFrame} (plain : f.resets = false) : s.transmitted f = s :=
  if_neg (by rw [plain]; exact Bool.false_ne_true)

/-! ### Report layouts (R152 to R157, R193) -/

/-- A presence field of two optional fields (R192). -/
theorem presence_two {α β : Type} (a : Option α) (b : Option β) (g : α → List Byte) (k : β → List Byte) :
    presence 1 [a.map g, b.map k] = u8 (presentBit a 1 + presentBit b 2) := by
  refine (presence_one _).trans (congrArg u8 ?_)
  simp only [presenceNumber_cons, presenceNumber_nil, presentBit_map, presentBit_eq _ 2]
  omega

/-- A one-byte choice of two numbers. -/
theorem u8_ite (c : Prop) [Decidable c] (m n : Nat) : u8 (if c then m else n) = [if c then toByte m else toByte n] := by
  split <;> rfl

theorem u8_directionCode (rising : Bool) : u8 (directionCode rising) = [if rising then 0 else 1] :=
  u8_ite _ 0 1

theorem RunState.u8_code (r : RunState) : u8 r.code = [if r = .running then 0 else 1] := by
  cases r <;> rfl

theorem StopChange.u8_code (c : StopChange) : u8 c.code = [match c with
    | .entered => 0
    | .causeAdded => 1
    | .causeRemoved => 2
    | .resumed => 3] := by
  cases c <;> rfl

theorem FailReason.u8_code (c : FailReason) : u8 c.code = [match c with
    | .guardFalse => 0
    | .guardTimeout => 1
    | .interlocked => 2
    | .channelFaulted => 3
    | .queueFull => 4] := by
  cases c <;> rfl

/-- Code and fields as laid out fix the report frame (R157). -/
theorem reportFrame_of_layout {n : Nat} {r : Report} {code : Byte} {fields : List Byte}
    (laid : (code, fields) = (toByte r.body.layout.1, r.body.layout.2)) :
    reportFrame n r = ⟨BitVec.ofNat 8 n, 0, 0xF0,
      leBytes 2 r.seq ++ u8 r.missed ++ [code] ++ leBytes 6 r.time ++ fields⟩ := by
  obtain ⟨rfl, rfl⟩ := Prod.mk.inj laid
  rfl

/-- Settles O50: the transmitter sends what the selection of R187 chooses, and each layout is that of its rule. -/
theorem portATransmits : Obligations.PortATransmits := by
  intro s
  refine ⟨fun idle => ⟨fun x xs waiting => ?_, fun none_waiting => ⟨fun accepted => ?_, ?_⟩⟩, execPortATransmit_busy,
    s.readyOn_iff .a, fun n r occurrence code fields occurs laid => ?_, fun f sending => ⟨fun plain => ?_, fun resets => ?_⟩⟩
  · exact execPortATransmit_chosen idle (State.choose_reply (p := .a) waiting)
  · exact execPortATransmit_idle idle (State.choose_resetting (p := .a) none_waiting accepted)
  · intro no_reset j place before n q r turn queue routed window unsent
    subst queue
    exact execPortATransmit_chosen idle
      (State.choose_report (p := .a) none_waiting no_reset place before turn routed window unsent)
  · obtain rfl : occurrence = occurrenceBytes := funext occurs
    refine reportFrame_of_layout (laid.trans ?_)
    obtain ⟨seq, missed, time, body⟩ := r
    cases body with
    | actionFailed o reason => simp only [ReportBody.layout, FailReason.u8_code]; rfl
    | inputEdge c rising t => simp only [ReportBody.layout, u8_directionCode]; rfl
    | triggerFired trigger source rising t scheduled failed => simp only [ReportBody.layout, u8_directionCode]; rfl
    | stopChange c =>
      simp only [ReportBody.layout, presence_two, StopChange.u8_code, u8_ite, RunState.u8_code]
      rfl
    | storeDone erase slot state generation size => simp only [ReportBody.layout, u8_ite]; rfl
    | storeFailed verify erase slot => simp only [ReportBody.layout, u8_ite]; rfl
    | _ => rfl
  · exact (execPortAFrameSent_eq sending).trans (congrArg Host.Outcome.next (State.transmitted_plain _ plain))
  · exact (execPortAFrameSent_eq sending).trans (congrArg Host.Outcome.next (State.transmitted_resets _ resets))

end Sys2Proof.Machine
end

section
/-!
Port B's transactions: WRITE, LEVEL, an unknown command, READ and its end (R184, R185, R189, R190): O51.
-/

namespace Sys2Proof.Machine

/-! ### The outbound count and ATTN_N (R185) -/

/-- Host sessions have the numbers 1 to 4 (R117). -/
theorem mem_hostNumbers {n : Nat} : n ∈ [1, 2, 3, 4] ↔ 1 ≤ n ∧ n ≤ 4 := by
  simp only [List.mem_cons, List.not_mem_nil, or_false]
  omega

section
variable {s : State}

/-- The ready sessions of Port B are counted once each, in whatever order they are listed. -/
theorem State.outboundCount_eq {ready : List Nat} (distinct : ready.Nodup)
    (members : ∀ n, n ∈ ready ↔ 1 ≤ n ∧ n ≤ 4 ∧ s.readyOn .b n = true) :
    s.outboundCount = (match s.offered with
      | some _ => 1
      | none => 0) + s.linkB.replies.length + (match s.deviceReset with
      | some _ => 0
      | none => ready.length) := by
  have listed : ([1, 2, 3, 4].filter (s.readyOn .b)).length = ready.length := by
    refine ((List.perm_ext_iff_of_nodup ((by decide : [1, 2, 3, 4].Nodup).filter _) distinct).2 fun n => ?_).length_eq
    rw [List.mem_filter, members, mem_hostNumbers, and_assoc]
  rw [State.outboundCount, listed]
  cases s.offered <;> cases s.deviceReset <;> rfl

theorem State.attnAsserted_iff : s.attnAsserted = true ↔ s.outboundCount ≠ 0 := by
  rw [State.attnAsserted, bne_iff_ne]

/-- With nothing counted there is nothing to choose. -/
theorem State.choose_uncounted (zero : s.outboundCount = 0) : s.choose .b = none := by
  rw [State.outboundCount, Nat.add_eq_zero_iff, Nat.add_eq_zero_iff, List.length_eq_zero_iff] at zero
  obtain ⟨⟨-, none_waiting⟩, unready⟩ := zero
  refine State.choose_nothing none_waiting ?_
  split at unready
  · rename_i accepted
    exact .inl accepted
  · refine .inr fun n low high => ?_
    rw [List.length_eq_zero_iff, List.filter_eq_nil_iff] at unready
    exact Bool.eq_false_of_not_eq_true (unready n (mem_hostNumbers.2 ⟨low, high⟩))

end

/-! ### Frames from their bytes (R184, R192) -/

theorem Frame.len_eq (f : Frame) : f.len = f.body.length + 5 := rfl

theorem Frame.bytes_eq (f : Frame) :
    f.bytes = toByte f.len :: (f.payload ++ leBytes 2 (crc16 (toByte f.len :: f.payload)).toNat) := rfl

/-- The bytes of a frame after LEN, checked against LEN and CRC, give the frame back. -/
theorem Frame.frameOf_bytes {f : Frame} (fits : f.body.length ≤ 248) :
    frameOf (toByte f.len).toNat (f.payload ++ leBytes 2 (crc16 (toByte f.len :: f.payload)).toNat) = some f := by
  have len := f.len_eq
  have whole : 5 ≤ f.len ∧ f.len ≤ 253 ∧
      (f.payload ++ leBytes 2 (crc16 (toByte f.len :: f.payload)).toNat).length = f.len :=
    ⟨by omega, by omega, by rw [List.length_append, leBytes_length]; rfl⟩
  have payload : f.payload.length = f.len - 2 := rfl
  rw [toByte_toNat _ (by omega), frameOf, if_pos whole]
  dsimp only
  rw [List.take_left' payload, List.drop_left' payload, if_pos rfl]
  rfl

theorem toByte_of_byte (b : Byte) : toByte b.toNat = b := by
  rw [toByte, BitVec.ofNat_toNat, BitVec.setWidth_eq]

/-- A LEN out of range, another number of bytes and a CRC that does not match give no frame. -/
theorem frameOf_eq_none {len : Byte} {kept : List Byte}
    (bad : len.toNat < 5 ∨ 253 < len.toNat ∨ kept.length ≠ len.toNat ∨
      kept.drop (len.toNat - 2) ≠ leBytes 2 (crc16 (len :: kept.take (len.toNat - 2))).toNat) :
    frameOf len.toNat kept = none := by
  unfold frameOf
  split
  · rename_i whole
    obtain ⟨low, high, count⟩ := whole
    have mismatch : ¬leBytes 2 (crc16 (toByte len.toNat :: kept.take (len.toNat - 2))).toNat = kept.drop (len.toNat - 2) := by
      rw [toByte_of_byte]
      obtain short | long | other | check := bad
      · omega
      · omega
      · exact absurd count other
      · exact Ne.symm check
    exact if_neg mismatch
  · rfl

/-! ### WRITE, LEVEL and unknown commands (R184) -/

section
variable {s : State}

theorem State.receive_room {p : Port} (room : (s.link p).fifo.length < 4) (f : Frame) :
    s.receive p f = s.setLink p { s.link p with fifo := (s.link p).fifo ++ [f] } := if_pos room

theorem State.receive_full {p : Port} (full : 4 ≤ (s.link p).fifo.length) (f : Frame) :
    s.receive p f = s.setLink p { s.link p with overflows := min ((s.link p).overflows + 1) 65535 } :=
  if_neg (Nat.not_lt.2 full)

theorem State.judgeWrite_frame {f : Frame} (fits : f.body.length ≤ 248) : s.judgeWrite f.bytes = s.receive .b f := by
  rw [f.bytes_eq, State.judgeWrite, Frame.frameOf_bytes fits]

theorem State.judgeWrite_bad {len : Byte} {kept : List Byte} (none_kept : frameOf len.toNat kept = none) :
    s.judgeWrite (len :: kept) = s.countError .b := by
  rw [State.judgeWrite, none_kept]

/-- A WRITE that was not cut is judged. -/
theorem execWrite_whole (quiet : s.reading = none) (bytes : List Byte) :
    execWrite bytes false s = .next { s.judgeWrite bytes with miso := List.replicate (bytes.length + 1) 0x00 } := by
  simp only [execWrite, quiet, Bool.false_eq_true, if_false]

theorem execWrite_frame (quiet : s.reading = none) {f : Frame} (fits : f.body.length ≤ 248) :
    execWrite f.bytes false s =
      .next { s.receive .b f with miso := List.replicate (f.bytes.length + 1) 0x00 } := by
  rw [execWrite_whole quiet, State.judgeWrite_frame fits]

/-- A WRITE that was cut, is empty or holds no frame counts as an error. -/
theorem execWrite_error (quiet : s.reading = none) {bytes : List Byte} {cut : Bool}
    (error : cut = true ∨ s.judgeWrite bytes = s.countError .b) :
    execWrite bytes cut s = .next { s.countError .b with miso := List.replicate (bytes.length + 1) 0x00 } := by
  cases cut with
  | true => simp only [execWrite, quiet, if_true]
  | false => rw [execWrite_whole quiet, error.resolve_left Bool.false_ne_true]

/-- MISO when every byte of the stream is clocked out (R184, R185). -/
theorem shiftedOut_whole {stream : List Byte} {clocked : Nat} (whole : stream.length ≤ clocked) :
    shiftedOut stream clocked = [0x00] ++ stream ++ List.replicate (clocked - stream.length) 0xFF := by
  have all : (stream ++ List.replicate (clocked - stream.length) 0xFF).length ≤ clocked := by
    rw [List.length_append, List.length_replicate]
    omega
  rw [shiftedOut, List.take_of_length_le all]
  rfl

/-- MISO when CS_N deasserts before the end of the stream (R184, R185). -/
theorem shiftedOut_short {stream : List Byte} {clocked : Nat} (short : clocked ≤ stream.length) :
    shiftedOut stream clocked = [0x00] ++ stream.take clocked := by
  rw [shiftedOut, List.take_append_of_le_length short]
  rfl

theorem execLevel_eq (quiet : s.reading = none) (clocked : Nat) :
    execLevel clocked s = .next { s with miso := shiftedOut (u8 s.outboundCount ++ u8 s.freePlaces) clocked } := by
  simp only [execLevel, quiet]

theorem execUnknownSpiCommand_eq (quiet : s.reading = none) {command : Byte} (clocked : Nat)
    (unknown : isSpiCommand command = false) :
    execUnknownSpiCommand command clocked s = .next { s.countError .b with miso := shiftedOut [] clocked } := by
  simp only [execUnknownSpiCommand, unknown, quiet, Bool.false_eq_true, if_false]

theorem isSpiCommand_eq_false {command : Byte} (h1 : command ≠ 0xB1) (h2 : command ≠ 0xB2) (h3 : command ≠ 0xB3) :
    isSpiCommand command = false := by
  rw [isSpiCommand, beq_eq_false_iff_ne.2 h1, beq_eq_false_iff_ne.2 h2, beq_eq_false_iff_ne.2 h3]
  rfl

/-! ### READ (R185) -/

theorem execRead_offered {f : OutFrame} (quiet : s.reading = none) (offered : s.offered = some f) :
    execRead s = .next { s with reading := some ⟨f.frame.bytes, true, false⟩ } := by
  simp only [execRead, quiet, State.offer, offered]

theorem execRead_chosen {f : OutFrame} {s1 : State} (quiet : s.reading = none) (unoffered : s.offered = none)
    (chosen : s.choose .b = some (f, s1)) :
    execRead s = .next { s1 with offered := some f, reading := some ⟨f.frame.bytes, true, false⟩ } := by
  simp only [execRead, quiet, State.offer, unoffered, chosen, Option.map_some]

theorem execRead_nothing (quiet : s.reading = none) (unoffered : s.offered = none) (chosen : s.choose .b = none) :
    execRead s = .next { s with reading := some ⟨[0x00], false, false⟩ } := by
  simp only [execRead, quiet, State.offer, unoffered, chosen, Option.map_none]

/-! ### READ_END (R185, R190) -/

theorem execReadEnd_cut {r : ReadTxn} (reading : s.reading = some r) (cut : r.cut = true) (clocked before : Nat) :
    execReadEnd clocked before s =
      .next { s with reading := none, miso := shiftedOut (r.stream.take before) clocked } := by
  simp only [execReadEnd, reading, cut, if_true]

/-- The end of a READ that ends no offer: what it shifted out was no frame, or not all of it was clocked. -/
theorem execReadEnd_kept {r : ReadTxn} (reading : s.reading = some r) (uncut : r.cut = false) {clocked : Nat}
    (kept : ¬(r.frame = true ∧ r.stream.length ≤ clocked)) (before : Nat) :
    execReadEnd clocked before s = .next { s with reading := none, miso := shiftedOut r.stream clocked } := by
  simp only [execReadEnd, reading, uncut, Bool.false_eq_true, if_false, State.finishRead, if_neg kept]

/-- The end of a READ in which the offered frame was clocked out whole. -/
theorem execReadEnd_read {r : ReadTxn} {f : OutFrame} (reading : s.reading = some r) (uncut : r.cut = false)
    {clocked : Nat} (read : r.frame = true ∧ r.stream.length ≤ clocked) (offered : s.offered = some f) (before : Nat) :
    execReadEnd clocked before s =
      .next (({ s with reading := none, offered := none, miso := shiftedOut r.stream clocked } : State).transmitted f) := by
  simp only [execReadEnd, reading, uncut, Bool.false_eq_true, if_false, State.finishRead, if_pos read, offered]

end

/-- Settles O51: a transaction is judged at its end, and a READ shifts out what the transmitter holds or chooses. -/
theorem portBTransacts : Obligations.PortBTransacts := by
  refine ⟨fun s ready distinct members => ?_, fun s quiet => ?_, fun s => ⟨fun quiet => ?_, fun k before => ?_,
    fun f k before reading offered => ?_⟩⟩
  · refine ⟨State.outboundCount_eq distinct fun n => ?_, State.attnAsserted_iff, s.readyOn_iff .b⟩
    rw [members, State.readyOn_iff]
  · refine ⟨fun f fits => ⟨fun room => ?_, fun full => ?_⟩, fun bytes cut error => ?_, fun k two => ?_,
      fun command k h1 h2 h3 => ?_⟩
    · have written := execWrite_frame quiet fits
      rw [State.receive_room (p := .b) room] at written
      exact written
    · have written := execWrite_frame quiet fits
      rw [State.receive_full (p := .b) full] at written
      exact written
    · refine execWrite_error quiet (error.imp_right ?_)
      rintro (rfl | ⟨len, kept, rfl, bad⟩)
      · rfl
      · exact State.judgeWrite_bad (frameOf_eq_none bad)
    · have level := execLevel_eq quiet k
      rw [shiftedOut_whole two] at level
      exact level
    · have unknown := execUnknownSpiCommand_eq quiet k (isSpiCommand_eq_false h1 h2 h3)
      rw [shiftedOut_whole (Nat.zero_le k)] at unknown
      exact unknown
  · refine ⟨fun f offered => execRead_offered quiet offered, fun unoffered => ⟨fun x xs waiting => ?_, fun zero => ?_,
      fun none_waiting => ⟨fun accepted => ?_, ?_⟩⟩⟩
    · exact execRead_chosen quiet unoffered (State.choose_reply (p := .b) waiting)
    · exact execRead_nothing quiet unoffered (State.choose_uncounted zero)
    · exact execRead_nothing quiet unoffered (State.choose_resetting (p := .b) none_waiting accepted)
    · intro no_reset j place before n q r turn queue routed window unsent
      subst queue
      exact execRead_chosen quiet unoffered
        (State.choose_report (p := .b) none_waiting no_reset place before turn routed window unsent)
  · refine ⟨fun reading => ?_, fun stream frame reading within => ?_⟩
    · exact execReadEnd_kept reading rfl (fun read => Bool.false_ne_true read.1) before
    · have ended := execReadEnd_cut reading rfl k before
      rw [shiftedOut_whole (Nat.le_trans (List.length_take_le _ _) within)] at ended
      exact ended
  · refine ⟨fun whole => ?_, fun short => ?_⟩
    · have ended := execReadEnd_read reading rfl ⟨rfl, whole⟩ offered before
      rw [shiftedOut_whole whole] at ended
      exact ⟨fun plain => ended.trans (congrArg Host.Outcome.next (State.transmitted_plain _ plain)),
        fun resets => ended.trans (congrArg Host.Outcome.next (State.transmitted_resets _ resets))⟩
    · have ended := execReadEnd_kept reading rfl (fun read => Nat.not_le.2 short read.2) before
      rw [shiftedOut_short (Nat.le_of_lt short)] at ended
      exact ended

end Sys2Proof.Machine
end

section
/-!
What the laws of the Plan Store and of the resets speak of (R165, R190), and the work that leaves it as it is: drives, the
queue, reports, sessions, receiving, and every request but those that begin a store operation or a reset.
-/

namespace Sys2Proof.Machine

/-! ### The side of the state that the laws see -/

/-- What the laws of the Plan Store and of the resets see of a state: the slots, the operation without its session, the
accepted DEVICE_RESET, every frame that may be its reply, and the qualified level of STOP_N. -/
structure StoreSide where
  slots : Vector Slot 8
  op : StoreOp
  accepted : Option PendingReset
  replies : Port → List OutFrame
  sendingA : Option OutFrame
  offered : Option OutFrame
  level : StopLevel

/-- The side of a state that the laws see. -/
def State.storeSide (s : State) : StoreSide :=
  ⟨s.slots, s.store.withSession none, s.deviceReset, fun p => (s.link p).replies, s.sendingA, s.offered, s.stop.level⟩

theorem StoreOp.withSession_withSession (op : StoreOp) (m n : Option Nat) :
    (op.withSession m).withSession n = op.withSession n := by
  cases op <;> rfl

theorem StoreOp.disown_withSession (op : StoreOp) (n : Nat) (m : Option Nat) :
    (op.disown n).withSession m = op.withSession m := by
  unfold StoreOp.disown
  split
  · exact op.withSession_withSession none m
  · rfl

theorem StoreOp.withSession_eq_idle {op : StoreOp} {m : Option Nat} : op.withSession m = .idle ↔ op = .idle := by
  cases op <;> simp [StoreOp.withSession]

/-- Slot `k`, with record `r`, is in the phase that the operation asks for (R165). -/
def StoreOp.agreesWith (op : StoreOp) (k : Nat) (r : Slot) : Prop :=
  match op with
  | .idle => r.state ≠ .erasing ∧ r.state ≠ .programming
  | .reading j _ _ => r.state ≠ .erasing ∧ r.state ≠ .programming ∧ (k = j → r.state = .valid)
  | .commitErasing j _ _ => (r.state = .erasing ↔ k = j) ∧ r.state ≠ .programming
  | .commitProgramming j _ _ => (r.state = .programming ↔ k = j) ∧ r.state ≠ .erasing
  | .erasing j _ =>
    (r.state = .erasing ↔ k = j) ∧ r.state ≠ .programming ∧
      (k = j → r.name = none ∧ r.autostart = false ∧ r.size = 0)

/-- Slot `k` (R158). -/
def StoreSide.slot (x : StoreSide) (k : Nat) : Slot := tget x.slots k Slot.factory

/-- The frame waits as a reply, is being sent on Port A, or is offered on Port B. -/
def StoreSide.onWay (x : StoreSide) (f : OutFrame) : Prop :=
  (∃ p, f ∈ x.replies p) ∨ x.sendingA = some f ∨ x.offered = some f

/-- The law of the Plan Store (R158, R159, R165). -/
def StoreSide.storeLaw (x : StoreSide) : Prop := ∀ k, k < 8 → x.op.agreesWith k (x.slot k) ∧ (x.slot k).lawful

/-- The law of resets (R116, R175, R190). -/
def StoreSide.resetLaw (x : StoreSide) : Prop :=
  (x.level = .unknown → x.op = .idle ∧ x.accepted = none) ∧ (x.accepted.isSome = true → x.op = .idle) ∧
    ∀ f : OutFrame, f.resets = true → x.onWay f → x.accepted.isSome = true

theorem State.storeLawful_iff (s : State) : s.storeLawful ↔ s.storeSide.storeLaw := by
  refine forall_congr' fun k => imp_congr_right fun _ => and_congr_left' ?_
  unfold State.storeAgrees State.storeSide
  cases s.store <;> rfl

theorem State.resetLawful_iff (s : State) : s.resetLawful ↔ s.storeSide.resetLaw := by
  have ports : ∀ f : OutFrame, (∃ p, f ∈ (s.link p).replies) ↔ f ∈ s.linkA.replies ∨ f ∈ s.linkB.replies := fun f =>
    ⟨fun ⟨p, h⟩ => match p with
      | .a => .inl h
      | .b => .inr h, fun h => h.elim (fun h => ⟨.a, h⟩) fun h => ⟨.b, h⟩⟩
  unfold StoreSide.resetLaw StoreSide.onWay State.storeSide
  simp only [StoreOp.withSession_eq_idle, ports, or_assoc]
  rfl

/-! ### Channels, the queue and reports -/

theorem State.storeSide_of_frame {s t : State} (h : ∃ ch ps, t = { s with channels := ch, pins := ps }) :
    t.storeSide = s.storeSide := by
  obtain ⟨ch, ps, rfl⟩ := h
  rfl

theorem State.workedOn.storeSide {s t : State} (h : s.workedOn t) : t.storeSide = s.storeSide := by
  obtain ⟨ch, ps, q, a, r, rfl⟩ := h
  rfl

theorem State.foldl_storeSide {α : Type} {f : State → α → State} (hf : ∀ s a, (f s a).storeSide = s.storeSide)
    (l : List α) (s : State) : (l.foldl f s).storeSide = s.storeSide := by
  induction l generalizing s with
  | nil => rfl
  | cons a l ih => exact (ih (f s a)).trans (hf s a)

@[simp] theorem State.addReport_storeSide (s : State) (n time : Nat) (body : ReportBody) :
    (s.addReport n time body).storeSide = s.storeSide := by
  obtain ⟨q, frame⟩ := s.addReport_frame n time body
  rw [frame]
  rfl

@[simp] theorem State.setSession_storeSide (s : State) (n : Nat) (r : Session) :
    (s.setSession n r).storeSide = s.storeSide := by
  unfold State.setSession
  split <;> rfl

@[simp] theorem State.setReportQueue_storeSide (s : State) (n : Nat) (q : ReportQueue) :
    (s.setReportQueue n q).storeSide = s.storeSide := by
  unfold State.setReportQueue
  split <;> rfl

/-- A port is written: the laws see its replies alone. -/
theorem State.setLink_storeSide (s : State) (p : Port) (l : Link) :
    (s.setLink p l).storeSide = { s.storeSide with replies := Function.update s.storeSide.replies p l.replies } := by
  have replies : (fun x => ((s.setLink p l).link x).replies) = Function.update s.storeSide.replies p l.replies := by
    funext x
    cases p <;> cases x <;> rfl
  rw [← replies]
  cases p <;> rfl

/-- A port is written with the replies that it held. -/
theorem State.setLink_storeSide_same (s : State) (p : Port) (l : Link) (h : l.replies = (s.link p).replies) :
    (s.setLink p l).storeSide = s.storeSide := by
  rw [s.setLink_storeSide p l, h]
  exact congrArg (fun r => { s.storeSide with replies := r }) (Function.update_eq_self p s.storeSide.replies)

@[simp] theorem State.reportTo_storeSide (s : State) (n : Option Nat) (body : ReportBody) :
    (s.reportTo n body).storeSide = s.storeSide := by
  cases n with
  | none => rfl
  | some m => exact s.addReport_storeSide _ _ _

@[simp] theorem State.setHeld_storeSide (s : State) (c : Nat) (held : Bool) : (s.setHeld c held).storeSide = s.storeSide := by
  obtain ⟨ch, frame⟩ := s.setHeld_frame c held
  rw [frame]
  rfl

@[simp] theorem State.failOccurrence_storeSide (s : State) (e : Entry) (reason : FailReason) (time : Nat) :
    (s.failOccurrence e reason time).storeSide = s.storeSide := by
  obtain ⟨q, a, r, frame⟩ := s.failOccurrence_frame e reason time
  rw [frame]
  rfl

@[simp] theorem State.applyVerdict_storeSide (s : State) (e : Entry) (v : Verdict) :
    (s.applyVerdict e v).storeSide = s.storeSide := by
  obtain ⟨f, worked, -⟩ := s.applyVerdict_frame e v
  exact worked.storeSide

@[simp] theorem State.reevaluate_storeSide (s : State) (e : Entry) : (s.reevaluate e).storeSide = s.storeSide := by
  unfold State.reevaluate
  split
  · rfl
  · split
    · exact s.applyVerdict_storeSide e _
    · rfl

@[simp] theorem State.readback_storeSide (s : State) (c : Nat) (o : Output) (wires : BitVec 24) :
    (s.readback c o wires).storeSide = s.storeSide := by
  have faulted := State.storeSide_of_frame (s.faulted_frame c o (o.mismatches wires))
  unfold State.readback
  split
  · rfl
  · rw [State.faultEntry_eq]
    split
    · exact (State.addReport_storeSide _ _ _ _).trans faulted
    · exact faulted

@[simp] theorem State.handLevelChange_storeSide (s : State) (c : Nat) : (s.handLevelChange c).storeSide = s.storeSide := by
  unfold State.handLevelChange
  dsimp only
  split <;> rfl

@[simp] theorem State.sampleInput_storeSide (s : State) (c : Nat) (i : Input) (l : PinLevel) :
    (s.sampleInput c i l).storeSide = s.storeSide := by
  unfold State.sampleInput
  dsimp only
  split
  · rfl
  split
  · rfl
  split
  · exact State.handLevelChange_storeSide _ c
  · exact State.handLevelChange_storeSide _ c

theorem State.visitTrigger_storeSide (x : Edge) (s : State) (k : Nat) : (s.visitTrigger x k).storeSide = s.storeSide := by
  unfold State.visitTrigger
  split
  · rfl
  · split <;> rfl

theorem State.copyTemplate_storeSide (t : Nat) (s : State) (e : Entry) : (s.copyTemplate t e).storeSide = s.storeSide := by
  unfold State.copyTemplate
  split
  · rfl
  · exact s.addReport_storeSide _ _ _

@[simp] theorem State.takeFireRequest_storeSide (s : State) (f : FireReq) :
    (s.takeFireRequest f).storeSide = s.storeSide := by
  unfold State.takeFireRequest
  dsimp only
  split
  · exact (State.addReport_storeSide _ _ _ _).trans
      (State.foldl_storeSide (f := State.convertTemplate f.t) (fun _ _ => rfl) _ s)
  · exact (State.addReport_storeSide _ _ _ _).trans (State.foldl_storeSide (State.copyTemplate_storeSide f.t) _ s)

/-! ### Sessions and Stop Control -/

@[simp] theorem State.returnSession_storeSide (s : State) (n : Nat) (h : HostSession) :
    (s.returnSession n h).storeSide = s.storeSide := by
  unfold State.returnSession
  extract_lets held s1 s2 s3
  have released : s2.storeSide = s1.storeSide := State.foldl_storeSide (fun t c => t.setHeld_storeSide c false) held s1
  have noticed : s3.storeSide = s.storeSide :=
    (s2.addReport_storeSide _ _ _).trans (released.trans (s.setSession_storeSide _ _))
  split
  · exact noticed
  · exact (s3.dispose_frame _).storeSide.trans noticed

@[simp] theorem State.arrive_storeSide (s : State) (n : Nat) (h : HostSession) : (s.arrive n h).storeSide = s.storeSide := by
  unfold State.arrive
  split
  · exact s.setSession_storeSide _ _
  · exact s.returnSession_storeSide n h

@[simp] theorem State.noteReply_storeSide (s : State) (n seq : Nat) (r : Frame) (cached : Bool) :
    (s.noteReply n seq r cached).storeSide = s.storeSide := by
  unfold State.noteReply
  split
  · exact s.setSession_storeSide _ _
  · rfl

/-- The operation of an ended session goes on for none (R131, step 7). -/
@[simp] theorem State.teardown_storeSide (s : State) (n : Nat) : (s.teardown n).storeSide = s.storeSide := by
  obtain ⟨ch, ps, -, result⟩ := s.teardown_eq n
  rw [result, State.setSession_storeSide, State.setReportQueue_storeSide]
  unfold State.storeSide
  rw [StoreOp.disown_withSession]
  rfl

@[simp] theorem State.takeOver_storeSide (s : State) (n : Nat) : (s.takeOver n).storeSide = s.storeSide := by
  unfold State.takeOver
  extract_lets s1
  rw [State.setSession_storeSide, State.setReportQueue_storeSide]
  rfl

@[simp] theorem State.lapse_storeSide (s : State) (n : Nat) (h : HostSession) : (s.lapse n h).storeSide = s.storeSide := by
  unfold State.lapse
  extract_lets s1 owned
  have lapsed : s1.storeSide = s.storeSide := s.setSession_storeSide _ _
  have driven : (owned.foldl State.driveSafe s1).storeSide = s1.storeSide :=
    State.storeSide_of_frame (State.foldl_driveSafe_frame owned s1)
  exact (State.foldl_storeSide (fun t c => t.setHeld_storeSide c true) owned _).trans (driven.trans lapsed)

@[simp] theorem State.forceClaim_storeSide (s : State) (c m n : Nat) : (s.forceClaim c m n).storeSide = s.storeSide := by
  obtain ⟨q, r, cancelled, -⟩ := State.foldl_cancelClaimed_frame (s.entriesOn m c) s
  unfold State.forceClaim
  dsimp only
  rw [cancelled, State.addReport_storeSide]
  rfl

theorem StopControl.addCause_level (c : StopControl) (byLine : Bool) : (c.addCause byLine).level = c.level := by
  unfold StopControl.addCause
  split <;> rfl

@[simp] theorem State.enterStopped_storeSide (s : State) (byLine : Bool) (n : Nat) (first : Option Nat) :
    (s.enterStopped byLine n first).storeSide = s.storeSide := by
  obtain ⟨ch, ps, r, entered, -⟩ := s.enterStopped_spec byLine n first
  rw [entered]
  exact congrArg (fun l => { s.storeSide with level := l }) (s.stop.addCause_level byLine)

@[simp] theorem State.addCause_storeSide (s : State) (byLine : Bool) (n : Nat) (first : Option Nat) :
    (s.addCause byLine n first).storeSide = s.storeSide := by
  obtain ⟨r, added, -⟩ := s.addCause_spec byLine n first
  rw [added]
  exact congrArg (fun l => { s.storeSide with level := l }) (s.stop.addCause_level byLine)

@[simp] theorem State.haltBy_storeSide (s : State) (n : Nat) : (s.haltBy n).storeSide = s.storeSide := by
  unfold State.haltBy
  split
  · exact s.enterStopped_storeSide _ _ _
  · split
    · rfl
    · exact s.addCause_storeSide _ _ _

@[simp] theorem State.resumeBy_storeSide (s : State) (n : Nat) : (s.resumeBy n).storeSide = s.storeSide := by
  obtain ⟨r, resumed, -⟩ := s.resumedBy_spec n
  rw [State.resumeBy_eq, (State.dispose_frame _ _).storeSide, resumed]
  rfl

@[simp] theorem State.lineChange_storeSide (s : State) (asserted : Bool) (first : Nat) :
    (s.lineChange asserted first).storeSide = s.storeSide := by
  unfold State.lineChange
  split
  · split
    · exact s.enterStopped_storeSide _ _ _
    · exact s.addCause_storeSide _ _ _
  · obtain ⟨r, reported⟩ := State.reportToAll_frame { s with stop := { s.stop with line := false } } s.now
      (State.stopReport { s with stop := { s.stop with line := false } } .causeRemoved true 0 (some first))
    exact (congrArg State.storeSide reported).trans rfl

/-! ### Loads -/

@[simp] theorem State.applyPlanRecord_storeSide (s : State) (target base : Nat) (x : PlanRecord) :
    (s.applyPlanRecord target base x).storeSide = s.storeSide := by
  cases x with
  | bind c spec =>
    refine (State.storeSide_of_frame (State.holdFor_frame _ c target)).trans (State.storeSide_of_frame ?_)
    split
    · exact s.bindForLoad_frame c target spec
    · exact s.rebindChannel_frame c target
  | interlock r =>
    unfold State.applyPlanRecord
    dsimp only
    split <;> rfl
  | trigger t spec => rfl
  | action form a => rfl
  | unreadable => rfl

theorem State.runPlan_storeSide {target base : Nat} {plan : List PlanRecord} :
    ∀ {index : Nat} {s t : State}, State.runPlan target base index plan s = .ok t → t.storeSide = s.storeSide := by
  induction plan with
  | nil =>
    rintro index s t ⟨⟩
    rfl
  | cons x xs ih =>
    intro index s t h
    unfold State.runPlan at h
    split at h
    · cases h
    · exact (ih h).trans (s.applyPlanRecord_storeSide target base x)

@[simp] theorem State.settleStartup_storeSide (s : State) (target : Nat) (outcome : StartupOutcome) (ends : Bool) :
    (s.settleStartup target outcome ends).storeSide = s.storeSide := by
  unfold State.settleStartup
  dsimp only
  split
  · split
    · exact State.teardown_storeSide _ 5
    · rfl
  · rfl

@[simp] theorem State.loadFor_storeSide (s : State) (k target : Nat) (start : LoadStart) (plan : List PlanRecord) :
    (s.loadFor k target start plan).storeSide = s.storeSide := by
  unfold State.loadFor
  dsimp only
  split
  · rename_i s1 ran
    rw [State.settleStartup_storeSide, State.addReport_storeSide, State.runPlan_storeSide ran]
  · rw [State.settleStartup_storeSide, State.addReport_storeSide]

/-- A failed content check writes its slot, and else nothing that the laws see (R177). -/
theorem State.loadCorrupt_storeSide (s : State) (k : Nat) (n : Option Nat) :
    (s.loadCorrupt k n).storeSide = (s.setSlot k (s.slot k).invalidated).storeSide := by
  unfold State.loadCorrupt
  dsimp only
  split
  · exact State.reportTo_storeSide _ _ _
  · rw [State.settleStartup_storeSide, State.reportTo_storeSide]

/-! ### Receiving -/

@[simp] theorem State.countError_storeSide (s : State) (p : Port) : (s.countError p).storeSide = s.storeSide :=
  s.setLink_storeSide_same p _ rfl

@[simp] theorem State.receive_storeSide (s : State) (p : Port) (f : Frame) : (s.receive p f).storeSide = s.storeSide := by
  unfold State.receive
  dsimp only
  split <;> exact s.setLink_storeSide_same p _ rfl

@[simp] theorem State.discard_storeSide (s : State) : s.discard.storeSide = s.storeSide := s.countError_storeSide .a

@[simp] theorem State.gapTimeout_storeSide (s : State) : s.gapTimeout.storeSide = s.storeSide := by
  unfold State.gapTimeout
  split
  · exact s.discard_storeSide
  · rfl

theorem State.checkFrame_storeSide (s : State) (len : Nat) (kept : List Byte) :
    (s.checkFrame len kept).storeSide = s.storeSide := by
  unfold State.checkFrame
  split
  · exact s.receive_storeSide .a _
  · exact s.discard_storeSide

theorem State.judgeByte_storeSide (s : State) (b : RxByte) : (s.judgeByte b).storeSide = s.storeSide := by
  unfold State.judgeByte
  split
  · split <;> rfl
  · split
    · rfl
    · exact s.discard_storeSide
  · split
    · exact s.discard_storeSide
    split
    · exact s.checkFrame_storeSide _ _
    · rfl

theorem State.takeByte_storeSide (s : State) (b : RxByte) : (s.takeByte b).storeSide = s.storeSide :=
  (State.judgeByte_storeSide _ b).trans s.gapTimeout_storeSide

@[simp] theorem State.judgeWrite_storeSide (s : State) (bytes : List Byte) :
    (s.judgeWrite bytes).storeSide = s.storeSide := by
  unfold State.judgeWrite
  split
  · exact s.countError_storeSide .b
  · split
    · exact s.receive_storeSide .b _
    · exact s.countError_storeSide .b

end Sys2Proof.Machine
end

section
/-!
What a command can do to the side of the state that the laws of the Plan Store and of the resets see, and that it keeps
both laws: O60.
-/

namespace Sys2Proof.Machine

/-! ### The law of resets, move by move -/

section
variable {x : StoreSide}

/-- An operation may be in flight: STOP_N has qualified and no DEVICE_RESET is accepted (R116, R190). -/
def StoreSide.ready (x : StoreSide) : Prop := x.level ≠ .unknown ∧ x.accepted = none

theorem StoreSide.resetLaw.ready_of_busy (law : x.resetLaw) (busy : x.op ≠ .idle) : x.ready := by
  obtain ⟨unknown, accepted, -⟩ := law
  exact ⟨fun level => busy (unknown level).1, Option.not_isSome_iff_eq_none.1 fun some => busy (accepted some)⟩

/-- Slots are written and an operation begins, goes on or ends. -/
theorem StoreSide.resetLaw.withOp (law : x.resetLaw) {op : StoreOp} (can : op = .idle ∨ x.ready) (v : Vector Slot 8) :
    StoreSide.resetLaw { x with slots := v, op := op } := by
  obtain ⟨unknown, accepted, marked⟩ := law
  rcases can with rfl | ⟨known, noReset⟩
  · exact ⟨fun level => ⟨rfl, (unknown level).2⟩, fun _ => rfl, marked⟩
  · have never : ¬x.accepted.isSome = true := by simp [noReset]
    exact ⟨fun level => absurd level known, fun some => absurd some never, marked⟩

/-- Frames move on their way; a marked one that is new there is the reply to the accepted DEVICE_RESET. -/
theorem StoreSide.resetLaw.withFrames (law : x.resetLaw) {replies : Port → List OutFrame} {sendingA offered : Option OutFrame}
    (moved : ∀ f : OutFrame, f.resets = true →
      StoreSide.onWay { x with replies := replies, sendingA := sendingA, offered := offered } f →
      x.onWay f ∨ x.accepted.isSome = true) :
    StoreSide.resetLaw { x with replies := replies, sendingA := sendingA, offered := offered } := by
  obtain ⟨unknown, accepted, marked⟩ := law
  exact ⟨unknown, accepted, fun f resets onWay => (moved f resets onWay).elim (marked f resets) id⟩

theorem StoreSide.resetLaw.withLevel (law : x.resetLaw) {l : StopLevel} (known : l ≠ .unknown) :
    StoreSide.resetLaw { x with level := l } :=
  ⟨fun level => absurd level known, law.2⟩

end

/-! ### The law of the Plan Store, move by move -/

/-- Neither ERASING nor PROGRAMMING (R158). -/
def Slot.atRest (r : Slot) : Prop := r.state ≠ .erasing ∧ r.state ≠ .programming

/-- The slot that an operation writes (R165). -/
def StoreOp.written? : StoreOp → Option Nat
  | .idle => none
  | .reading _ _ _ => none
  | .commitErasing k _ _ => some k
  | .commitProgramming k _ _ => some k
  | .erasing k _ => some k

theorem StoreOp.withSession_written? (op : StoreOp) (m : Option Nat) : (op.withSession m).written? = op.written? := by
  cases op <;> rfl

theorem StoreOp.agreesWith.atRest {op : StoreOp} {k : Nat} {r : Slot} (h : op.agreesWith k r) (other : op.written? ≠ some k) :
    r.atRest := by
  cases op with
  | idle => exact h
  | reading j m start => exact ⟨h.1, h.2.1⟩
  | commitErasing j m image => exact ⟨fun e => other (congrArg some (h.1.1 e).symm), h.2⟩
  | commitProgramming j m image => exact ⟨h.2, fun e => other (congrArg some (h.1.1 e).symm)⟩
  | erasing j m => exact ⟨fun e => other (congrArg some (h.1.1 e).symm), h.2.1⟩

theorem Slot.atRest.agreesWith {r : Slot} (h : r.atRest) {op : StoreOp} {k : Nat} (other : op.slot? ≠ some k) :
    op.agreesWith k r := by
  obtain ⟨erasing, programming⟩ := h
  cases op with
  | idle => exact ⟨erasing, programming⟩
  | reading j m start => exact ⟨erasing, programming, fun e => absurd (congrArg some e.symm) other⟩
  | commitErasing j m image => exact ⟨iff_of_false erasing fun e => other (congrArg some e.symm), programming⟩
  | commitProgramming j m image => exact ⟨iff_of_false programming fun e => other (congrArg some e.symm), erasing⟩
  | erasing j m =>
    exact ⟨iff_of_false erasing fun e => other (congrArg some e.symm), programming,
      fun e => absurd (congrArg some e.symm) other⟩

section
variable {x : StoreSide}

/-- A slot is written, by the operation that writes it or by one that begins (R165). -/
theorem StoreSide.storeLaw.withSlot (law : x.storeLaw) {j : Nat} {r : Slot} {op : StoreOp}
    (written : ∀ i, x.op.written? = some i → i = j) (named : ∀ i, op.slot? = some i → i = j)
    (here : j < 8 → op.agreesWith j r ∧ r.lawful) :
    StoreSide.storeLaw { x with slots := tset x.slots j r, op := op } := by
  intro k lt
  by_cases same : j = k
  · subst same
    rw [show StoreSide.slot { x with slots := tset x.slots j r, op := op } j = r from tget_tset_same _ _ _ _ lt]
    exact here lt
  · rw [show StoreSide.slot { x with slots := tset x.slots j r, op := op } k = x.slot k from
      tget_tset_ne _ _ _ _ _ same]
    obtain ⟨agrees, lawful⟩ := law k lt
    exact ⟨(agrees.atRest fun e => same (written k e).symm).agreesWith fun e => same (named k e).symm, lawful⟩

/-- An operation that writes no slot ends, or one begins with its slot as it should be (R165). -/
theorem StoreSide.storeLaw.withOp (law : x.storeLaw) {op : StoreOp} (quiet : x.op.written? = none)
    (named : ∀ k, op.slot? = some k → (x.slot k).atRest → op.agreesWith k (x.slot k)) :
    StoreSide.storeLaw { x with op := op } := by
  intro k lt
  obtain ⟨agrees, lawful⟩ := law k lt
  have rest := agrees.atRest fun e => nomatch quiet.symm.trans e
  refine ⟨?_, lawful⟩
  by_cases e : op.slot? = some k
  · exact named k e rest
  · exact rest.agreesWith e

end

theorem Slot.lawful.generation_lt {r : Slot} (h : r.lawful) : r.generation < 4294967296 := by
  obtain ⟨-, -, -, generation⟩ := h
  exact generation

/-- A slot that is neither VALID nor EMPTY is lawful once it has no check (R159). -/
theorem Slot.lawful_of_state {r : Slot} (valid : r.state ≠ .valid) (empty : r.state ≠ .empty) (check : r.check = none)
    (generation : r.generation < 4294967296) : r.lawful :=
  ⟨fun e => absurd e valid, fun _ => check, fun e => absurd e empty, generation⟩

theorem Slot.invalidated_lawful {r : Slot} (h : r.lawful) : r.invalidated.lawful :=
  Slot.lawful_of_state nofun nofun rfl h.generation_lt

theorem Slot.committing_lawful {r : Slot} (h : r.lawful) (b : Build) : (r.committing b).lawful :=
  Slot.lawful_of_state nofun nofun rfl h.generation_lt

theorem Slot.erasing_lawful {r : Slot} (h : r.lawful) : r.erasing.lawful :=
  Slot.lawful_of_state nofun nofun rfl h.generation_lt

theorem Slot.committed_lawful (r : Slot) (bytes : List Byte) : (r.committed bytes).lawful :=
  ⟨fun _ => rfl, fun e => absurd rfl e, nofun, Nat.mod_lt _ (by decide)⟩

/-- The scan leaves a slot lawful and at rest (R174). -/
theorem Slot.scanned_lawful {r : Slot} (h : r.lawful) (found : List Byte) : (r.scanned found).lawful ∧ (r.scanned found).atRest := by
  obtain ⟨valid, check, empty, generation⟩ := h
  have invalid : r.invalidated.lawful := Slot.lawful_of_state nofun nofun rfl generation
  unfold Slot.scanned
  split
  · rename_i state
    exact ⟨⟨valid, check, empty, generation⟩, by simp [Slot.atRest, state]⟩
  · rename_i state
    exact ⟨⟨valid, check, empty, generation⟩, by simp [Slot.atRest, state]⟩
  · exact ⟨invalid, nofun, nofun⟩
  · exact ⟨invalid, nofun, nofun⟩
  · rename_i state
    split
    · rename_i matched
      exact ⟨⟨fun _ => matched, fun e => absurd state e, fun e => (nomatch state.symm.trans e), generation⟩,
        by simp [Slot.atRest, state]⟩
    · exact ⟨invalid, nofun, nofun⟩

end Sys2Proof.Machine
end

section
/-!
The rules of the requests, and what they do to the side of the state that the laws of the Plan Store and of the resets see:
only PLAN_COMMIT, PLAN_ERASE, PLAN_LOAD and DEVICE_RESET change it (R158, R165, R166, R168, R176, R190).
-/

namespace Sys2Proof.Machine

/-! ### Rules that leave the side as it is -/

/-- The answer leaves what the laws see as it is, and is no reply to an accepted DEVICE_RESET. -/
def State.answersQuietly (s : State) (act : State × Answer) : Prop :=
  act.1.storeSide = s.storeSide ∧ act.2.resets = false

/-- The rule answers so, whatever the session, the body and the state. -/
def Service.leavesStore (serve : Service) : Prop := ∀ n body (s : State), s.answersQuietly (serve n body s)

section
variable {s : State} {n : Nat} {key : Bool}

theorem State.answersQuietly_same (s : State) {a : Answer} (h : a.resets = false) : s.answersQuietly (s, a) := ⟨rfl, h⟩

theorem State.answersQuietly_of {s t : State} {a : Answer} (side : t.storeSide = s.storeSide) (plain : a.resets = false) :
    s.answersQuietly (t, a) := ⟨side, plain⟩

theorem asOperator_quiet {act : State × Answer} (h : s.answersQuietly act) : s.answersQuietly (asOperator s n act) := by
  unfold asOperator
  split
  · exact s.answersQuietly_same rfl
  · exact h

theorem asService_quiet {act : State × Answer} (h : s.answersQuietly act) : s.answersQuietly (asService s n key act) := by
  unfold asService
  split
  · exact h
  · exact s.answersQuietly_same rfl

theorem withBuild_quiet {act : Build → State × Answer} (h : ∀ b, s.answersQuietly (act b)) :
    s.answersQuietly (withBuild s n key act) := by
  unfold withBuild
  split
  · exact s.answersQuietly_same rfl
  split
  · exact s.answersQuietly_same rfl
  split
  · exact s.answersQuietly_same rfl
  split
  · exact s.answersQuietly_same rfl
  · exact h _

end

theorem emptyQuery_quiet (body : List Byte) (s : State) (fields : List Byte) :
    s.answersQuietly (emptyQuery body s fields) := by
  unfold emptyQuery
  split <;> exact s.answersQuietly_same rfl

theorem serveUnknown_leavesStore : Service.leavesStore serveUnknown := fun _ _ s => s.answersQuietly_same rfl

theorem serveOpen_quiet (p : Port) (key : Bool) (body : List Byte) (s : State) :
    s.answersQuietly (serveOpen p key body s) := by
  unfold serveOpen
  split
  · exact s.answersQuietly_same rfl
  split
  · exact s.answersQuietly_same rfl
  split
  · exact s.answersQuietly_same rfl
  split
  · exact s.answersQuietly_same rfl
  split
  · exact s.answersQuietly_same rfl
  · exact State.answersQuietly_of ((State.setReportQueue_storeSide _ _ _).trans (s.setSession_storeSide _ _)) rfl

theorem serveClose_leavesStore : Service.leavesStore serveClose := by
  intro n body s
  unfold serveClose
  split
  · exact State.answersQuietly_of (s.teardown_storeSide n) rfl
  · exact s.answersQuietly_same rfl

theorem serveTimeSet_leavesStore : Service.leavesStore serveTimeSet := by
  intro n body s
  refine asOperator_quiet ?_
  split <;> exact ⟨rfl, rfl⟩

theorem serveTimeTrim_leavesStore (key : Bool) : Service.leavesStore (serveTimeTrim key) := by
  intro n body s
  refine asService_quiet ?_
  split <;> exact ⟨rfl, rfl⟩

theorem serveBind_leavesStore : Service.leavesStore serveBind := by
  intro n body s
  refine asOperator_quiet ?_
  split
  · exact s.answersQuietly_same rfl
  split
  · exact s.answersQuietly_same rfl
  split
  · exact s.answersQuietly_same rfl
  · exact State.answersQuietly_of (State.storeSide_of_frame (s.bindChannel_frame _ n _)) rfl

theorem serveUnbind_leavesStore (key : Bool) : Service.leavesStore (serveUnbind key) := by
  intro n body s
  refine asOperator_quiet ?_
  repeat' split
  all_goals exact ⟨rfl, rfl⟩

theorem serveClearFault_leavesStore (key : Bool) : Service.leavesStore (serveClearFault key) := by
  intro n body s
  refine asOperator_quiet ?_
  repeat' split
  all_goals exact ⟨rfl, rfl⟩

theorem serveRequalify_leavesStore : Service.leavesStore serveRequalify := by
  intro n body s
  refine asOperator_quiet ?_
  repeat' split
  all_goals exact ⟨rfl, rfl⟩

theorem serveChannelQuery_leavesStore : Service.leavesStore serveChannelQuery := by
  intro n body s
  unfold serveChannelQuery
  split <;> exact ⟨rfl, rfl⟩

theorem serveSubscribers_quiet (change : List Nat → List Nat) (body : List Byte) (s : State) :
    s.answersQuietly (serveSubscribers change body s) := by
  unfold serveSubscribers
  repeat' split
  all_goals exact ⟨rfl, rfl⟩

theorem serveClaim_leavesStore (key : Bool) : Service.leavesStore (serveClaim key) := by
  intro n body s
  refine asOperator_quiet ?_
  split
  · exact s.answersQuietly_same rfl
  split
  · exact s.answersQuietly_same rfl
  split
  · exact s.answersQuietly_same rfl
  split
  · exact ⟨rfl, rfl⟩
  split
  · exact s.answersQuietly_same rfl
  split
  · exact State.answersQuietly_of (s.forceClaim_storeSide _ _ n) rfl
  · exact s.answersQuietly_same rfl

theorem serveRelease_leavesStore : Service.leavesStore serveRelease := by
  intro n body s
  refine asOperator_quiet ?_
  repeat' split
  all_goals exact ⟨rfl, rfl⟩

theorem serveTakeover_leavesStore : Service.leavesStore serveTakeover := by
  intro n body s
  refine asOperator_quiet ?_
  split
  · exact s.answersQuietly_same rfl
  split
  · exact s.answersQuietly_same rfl
  split
  · exact s.answersQuietly_same rfl
  split
  · exact s.answersQuietly_same rfl
  · exact State.answersQuietly_of (s.takeOver_storeSide n) rfl

theorem serveActionAdd_leavesStore : Service.leavesStore serveActionAdd := by
  intro n body s
  refine asOperator_quiet ?_
  repeat' split
  all_goals exact ⟨rfl, rfl⟩

theorem serveActionCancel_leavesStore (key : Bool) : Service.leavesStore (serveActionCancel key) := by
  intro n body s
  refine asOperator_quiet ?_
  repeat' split
  all_goals exact ⟨rfl, rfl⟩

theorem serveGroupCancel_leavesStore : Service.leavesStore serveGroupCancel := by
  intro n body s
  refine asOperator_quiet ?_
  split <;> exact ⟨rfl, rfl⟩

theorem serveQueueQuery_leavesStore : Service.leavesStore serveQueueQuery := by
  intro n body s
  unfold serveQueueQuery
  split <;> exact ⟨rfl, rfl⟩

theorem serveInterlockSet_leavesStore (key : Bool) : Service.leavesStore (serveInterlockSet key) := by
  intro n body s
  refine asOperator_quiet ?_
  repeat' split
  all_goals exact ⟨rfl, rfl⟩

theorem serveInterlockClear_leavesStore (key : Bool) : Service.leavesStore (serveInterlockClear key) := by
  intro n body s
  refine asService_quiet ?_
  split <;> exact ⟨rfl, rfl⟩

theorem serveTriggerSet_leavesStore : Service.leavesStore serveTriggerSet := by
  intro n body s
  refine asOperator_quiet ?_
  repeat' split
  all_goals exact ⟨rfl, rfl⟩

theorem serveTriggerClear_leavesStore (key : Bool) : Service.leavesStore (serveTriggerClear key) := by
  intro n body s
  refine asOperator_quiet ?_
  repeat' split
  all_goals exact ⟨rfl, rfl⟩

theorem serveTriggerQuery_leavesStore : Service.leavesStore serveTriggerQuery := by
  intro n body s
  unfold serveTriggerQuery
  split <;> exact ⟨rfl, rfl⟩

theorem serveHalt_leavesStore : Service.leavesStore serveHalt := by
  intro n body s
  unfold serveHalt
  split
  · exact State.answersQuietly_of (s.haltBy_storeSide n) rfl
  · exact s.answersQuietly_same rfl

theorem serveResume_leavesStore : Service.leavesStore serveResume := by
  intro n body s
  refine asOperator_quiet ?_
  split
  · exact s.answersQuietly_same rfl
  split
  · exact s.answersQuietly_same rfl
  split
  · exact s.answersQuietly_same rfl
  · exact State.answersQuietly_of (s.resumeBy_storeSide n) rfl

theorem serveReportAck_leavesStore : Service.leavesStore serveReportAck := by
  intro n body s
  unfold serveReportAck
  split
  · exact s.answersQuietly_same rfl
  dsimp only
  split
  · exact State.answersQuietly_of (s.setReportQueue_storeSide n _) rfl
  split <;> exact ⟨rfl, rfl⟩

theorem serveReportResend_leavesStore : Service.leavesStore serveReportResend := by
  intro n body s
  unfold serveReportResend
  split
  · exact State.answersQuietly_of (s.setReportQueue_storeSide n _) rfl
  · exact s.answersQuietly_same rfl

theorem servePlanBegin_leavesStore (key : Bool) : Service.leavesStore (servePlanBegin key) := by
  intro n body s
  refine asService_quiet ?_
  repeat' split
  all_goals exact ⟨rfl, rfl⟩

theorem servePlanPut_leavesStore (key : Bool) : Service.leavesStore (servePlanPut key) := by
  intro n body s
  refine withBuild_quiet fun b => ?_
  repeat' split
  all_goals exact ⟨rfl, rfl⟩

theorem servePlanAbandon_leavesStore (key : Bool) : Service.leavesStore (servePlanAbandon key) := by
  intro n body s
  refine withBuild_quiet fun b => ?_
  split <;> exact ⟨rfl, rfl⟩

/-! ### Rules that begin an operation or a reset -/

/-- The answer to a request loses neither law, and is marked as the reply to an accepted DEVICE_RESET only then. -/
structure State.storeKept (s : State) (act : State × Answer) : Prop where
  resets : s.storeSide.resetLaw → act.1.storeSide.resetLaw
  store : s.storeSide.storeLaw → act.1.storeSide.storeLaw
  marked : act.2.resets = true → act.1.deviceReset.isSome = true

/-- The rule answers so once STOP_N has qualified and while no DEVICE_RESET is accepted, as the handler asks (R186). -/
def Service.keepsStore (serve : Service) : Prop :=
  ∀ n body (s : State), s.storeSide.ready → s.storeKept (serve n body s)

theorem State.answersQuietly.kept {s : State} {act : State × Answer} (h : s.answersQuietly act) : s.storeKept act := by
  obtain ⟨side, plain⟩ := h
  exact ⟨by rw [side]; exact id, by rw [side]; exact id, fun e => nomatch plain.symm.trans e⟩

theorem Service.leavesStore.keepsStore {serve : Service} (h : serve.leavesStore) : serve.keepsStore :=
  fun n body s _ => (h n body s).kept

/-- A request that its rule refuses. -/
theorem State.storeKept_refuse (s : State) (r : Result) : s.storeKept (s, refuse r) := (s.answersQuietly_same rfl).kept

theorem State.not_storeBusy {s : State} (h : ¬s.storeBusy = true) : s.store = .idle := by
  simpa [State.storeBusy] using h

theorem State.storeSide_idle {s : State} (h : s.store = .idle) : s.storeSide.op = .idle := StoreOp.withSession_eq_idle.2 h

theorem State.writeRefusal_idle {s : State} {k : Nat} {prot : Bool} (h : s.writeRefusal k prot = none) : s.store = .idle := by
  unfold State.writeRefusal at h
  split at h
  · cases h
  · rename_i free
    exact State.not_storeBusy free

/-- An operation that writes slot `k` begins in an idle store: the slot is ERASING without a check. -/
theorem State.storeKept_begun {s t : State} {a : Answer} {k : Nat} {r : Slot} {op : StoreOp} (ready : s.storeSide.ready)
    (idle : s.store = .idle) (side : t.storeSide = { s.storeSide with slots := tset s.slots k r, op := op })
    (named : ∀ i, op.slot? = some i → i = k) (phase : op.agreesWith k r) (lawful : (s.slot k).lawful → r.lawful)
    (plain : a.resets = false) : s.storeKept (t, a) where
  resets law := side ▸ law.withOp (.inr ready) _
  store law := by
    have quiet : s.storeSide.op.written? = none := by rw [State.storeSide_idle idle]; rfl
    rw [side]
    exact law.withSlot (fun i e => nomatch quiet.symm.trans e) named fun lt => ⟨phase, lawful (law k lt).2⟩
  marked e := nomatch plain.symm.trans e

theorem asService_kept {s : State} {n : Nat} {key : Bool} {act : State × Answer} (h : s.storeKept act) :
    s.storeKept (asService s n key act) := by
  unfold asService
  split
  · exact h
  · exact s.storeKept_refuse _

theorem withBuild_kept {s : State} {n : Nat} {key : Bool} {act : Build → State × Answer} (h : ∀ b, s.storeKept (act b)) :
    s.storeKept (withBuild s n key act) := by
  unfold withBuild
  split
  · exact s.storeKept_refuse _
  split
  · exact s.storeKept_refuse _
  split
  · exact s.storeKept_refuse _
  split
  · exact s.storeKept_refuse _
  · exact h _

theorem servePlanCommit_keepsStore (key prot : Bool) : Service.keepsStore (servePlanCommit key prot) := by
  intro n body s ready
  refine withBuild_kept fun b => ?_
  split
  · exact s.storeKept_refuse _
  split
  · exact s.storeKept_refuse _
  · rename_i accepted
    refine State.storeKept_begun ready (State.writeRefusal_idle accepted) rfl (k := b.slot) ?_
      ⟨iff_of_true rfl rfl, nofun⟩ (fun law => Slot.committing_lawful law b) rfl
    rintro _ ⟨⟩
    rfl

theorem servePlanErase_keepsStore (key prot : Bool) : Service.keepsStore (servePlanErase key prot) := by
  intro n body s ready
  refine asService_kept ?_
  split
  · exact s.storeKept_refuse _
  split
  · exact s.storeKept_refuse _
  · rename_i k _ _ accepted
    refine State.storeKept_begun ready (State.writeRefusal_idle accepted) rfl (k := k) ?_
      ⟨iff_of_true rfl rfl, nofun, fun _ => ⟨rfl, rfl, rfl⟩⟩ Slot.erasing_lawful rfl
    rintro _ ⟨⟩
    rfl

/-- A read of a VALID slot begins in an idle store (R176, R181). -/
theorem StoreSide.storeLaw.reading {x : StoreSide} (law : x.storeLaw) (idle : x.op = .idle) {k : Nat}
    (valid : (x.slot k).state = .valid) (m : Option Nat) (start : LoadStart) :
    StoreSide.storeLaw { x with op := .reading k m start } := by
  refine law.withOp (by rw [idle]; rfl) ?_
  rintro _ ⟨⟩ ⟨erasing, programming⟩
  exact ⟨erasing, programming, fun _ => valid⟩

theorem servePlanLoad_keepsStore : Service.keepsStore servePlanLoad := by
  intro n body s ready
  unfold servePlanLoad asOperator
  split
  · exact s.storeKept_refuse _
  split
  · exact s.storeKept_refuse _
  split
  · exact s.storeKept_refuse _
  split
  · exact s.storeKept_refuse _
  · rename_i k start _ free state
    have idle := State.storeSide_idle (State.not_storeBusy free)
    exact ⟨fun law => law.withOp (.inr ready) _, fun law => law.reading idle (not_not.1 state) none start, nofun⟩

/-- DEVICE_RESET is accepted in an idle store, and its reply alone is marked (R190). -/
theorem serveDeviceReset_keepsStore (p : Port) (key : Bool) : Service.keepsStore (serveDeviceReset p key) := by
  rintro n body s ⟨known, -⟩
  refine asService_kept ?_
  split
  · exact s.storeKept_refuse _
  split
  · exact s.storeKept_refuse _
  · rename_i free
    have idle := State.storeSide_idle (State.not_storeBusy free)
    exact ⟨fun _ => ⟨fun level => absurd level known, fun _ => idle, fun _ _ _ => rfl⟩, id, fun _ => rfl⟩

end Sys2Proof.Machine
end

section
/-!
Every command keeps the laws of the Plan Store and of the resets: O60.
-/

namespace Sys2Proof.Machine

/-! ### Sides that keep both laws -/

/-- From `x` to `y` neither law is lost; where the one of the Plan Store needs the other, it has it. -/
def StoreSide.keeps (x y : StoreSide) : Prop := x.resetLaw → y.resetLaw ∧ (x.storeLaw → y.storeLaw)

theorem StoreSide.keeps_of_eq {x y : StoreSide} (h : y = x) : x.keeps y := by
  rw [h]
  exact fun law => ⟨law, id⟩

theorem StoreSide.keeps.trans {x y z : StoreSide} (h : x.keeps y) (k : y.keeps z) : x.keeps z := fun law =>
  have ⟨law1, store1⟩ := h law
  have ⟨law2, store2⟩ := k law1
  ⟨law2, store2 ∘ store1⟩

theorem mem_update {r : Port → List OutFrame} {p q : Port} {l : List OutFrame} {f : OutFrame}
    (h : f ∈ Function.update r p l q) : f ∈ l ∨ f ∈ r q := by
  rw [Function.update_apply] at h
  split at h
  · exact .inl h
  · exact .inr h

/-- A reply joins those of its port; only the reply to an accepted DEVICE_RESET is marked. -/
theorem State.keeps_placeReply {s t : State} (side : t.storeSide = s.storeSide) (p : Port) (r : Frame) {resets : Bool}
    (marked : resets = true → s.storeSide.accepted.isSome = true) :
    s.storeSide.keeps (t.placeReply p r resets).storeSide := by
  unfold State.placeReply
  rw [State.setLink_storeSide, side]
  refine fun law => ⟨law.withFrames fun f isMarked onWay => ?_, id⟩
  rcases onWay with ⟨q, h⟩ | h
  · rcases mem_update h with h | h
    · rcases List.mem_append.1 h with h | h
      · exact .inl (.inl ⟨p, side ▸ h⟩)
      · obtain rfl := List.mem_singleton.1 h
        exact .inr (marked isMarked)
    · exact .inl (.inl ⟨q, h⟩)
  · exact .inl (.inr h)

/-! ### Requests -/

section
variable (s : State) (p : Port) (f : Frame) (code : Byte) {serve : Service}

theorem State.keeps_routeFrame (ready : s.storeSide.ready) (h : serve.keepsStore) :
    s.storeSide.keeps (s.routeFrame p f serve).storeSide := by
  unfold State.routeFrame
  split
  · rename_i x _
    have arrived := s.arrive_storeSide f.ses.toNat x
    unfold State.frameForSession
    dsimp only
    split
    · have ⟨resets, store, marked⟩ := h f.ses.toNat f.body (s.arrive f.ses.toNat x) (arrived ▸ ready)
      rw [arrived] at resets store
      exact StoreSide.keeps.trans (fun law => ⟨resets law, store⟩)
        (State.keeps_placeReply (State.noteReply_storeSide _ _ _ _ _) p _ marked)
    · split
      · split <;> exact State.keeps_placeReply arrived p _ nofun
      · exact State.keeps_placeReply arrived p _ nofun
  · exact State.keeps_placeReply rfl p _ nofun

variable {s p f}

/-- A frame is taken only once STOP_N has qualified and while no DEVICE_RESET is accepted (R116, R186). -/
theorem State.takeFrame_ready {s1 : State} {sel : Byte → Bool} (stop : s.stop.lawful)
    (taken : s.takeFrame p sel = some (f, s1)) : s1.storeSide = s.storeSide ∧ s.storeSide.ready := by
  obtain ⟨rest, can, -, rfl⟩ := State.takeFrame_eq_some taken
  simp only [State.canTake, Bool.and_eq_true, Option.isNone_iff_eq_none] at can
  obtain ⟨⟨gate, noReset⟩, -⟩ := can
  obtain ⟨-, -, -, opened, -⟩ := stop
  exact ⟨s.setLink_storeSide_same p _ rfl, opened.1 gate, noReset⟩

variable (s p)

theorem State.keeps_takeRequest (stop : s.stop.lawful) (h : serve.keepsStore) :
    s.storeSide.keeps (s.takeRequest p code serve).storeSide := by
  unfold State.takeRequest
  split
  · exact StoreSide.keeps_of_eq rfl
  · rename_i f s1 taken
    obtain ⟨side, ready⟩ := State.takeFrame_ready stop taken
    exact side ▸ s1.keeps_routeFrame p f (side ▸ ready) h

theorem State.keeps_takeSessionless (stop : s.stop.lawful) {bare : List Byte → State → State × Answer}
    (hb : ∀ body (t : State), t.answersQuietly (bare body t)) (h : serve.leavesStore) :
    s.storeSide.keeps (s.takeSessionless p code bare serve).storeSide := by
  unfold State.takeSessionless
  split
  · exact StoreSide.keeps_of_eq rfl
  · rename_i f s1 taken
    obtain ⟨side, ready⟩ := State.takeFrame_ready stop taken
    rw [← side]
    split
    · obtain ⟨same, -⟩ := hb f.body s1
      exact State.keeps_placeReply same p _ nofun
    · exact s1.keeps_routeFrame p f (side ▸ ready) h.keepsStore

end

/-! ### The storage array, the supply and the loads -/

/-- An operation ends with slot `k` written, which is at rest from then on, and no other slot was its own to write (R167,
R168, R172, R177). -/
theorem State.keeps_written {s t : State} {k : Nat} {r : Slot} (written : ∀ i, s.store.written? = some i → i = k)
    (side : t.storeSide = { s.storeSide with slots := tset s.slots k r, op := .idle })
    (lawful : s.storeAgrees k → (s.slot k).lawful → r.lawful) (rest : r.atRest) : s.storeSide.keeps t.storeSide := by
  rw [side]
  refine fun law => ⟨law.withOp (.inl rfl) _, fun store => store.withSlot (fun i e => ?_) nofun fun lt => ⟨rest, ?_⟩⟩
  · exact written i ((s.store.withSession_written? none).symm.trans e)
  · obtain ⟨agrees, slot⟩ := s.storeLawful_iff.2 store k lt
    exact lawful agrees slot

/-- The operation's own end: its slot is written, the store is IDLE, and the requester learns of it. -/
theorem State.keeps_storeEnd {s : State} {k : Nat} {r : Slot} (written : s.store.written? = some k)
    (lawful : s.storeAgrees k → (s.slot k).lawful → r.lawful) (rest : r.atRest) (n : Option Nat) (body : ReportBody) :
    s.storeSide.keeps (({ s.setSlot k r with store := .idle }).reportTo n body).storeSide :=
  State.keeps_written (fun _ e => Option.some.inj (e.symm.trans written)) (State.reportTo_storeSide _ n body) lawful rest

/-- Whatever next state the command ends in, neither law is lost. -/
def State.endsStored (s : State) (o : Host.Outcome State Fault Refusal) : Prop :=
  ∀ t, o = .next t → s.storeSide.keeps t.storeSide

theorem State.endsStored_next {s t : State} (h : s.storeSide.keeps t.storeSide) : s.endsStored (.next t) := by
  rintro _ ⟨⟩
  exact h

theorem State.endsStored_same {s t : State} (h : t.storeSide = s.storeSide) : s.endsStored (.next t) :=
  State.endsStored_next (StoreSide.keeps_of_eq h)

theorem State.endsStored_idle (s : State) : s.endsStored (.next s) := State.endsStored_same rfl

theorem execErasePhaseEnd_stored (s : State) : s.endsStored (execErasePhaseEnd s) := by
  unfold execErasePhaseEnd
  split
  · rename_i k n image store
    have busy : s.storeSide.op = .commitErasing k none image := congrArg (StoreOp.withSession · none) store
    refine State.endsStored_next fun law => ⟨law.withOp (.inr (law.ready_of_busy (by rw [busy]; nofun))) _,
      fun slots => slots.withSlot (fun i e => ?_) (fun i e => ?_) fun lt => ⟨⟨iff_of_true rfl rfl, nofun⟩, ?_⟩⟩
    · rw [busy] at e
      exact (Option.some.inj e).symm
    · exact (Option.some.inj e).symm
    · obtain ⟨agrees, valid, noCheck, empty, generation⟩ := slots k lt
      rw [busy] at agrees
      have erasing : (s.slot k).state = .erasing := agrees.1.2 rfl
      exact Slot.lawful_of_state nofun nofun (noCheck fun e => nomatch erasing.symm.trans e) generation
  · exact s.endsStored_idle

theorem State.keeps_endProgramming {s : State} {k : Nat} (written : s.store.written? = some k) (n : Option Nat)
    (image bytes : List Byte) : s.storeSide.keeps (s.endProgramming k n image bytes).storeSide := by
  unfold State.endProgramming
  split
  · exact State.keeps_storeEnd written (fun _ _ => Slot.committed_lawful _ _) ⟨nofun, nofun⟩ _ _
  · exact State.keeps_storeEnd written (fun _ => Slot.invalidated_lawful) ⟨nofun, nofun⟩ _ _

theorem execProgrammingPhaseEnd_stored (readBack : Option (List Byte)) (s : State) :
    s.endsStored (execProgrammingPhaseEnd readBack s) := by
  unfold execProgrammingPhaseEnd
  split
  · rename_i k n image store
    exact State.endsStored_next (State.keeps_endProgramming (congrArg StoreOp.written? store) n image _)
  · exact s.endsStored_idle

/-- An erased slot has no check, no name, no size and no autostart, as the erase left it (R168). -/
theorem execEraseEnd_stored (s : State) : s.endsStored (execEraseEnd s) := by
  unfold execEraseEnd
  split
  · rename_i k n store
    refine State.endsStored_next (State.keeps_storeEnd (r := { s.slot k with state := .empty })
      (congrArg StoreOp.written? store) (fun agrees slot => ?_) ⟨nofun, nofun⟩ _ _)
    unfold State.storeAgrees at agrees
    rw [store] at agrees
    obtain ⟨phase, -, cleared⟩ := agrees
    obtain ⟨-, noCheck, -, generation⟩ := slot
    have erasing : (s.slot k).state = .erasing := phase.2 rfl
    exact ⟨nofun, fun _ => noCheck fun e => (nomatch erasing.symm.trans e), fun _ => cleared rfl, generation⟩
  · exact s.endsStored_idle

theorem State.keeps_abortWrite {s : State} {k : Nat} (written : s.store.written? = some k) (n : Option Nat) (erase : Bool) :
    s.storeSide.keeps (s.abortWrite k n erase).storeSide :=
  State.keeps_storeEnd written (fun _ => Slot.invalidated_lawful) ⟨nofun, nofun⟩ _ _

theorem execSupplyChange_stored (level : SupplyLevel) (s : State) : s.endsStored (execSupplyChange level s) := by
  unfold execSupplyChange
  split
  · exact s.endsStored_idle
  · extract_lets s1
    have side : s1.storeSide = s.storeSide := rfl
    refine State.endsStored_next (side ▸ ?_)
    split
    · unfold State.abortByLow
      split
      · exact StoreSide.keeps_of_eq rfl
      · exact StoreSide.keeps_of_eq rfl
      all_goals
        rename_i store
        exact State.keeps_abortWrite (congrArg StoreOp.written? store) _ _
    · exact StoreSide.keeps_of_eq rfl

/-- The end of a read leaves the slot as it was, or INVALID (R177). -/
theorem execReadCompletion_stored (bytesRead : Option (List Byte)) (s : State) :
    s.endsStored (execReadCompletion bytesRead s) := by
  unfold execReadCompletion
  split
  · rename_i k n start store
    have quiet : s.store.written? = none := congrArg StoreOp.written? store
    have ended : s.storeSide.keeps { s.storeSide with op := .idle } := fun law =>
      ⟨law.withOp (.inl rfl) s.slots, fun slots =>
        slots.withOp ((s.store.withSession_written? none).trans quiet) nofun⟩
    refine State.endsStored_next ?_
    unfold State.completeRead
    extract_lets s1
    split
    · exact State.keeps_written (r := (s.slot k).invalidated) (fun i e => nomatch quiet.symm.trans e)
        (State.loadCorrupt_storeSide s1 k n) (fun _ => Slot.invalidated_lawful) ⟨nofun, nofun⟩
    · split
      · exact ended
      · rw [State.loadFor_storeSide]
        exact ended
  · exact s.endsStored_idle

/-! ### STOP_N and the startup load -/

theorem State.beginStartup_storeSide (s : State) : s.beginStartup.storeSide = s.storeSide ∨
    (s.slot 0).state = .valid ∧ s.beginStartup.storeSide = { s.storeSide with op := .reading 0 none .now } := by
  unfold State.beginStartup
  split
  · rename_i autostart
    have created : ((s.setSession 5 .localSession).setReportQueue 5 ReportQueue.fresh).storeSide = s.storeSide :=
      (State.setReportQueue_storeSide _ _ _).trans (s.setSession_storeSide _ _)
    exact .inr ⟨autostart.1, congrArg (fun x => { x with op := .reading 0 none .now }) created⟩
  · exact .inl rfl

/-- A level qualifies; after a reset the store is idle, so that the startup load may begin (R116, R181). -/
theorem State.keeps_qualifyStop (s : State) (k : StopCandidate) : s.storeSide.keeps (s.qualifyStop k).storeSide := by
  unfold State.qualifyStop
  extract_lets firstTime stop s1 s2
  have known := StopLevel.ofSample_ne_unknown k.asserted
  have side : s2.storeSide = { s.storeSide with level := .ofSample k.asserted } := by
    unfold s2
    split
    · rfl
    · exact s1.lineChange_storeSide _ _
  have leveled : s.storeSide.keeps s2.storeSide := fun law => side ▸ ⟨law.withLevel known, id⟩
  split
  · rename_i first
    rcases s2.beginStartup_storeSide with same | ⟨valid, begun⟩
    · rw [same]
      exact leveled
    · rw [begun]
      intro law
      have ⟨unknown, _⟩ := law
      obtain ⟨idle, noReset⟩ := unknown first
      obtain ⟨law2, store2⟩ := leveled law
      have idle2 : s2.storeSide.op = .idle := side ▸ idle
      have ready : s2.storeSide.ready := by
        rw [side]
        exact ⟨known, noReset⟩
      exact ⟨law2.withOp (.inr ready) s2.slots, fun store => (store2 store).reading idle2 valid none .now⟩
  · exact leveled

theorem execStopNSample_stored (asserted : Bool) (s : State) : s.endsStored (execStopNSample asserted s) := by
  unfold execStopNSample
  split
  · refine State.endsStored_next ?_
    unfold State.sampleStop
    extract_lets stop s1
    have noted : s1.storeSide = s.storeSide := rfl
    split
    · exact StoreSide.keeps_of_eq rfl
    · split
      · exact StoreSide.keeps_of_eq rfl
      · rw [← noted]
        exact s1.keeps_qualifyStop _
  · exact s.endsStored_idle

/-! ### Transmitting and resets -/

/-- What a transmitter chooses leaves the replies, and is a marked reply only where one waited (R187, R190). -/
theorem State.choose_storeSide {s s1 : State} {p : Port} {f : OutFrame} (h : s.choose p = some (f, s1)) :
    ∃ r, s1.storeSide = { s.storeSide with replies := r } ∧ (∀ q g, g ∈ r q → g ∈ s.storeSide.replies q) ∧
      (f.resets = true → f ∈ s.storeSide.replies p) := by
  unfold State.choose at h
  split at h
  · rename_i x rest waiting
    cases h
    have here : s.storeSide.replies p = f :: rest := waiting
    refine ⟨_, s.setLink_storeSide p _, fun q g hg => ?_, fun _ => here ▸ List.mem_cons_self ..⟩
    rw [Function.update_apply] at hg
    split at hg
    · rename_i same
      exact same ▸ here ▸ List.mem_cons_of_mem _ hg
    · exact hg
  split at h
  · cases h
  split at h
  · cases h
  unfold State.handOver at h
  dsimp only at h
  split at h
  · cases h
  · cases h
    exact ⟨s.storeSide.replies, (State.setLink_storeSide_same _ p _ (by simp)).trans (s.setReportQueue_storeSide _ _),
      fun _ _ hg => hg, nofun⟩

theorem execPortATransmit_stored (s : State) : s.endsStored (execPortATransmit s) := by
  unfold execPortATransmit
  split
  · exact s.endsStored_idle
  split
  · exact s.endsStored_idle
  · rename_i f s1 chosen
    obtain ⟨r, side, fewer, marked⟩ := State.choose_storeSide chosen
    have sent : ({ s1 with sendingA := some f } : State).storeSide =
        { s.storeSide with replies := r, sendingA := some f } :=
      congrArg (fun x => { x with sendingA := some f }) side
    refine State.endsStored_next fun law => sent ▸ ⟨law.withFrames fun g isMarked onWay => .inl ?_, id⟩
    rcases onWay with ⟨q, hg⟩ | hg | hg
    · exact .inl ⟨q, fewer q g hg⟩
    · cases hg
      exact .inl ⟨.a, marked isMarked⟩
    · exact .inr (.inr hg)

theorem execRead_stored (s : State) : s.endsStored (execRead s) := by
  unfold execRead
  split
  · exact s.endsStored_idle
  split
  · rename_i f s1 offer
    refine State.endsStored_next ?_
    unfold State.offer at offer
    split at offer
    · cases offer
      exact StoreSide.keeps_of_eq rfl
    · obtain ⟨⟨f, s2⟩, chosen, e⟩ := Option.map_eq_some_iff.1 offer
      cases e
      obtain ⟨r, side, fewer, marked⟩ := State.choose_storeSide chosen
      have sent : ({ s2 with offered := some f } : State).storeSide =
          { s.storeSide with replies := r, offered := some f } :=
        congrArg (fun x => { x with offered := some f }) side
      refine fun law => (show StoreSide.resetLaw _ ∧ _ from sent ▸ ⟨law.withFrames fun g isMarked onWay => .inl ?_, id⟩)
      rcases onWay with ⟨q, hg⟩ | hg | hg
      · exact .inl ⟨q, fewer q g hg⟩
      · exact .inr (.inl hg)
      · cases hg
        exact .inl ⟨.b, marked isMarked⟩
  · exact State.endsStored_same rfl

/-- A soft reset finds the store idle: only an accepted DEVICE_RESET brings one (R190). -/
theorem State.keeps_softReset {s u : State} (accepted : s.storeSide.resetLaw → s.deviceReset.isSome = true)
    (slots : u.slots = s.slots) (store : u.store = s.store) : s.storeSide.keeps u.softReset.storeSide := by
  intro law
  have idle : u.store = .idle := store.trans (StoreOp.withSession_eq_idle.1 (law.2.1 (accepted law)))
  refine ⟨⟨fun _ => ⟨State.storeSide_idle idle, rfl⟩, nofun, fun f marked onWay => ?_⟩, fun kept k lt => ?_⟩
  · rcases onWay with ⟨q, h⟩ | h | h
    · cases q <;> cases h
    · obtain ⟨g, -, rfl⟩ := Option.map_eq_some_iff.1 h
      cases marked
    · cases h
  · have slot : u.softReset.storeSide.slot k = s.storeSide.slot k := congrArg (tget · k Slot.factory) slots
    have op : u.softReset.storeSide.op = s.storeSide.op := congrArg (StoreOp.withSession · none) store
    rw [slot, op]
    exact kept k lt

/-- A frame has gone out: the soft reset comes with the marked one (R190). -/
theorem State.keeps_transmitted {s u : State} {f : OutFrame} (onWay : s.storeSide.onWay f)
    (left : u.storeSide = { s.storeSide with sendingA := u.sendingA, offered := u.offered }) (store : u.store = s.store)
    (fewer : ∀ g, u.sendingA = some g ∨ u.offered = some g → s.storeSide.onWay g) :
    s.storeSide.keeps (u.transmitted f).storeSide := by
  unfold State.transmitted
  split
  · rename_i marked
    have slots : u.slots = s.slots := congrArg StoreSide.slots left
    exact State.keeps_softReset (fun law => law.2.2 f marked onWay) slots store
  · rw [left]
    refine fun law => ⟨law.withFrames fun g _ onWay => .inl ?_, id⟩
    rcases onWay with h | h
    · exact .inl h
    · exact fewer g h

theorem execPortAFrameSent_stored (s : State) : s.endsStored (execPortAFrameSent s) := by
  unfold execPortAFrameSent
  split
  · exact s.endsStored_idle
  · rename_i f sending
    refine State.endsStored_next (State.keeps_transmitted (.inr (.inl sending)) rfl rfl fun g h => ?_)
    exact .inr (.inr (h.resolve_left nofun))

theorem execReadEnd_stored (clocked before : Nat) (s : State) : s.endsStored (execReadEnd clocked before s) := by
  unfold execReadEnd
  split
  · exact s.endsStored_idle
  split
  · exact State.endsStored_same rfl
  · refine State.endsStored_next ?_
    unfold State.finishRead
    split
    · split
      · rename_i f offered
        refine State.keeps_transmitted (.inr (.inr offered)) rfl rfl fun g h => ?_
        exact .inr (.inl (h.resolve_right nofun))
      · exact StoreSide.keeps_of_eq rfl
    · exact StoreSide.keeps_of_eq rfl

theorem execDeviceResetTimeout_stored (s : State) : s.endsStored (execDeviceResetTimeout s) := by
  unfold execDeviceResetTimeout
  split
  · rename_i r accepted
    split
    · exact State.endsStored_next (State.keeps_softReset (fun _ => by rw [accepted]; rfl) rfl rfl)
    · exact s.endsStored_idle
  · exact s.endsStored_idle

/-- A hard reset leaves an idle store with its slots scanned (R174). -/
theorem execHardReset_stored (s : State) (b1 b0 : Bool) (level : SupplyLevel) (found : List (Nat × List Byte)) :
    s.endsStored (execHardReset b1 b0 level found s) := by
  refine State.endsStored_next (t := s.hardReset b1 b0 level found) fun law =>
    ⟨⟨fun _ => ⟨rfl, rfl⟩, nofun, fun f marked onWay => ?_⟩, fun kept k lt => ?_⟩
  · rcases onWay with ⟨q, h⟩ | h | h
    · cases q <;> cases h
    · obtain ⟨g, -, rfl⟩ := Option.map_eq_some_iff.1 h
      cases marked
    · cases h
  · obtain ⟨-, slot⟩ := kept k lt
    obtain ⟨lawful, rest⟩ := Slot.scanned_lawful slot ((found.lookup k).getD (s.slot k).contents)
    rw [show (s.hardReset b1 b0 level found).storeSide.slot k = _ from s.hardReset_slot b1 b0 level found lt]
    exact ⟨rest, lawful⟩

/-! ### The other commands -/

theorem execUnknownRequestKind_stored (p : Port) {s : State} (stop : s.stop.lawful) :
    s.endsStored (execUnknownRequestKind p s) := by
  unfold execUnknownRequestKind
  split
  · exact s.endsStored_idle
  · rename_i f s1 taken
    obtain ⟨side, ready⟩ := State.takeFrame_ready stop taken
    split
    · exact State.endsStored_next (State.keeps_placeReply side p _ nofun)
    · exact State.endsStored_next (side ▸ s1.keeps_routeFrame p f (side ▸ ready) serveUnknown_leavesStore.keepsStore)

theorem execEntryDue_stored (s : State) : s.endsStored (execEntryDue s) := by
  unfold execEntryDue
  split
  · exact s.endsStored_idle
  · split
    · exact s.endsStored_idle
    · exact State.endsStored_same (s.applyVerdict_storeSide _ _)

theorem execGuardDeadline_stored (s : State) : s.endsStored (execGuardDeadline s) := by
  unfold execGuardDeadline
  split
  · exact s.endsStored_idle
  · split
    · exact State.endsStored_same (s.failOccurrence_storeSide _ _ _)
    · exact s.endsStored_idle

theorem execGuardReevaluation_stored (s : State) : s.endsStored (execGuardReevaluation s) := by
  unfold execGuardReevaluation
  split
  · exact s.endsStored_idle
  · split
    · exact State.endsStored_same rfl
    · exact State.endsStored_same (State.reevaluate_storeSide _ _)

theorem execActionDrive_stored (s : State) : s.endsStored (execActionDrive s) := by
  unfold execActionDrive
  split
  · exact s.endsStored_idle
  · exact State.endsStored_same (State.settleDrive_frame _ _).storeSide

theorem execPulseRelease_stored (c : Nat) (s : State) : s.endsStored (execPulseRelease c s) := by
  unfold execPulseRelease
  repeat' split
  all_goals exact State.endsStored_same rfl

theorem execSettleEnd_stored (c : Nat) (wires : BitVec 24) (s : State) : s.endsStored (execSettleEnd c wires s) := by
  unfold execSettleEnd
  split
  · split
    · split
      · exact State.endsStored_same (s.readback_storeSide c _ wires)
      · exact s.endsStored_idle
    · exact s.endsStored_idle
  · exact s.endsStored_idle

theorem execInputSample_stored (c : Nat) (l : PinLevel) (s : State) : s.endsStored (execInputSample c l s) := by
  unfold execInputSample
  split
  · split
    · exact State.endsStored_same (s.sampleInput_storeSide c _ l)
    · exact s.endsStored_idle
  · exact s.endsStored_idle

theorem execTriggerEdge_stored (s : State) : s.endsStored (execTriggerEdge s) := by
  unfold execTriggerEdge
  split
  · exact s.endsStored_idle
  · exact State.endsStored_same (State.foldl_storeSide (State.visitTrigger_storeSide _) _ _)

theorem execFireRequest_stored (s : State) : s.endsStored (execFireRequest s) := by
  unfold execFireRequest
  split
  · exact s.endsStored_idle
  · exact State.endsStored_same (State.takeFireRequest_storeSide _ _)

theorem execHoldoffEnd_stored (k : Nat) (s : State) : s.endsStored (execHoldoffEnd k s) := by
  unfold execHoldoffEnd
  repeat' split
  all_goals exact State.endsStored_same rfl

theorem execKeepaliveExpiry_stored (n : Nat) (s : State) : s.endsStored (execKeepaliveExpiry n s) := by
  unfold execKeepaliveExpiry
  split
  · split
    · split
      · exact State.endsStored_same (s.lapse_storeSide n _)
      · exact s.endsStored_idle
    · exact s.endsStored_idle
  · exact s.endsStored_idle

theorem execGraceExpiry_stored (n : Nat) (s : State) : s.endsStored (execGraceExpiry n s) := by
  unfold execGraceExpiry
  split
  · split
    · split
      · exact State.endsStored_same (s.teardown_storeSide n)
      · exact s.endsStored_idle
    · exact s.endsStored_idle
  · exact s.endsStored_idle

theorem execReportAdd_stored (s : State) : s.endsStored (execReportAdd s) := by
  unfold execReportAdd
  split
  · exact s.endsStored_idle
  · exact State.endsStored_same (State.addReport_storeSide _ _ _ _)

theorem execWrite_stored (bytes : List Byte) (cut : Bool) (s : State) : s.endsStored (execWrite bytes cut s) := by
  unfold execWrite
  split
  · exact s.endsStored_idle
  · refine State.endsStored_same (.trans (by rfl) (?_ : (if cut then s.countError .b else s.judgeWrite bytes).storeSide = _))
    split
    · exact s.countError_storeSide .b
    · exact s.judgeWrite_storeSide bytes

theorem execLevel_stored (clocked : Nat) (s : State) : s.endsStored (execLevel clocked s) := by
  unfold execLevel
  split <;> exact State.endsStored_same rfl

theorem execUnknownSpiCommand_stored (command : Byte) (clocked : Nat) (s : State) :
    s.endsStored (execUnknownSpiCommand command clocked s) := by
  unfold execUnknownSpiCommand
  split
  · exact s.endsStored_idle
  split
  · exact s.endsStored_idle
  · exact State.endsStored_same (s.countError_storeSide .b)

/-- Every command keeps both laws. -/
theorem exec_stored (c : Instr) {s : State} (stop : s.stop.lawful) : s.endsStored (exec c s) := by
  have begins : ∀ p code {serve : Service}, serve.keepsStore → s.endsStored (.next (s.takeRequest p code serve)) :=
    fun p code _ h => State.endsStored_next (s.keeps_takeRequest p code stop h)
  have leaves : ∀ p code {serve : Service}, serve.leavesStore → s.endsStored (.next (s.takeRequest p code serve)) :=
    fun p code _ h => begins p code h.keepsStore
  have query : ∀ p code (fields : State → List Byte), s.endsStored (.next (s.takeRequest p code
      fun _ body u => emptyQuery body u (fields u))) :=
    fun p code fields => leaves p code fun _ body u => emptyQuery_quiet body u (fields u)
  have bare : ∀ p code (fields : State → List Byte), s.endsStored (.next (s.takeSessionless p code
      (fun body u => emptyQuery body u (fields u)) fun _ body u => emptyQuery body u (fields u))) :=
    fun p code fields => State.endsStored_next (s.keeps_takeSessionless p code stop
      (fun body u => emptyQuery_quiet body u (fields u)) fun _ body u => emptyQuery_quiet body u (fields u))
  cases c with
  | openSession p key =>
    exact State.endsStored_next (s.keeps_takeSessionless p _ stop (serveOpen_quiet p key)
      fun _ _ t => t.answersQuietly_same rfl)
  | identify p => exact bare p _ _
  | status p => exact bare p _ _
  | close p => exact leaves p _ serveClose_leavesStore
  | keepalive p => exact query p _ _
  | timeGet p => exact query p _ _
  | timeSet p => exact leaves p _ serveTimeSet_leavesStore
  | timeTrim p key => exact leaves p _ (serveTimeTrim_leavesStore key)
  | bind p => exact leaves p _ serveBind_leavesStore
  | unbind p key => exact leaves p _ (serveUnbind_leavesStore key)
  | clearFault p key => exact leaves p _ (serveClearFault_leavesStore key)
  | requalify p => exact leaves p _ serveRequalify_leavesStore
  | channelQuery p => exact leaves p _ serveChannelQuery_leavesStore
  | subscribe p => exact leaves p _ fun _ => serveSubscribers_quiet _
  | unsubscribe p => exact leaves p _ fun _ => serveSubscribers_quiet _
  | claim p key => exact leaves p _ (serveClaim_leavesStore key)
  | release p => exact leaves p _ serveRelease_leavesStore
  | takeover p => exact leaves p _ serveTakeover_leavesStore
  | actionAdd p => exact leaves p _ serveActionAdd_leavesStore
  | actionCancel p key => exact leaves p _ (serveActionCancel_leavesStore key)
  | groupCancel p => exact leaves p _ serveGroupCancel_leavesStore
  | queueQuery p => exact leaves p _ serveQueueQuery_leavesStore
  | interlockSet p key => exact leaves p _ (serveInterlockSet_leavesStore key)
  | interlockClear p key => exact leaves p _ (serveInterlockClear_leavesStore key)
  | interlockQuery p => exact query p _ _
  | triggerSet p => exact leaves p _ serveTriggerSet_leavesStore
  | triggerClear p key => exact leaves p _ (serveTriggerClear_leavesStore key)
  | triggerQuery p => exact leaves p _ serveTriggerQuery_leavesStore
  | halt p => exact leaves p _ serveHalt_leavesStore
  | resume p => exact leaves p _ serveResume_leavesStore
  | reportAck p => exact leaves p _ serveReportAck_leavesStore
  | reportResend p => exact leaves p _ serveReportResend_leavesStore
  | planBegin p key => exact leaves p _ (servePlanBegin_leavesStore key)
  | planPut p key => exact leaves p _ (servePlanPut_leavesStore key)
  | planAbandon p key => exact leaves p _ (servePlanAbandon_leavesStore key)
  | planCommit p key prot => exact begins p _ (servePlanCommit_keepsStore key prot)
  | planErase p key prot => exact begins p _ (servePlanErase_keepsStore key prot)
  | planList p => exact query p _ _
  | planLoad p => exact begins p _ servePlanLoad_keepsStore
  | deviceReset p key => exact begins p _ (serveDeviceReset_keepsStore p key)
  | unknownRequestKind p => exact execUnknownRequestKind_stored p stop
  | tick => exact State.endsStored_same rfl
  | trimWindowEnd => exact State.endsStored_same rfl
  | entryDue => exact execEntryDue_stored s
  | actionDrive => exact execActionDrive_stored s
  | guardDeadline => exact execGuardDeadline_stored s
  | guardReevaluation => exact execGuardReevaluation_stored s
  | pulseRelease c => exact execPulseRelease_stored c s
  | settleEnd c wires => exact execSettleEnd_stored c wires s
  | inputSample c level => exact execInputSample_stored c level s
  | triggerEdge => exact execTriggerEdge_stored s
  | fireRequest => exact execFireRequest_stored s
  | holdoffEnd k => exact execHoldoffEnd_stored k s
  | stopNSample asserted => exact execStopNSample_stored asserted s
  | keepaliveExpiry n => exact execKeepaliveExpiry_stored n s
  | graceExpiry n => exact execGraceExpiry_stored n s
  | reportAdd => exact execReportAdd_stored s
  | erasePhaseEnd => exact execErasePhaseEnd_stored s
  | programmingPhaseEnd readBack => exact execProgrammingPhaseEnd_stored readBack s
  | eraseEnd => exact execEraseEnd_stored s
  | readCompletion bytesRead => exact execReadCompletion_stored bytesRead s
  | supplyChange level => exact execSupplyChange_stored level s
  | hardReset b1 b0 supply found => exact execHardReset_stored s b1 b0 supply found
  | portAFrame bytes => exact State.endsStored_same (State.foldl_storeSide State.takeByte_storeSide bytes s)
  | portAGapTimeout => exact State.endsStored_same s.gapTimeout_storeSide
  | portATransmit => exact execPortATransmit_stored s
  | portAFrameSent => exact execPortAFrameSent_stored s
  | deviceResetTimeout => exact execDeviceResetTimeout_stored s
  | write bytes cut => exact execWrite_stored bytes cut s
  | level clocked => exact execLevel_stored clocked s
  | read => exact execRead_stored s
  | readEnd clocked before => exact execReadEnd_stored clocked before s
  | unknownSpiCommand command clocked => exact execUnknownSpiCommand_stored command clocked s

/-- Settles O60: every command keeps both laws on the side of the state that they see. -/
theorem storeLawKept : Obligations.StoreLawKept := by
  intro s t stop resets h
  rw [State.resetLawful_iff] at resets ⊢
  rw [State.storeLawful_iff, State.storeLawful_iff]
  unfold step at h
  split at h
  · cases h
    exact ⟨resets, id⟩
  · rename_i c rest _
    exact exec_stored c (s := { s with pending := rest }) stop t h resets

end Sys2Proof.Machine
end

section
/-!
The ends of the phases of a commit and an erase, and the abort by a low supply (R159, R167, R168, R171, R172): O45.
-/

namespace Sys2Proof.Machine

section
variable {s : State} {k : Nat} {m : Option Nat} {image bytes : List Byte}

/-! ### The verification (R167) -/

theorem execProgrammingPhaseEnd_eq (store : s.store = .commitProgramming k m image) (back : Option (List Byte)) :
    execProgrammingPhaseEnd back s = .next (s.endProgramming k m image (if image = [] then [] else back.getD image)) := by
  unfold execProgrammingPhaseEnd
  rw [store]

/-- What is read back matches when the array returns the bytes held, and when there are none to read. -/
theorem readBack_matches {back : Option (List Byte)} (h : back = none ∨ back = some image ∨ image = []) :
    (if image = [] then [] else back.getD image) = image := by
  split
  · rename_i empty
    exact empty.symm
  · rename_i held
    rcases h with rfl | rfl | empty
    · rfl
    · rfl
    · exact absurd empty held

theorem State.endProgramming_verified (s : State) (k : Nat) (m : Option Nat) (image : List Byte) :
    s.endProgramming k m image image =
      ({ s.setSlot k ((s.slot k).committed image) with store := .idle }).reportTo m
        (.storeDone false k .valid ((s.slot k).committed image).generation (s.slot k).size) := by
  unfold State.endProgramming
  exact if_pos rfl

theorem State.endProgramming_failed (differ : bytes ≠ image) :
    s.endProgramming k m image bytes =
      ({ s.setSlot k (s.slot k).invalidated with store := .idle }).reportTo m (.storeFailed true false k) := by
  unfold State.endProgramming
  exact if_neg differ

/-! ### Phases, erases and the supply -/

theorem execErasePhaseEnd_eq (store : s.store = .commitErasing k m image) : execErasePhaseEnd s = .next
    { s.setSlot k { s.slot k with state := .programming } with store := .commitProgramming k m image } := by
  unfold execErasePhaseEnd
  rw [store]

theorem execEraseEnd_eq (store : s.store = .erasing k m) : execEraseEnd s = .next
    (({ s.setSlot k { s.slot k with state := .empty } with store := .idle }).reportTo m
      (.storeDone true k .empty (s.slot k).generation 0)) := by
  unfold execEraseEnd
  rw [store]

/-- A supply going LOW reaches the operation in flight (R172). -/
theorem execSupplyChange_falls (normal : s.supply = .normal) :
    execSupplyChange .low s = .next (State.abortByLow { s with supply := .low }) := by
  unfold execSupplyChange
  rw [normal, if_neg (by decide)]
  rfl

theorem execSupplyChange_rises (low : s.supply = .low) : execSupplyChange .normal s = .next { s with supply := .normal } := by
  unfold execSupplyChange
  rw [low, if_neg (by decide)]
  rfl

theorem State.abortByLow_spares (h : s.store = .idle ∨ ∃ start, s.store = .reading k m start) : s.abortByLow = s := by
  unfold State.abortByLow
  rcases h with store | ⟨start, store⟩ <;> rw [store]

theorem State.abortByLow_aborts {erase : Bool}
    (h : erase = false ∧ (s.store = .commitErasing k m image ∨ s.store = .commitProgramming k m image) ∨
      erase = true ∧ s.store = .erasing k m) : s.abortByLow = s.abortWrite k m erase := by
  unfold State.abortByLow
  rcases h with ⟨rfl, store | store⟩ | ⟨rfl, store⟩ <;> rw [store]

end

/-- Settles O45: each end is the model's equation for the operation in flight, and each report goes to its requester. -/
theorem storeOperationsEnd : Obligations.StoreOperationsEnd := by
  rintro s k m image _ told rfl htold
  have toRequester : ∀ t b, told t b = t.reportTo m b := fun t b => by
    rw [htold]
    cases m <;> rfl
  simp only [toRequester]
  refine ⟨execErasePhaseEnd_eq, fun store back => ⟨fun same => ?_, ?_⟩, execEraseEnd_eq,
    fun normal => ⟨fun spared => ?_, fun erase aborted => ?_⟩, execSupplyChange_rises⟩
  · refine (execProgrammingPhaseEnd_eq store back).trans ?_
    rw [readBack_matches same, State.endProgramming_verified]
    rfl
  · rintro bytes rfl differ held
    refine (execProgrammingPhaseEnd_eq store _).trans ?_
    rw [if_neg held]
    exact congrArg Host.Outcome.next (State.endProgramming_failed differ)
  · exact (execSupplyChange_falls normal).trans
      (congrArg Host.Outcome.next (State.abortByLow_spares (s := { s with supply := .low }) spared))
  · exact (execSupplyChange_falls normal).trans
      (congrArg Host.Outcome.next (State.abortByLow_aborts (s := { s with supply := .low }) aborted))

end Sys2Proof.Machine
end

section
/-!
The requests that begin a store operation: PLAN_COMMIT, PLAN_ERASE and PLAN_LOAD (R166, R168, R176): O44.
-/

namespace Sys2Proof.Machine

section
variable {s : State} {p : Port} {n : Nat} {h : HostSession} {f : Frame} {rest : List Frame} {code : Byte} {key prot : Bool}
  {b : Build} {k : Nat} {r : Result}

/-! ### Requests that write the Plan Store -/

/-- A request in sequence whose rule writes the slots, the store operation and the build alone. -/
theorem State.takeRequest_plan (received : s.receives p n h f rest code) (serve : Service) {fields : List Byte}
    (v : Vector Slot 8 → Vector Slot 8) (op : StoreOp → StoreOp) (b : Option Build → Option Build)
    (served : serve n f.body (s.arrived p n h rest) =
      ({ s.arrived p n h rest with
          slots := v (s.arrived p n h rest).slots
          store := op (s.arrived p n h rest).store
          build := b (s.arrived p n h rest).build }, okWith fields)) :
    s.takeRequest p code serve =
      { s.answered p n h f rest .ok fields with
        slots := v (s.answered p n h f rest .ok fields).slots
        store := op (s.answered p n h f rest .ok fields).store
        build := b (s.answered p n h f rest .ok fields).build } :=
  State.takeRequest_effect received serve .ok fields
    (fun t => { t with slots := v t.slots, store := op t.store, build := b t.build }) served (fun _ => rfl)
    (fun t r => by unfold State.setSession; split <;> rfl) (fun _ => by cases p <;> rfl) (fun _ _ => by cases p <;> rfl)

/-- R163, R164, R166, step 2: no build, or one of another session. -/
theorem withBuild_arrived_none (received : s.receives p n h f rest code) (service : h.cls = .service)
    (nobody : ∀ b, s.build = some b → b.owner ≠ n) (act : Build → State × Answer) :
    withBuild (s.arrived p n h rest) n key act = (s.arrived p n h rest, refuse .noBuild) := by
  obtain ⟨⟨_, _, _, _, live, _⟩, _⟩ := received
  unfold withBuild
  rw [State.arrived_classOf live, if_neg (not_not_intro service), State.arrived_build]
  cases build : s.build with
  | none => rfl
  | some b => exact if_pos (nobody b build)

/-- R163, R164, R166, steps 1 to 3, for the requester's own build. -/
theorem withBuild_arrived_own (received : s.receives p n h f rest code) (service : h.cls = .service)
    (build : s.build = some b) (own : b.owner = n) (act : Build → State × Answer) :
    withBuild (s.arrived p n h rest) n key act =
      if key = false then (s.arrived p n h rest, refuse .notPermitted) else act b := by
  obtain ⟨⟨_, _, _, _, live, _⟩, _⟩ := received
  unfold withBuild
  rw [State.arrived_classOf live, if_neg (not_not_intro service), State.arrived_build, build]
  exact if_neg (not_not_intro own)

/-! ### The last conditions of R166 and R168 -/

theorem State.writeRefusal_arrived : (s.arrived p n h rest).writeRefusal k prot = s.writeRefusal k prot := by
  simp [State.writeRefusal]

theorem State.storeBusy_of_ne (busy : s.store ≠ .idle) : s.storeBusy = true := by
  simp [State.storeBusy, busy]

theorem State.storeBusy_of_idle (idle : s.store = .idle) : ¬s.storeBusy = true := by
  simp [State.storeBusy, idle]

/-- The conditions in their order: STORE_BUSY, LOW_SUPPLY, and for slot 0 STORE_PROTECTED. -/
theorem State.writeRefusal_spec (s : State) (k : Nat) (prot : Bool) :
    (s.store ≠ .idle → s.writeRefusal k prot = some .storeBusy) ∧
      (s.store = .idle → s.supply = .low → s.writeRefusal k prot = some .lowSupply) ∧
      (s.store = .idle → s.supply = .normal → k = 0 → prot = true → s.writeRefusal k prot = some .storeProtected) ∧
      (s.store = .idle → s.supply = .normal → k ≠ 0 ∨ prot = false → s.writeRefusal k prot = none) := by
  unfold State.writeRefusal
  refine ⟨fun busy => if_pos (State.storeBusy_of_ne busy), fun idle low => ?_, fun idle normal zero protected_ => ?_,
    fun idle normal free => ?_⟩ <;> rw [if_neg (State.storeBusy_of_idle idle)]
  · exact if_pos low
  · rw [if_neg (by simp [normal]), if_pos ⟨zero, protected_⟩]
  · rw [if_neg (by simp [normal]), if_neg]
    rintro ⟨zero, protected_⟩
    exact free.elim (absurd zero) fun off => nomatch off.symm.trans protected_

/-! ### PLAN_COMMIT (R166) -/

theorem servePlanCommit_arrived (received : s.receives p n h f rest code) (service : h.cls = .service)
    (build : s.build = some b) (own : b.owner = n) :
    servePlanCommit key prot n f.body (s.arrived p n h rest) =
      if key = false then (s.arrived p n h rest, refuse .notPermitted)
      else if f.body ≠ [] then (s.arrived p n h rest, refuse .malformed)
      else match s.writeRefusal b.slot prot with
        | some r => (s.arrived p n h rest, refuse r)
        | none => ((s.arrived p n h rest).beginCommit n b, okWith (u8 b.slot ++ u16 b.size)) := by
  rw [servePlanCommit, withBuild_arrived_own received service build own, State.writeRefusal_arrived] <;> rfl

theorem planCommit_refused (received : s.receives p n h f rest 0x4B) (service : h.cls = .service) (empty : f.body = [])
    (build : s.build = some b) (own : b.owner = n) (refused : s.writeRefusal b.slot prot = some r) :
    exec (.planCommit p true prot) s = .next (s.answered p n h f rest r []) := by
  have served := servePlanCommit_arrived (key := true) (prot := prot) received service build own
  rw [if_neg nofun, if_neg (not_not_intro empty), refused] at served
  exact congrArg Host.Outcome.next (State.takeRequest_answered received _ r [] served)

theorem planCommit_accepted (received : s.receives p n h f rest 0x4B) (service : h.cls = .service) (empty : f.body = [])
    (build : s.build = some b) (own : b.owner = n) (accepted : s.writeRefusal b.slot prot = none) :
    exec (.planCommit p true prot) s = .next
      { (s.answered p n h f rest .ok (u8 b.slot ++ leBytes 2 b.size)).setSlot b.slot ((s.slot b.slot).committing b) with
        store := .commitErasing b.slot (some n) b.records.flatten, build := none } := by
  have served := servePlanCommit_arrived (key := true) (prot := prot) received service build own
  rw [if_neg nofun, if_neg (not_not_intro empty), accepted, State.beginCommit, State.arrived_slot] at served
  exact congrArg Host.Outcome.next (State.takeRequest_plan received _ (tset · b.slot ((s.slot b.slot).committing b))
    (fun _ => .commitErasing b.slot (some n) b.records.flatten) (fun _ => none) served)

/-! ### PLAN_ERASE (R168) -/

theorem servePlanErase_arrived (received : s.receives p n h f rest code) (service : h.cls = .service)
    (body : f.body = u8 k) (range : k ≤ 7) :
    servePlanErase true prot n f.body (s.arrived p n h rest) =
      match s.writeRefusal k prot with
      | some r => (s.arrived p n h rest, refuse r)
      | none => ((s.arrived p n h rest).beginErase n k, okWith (u8 k)) := by
  have read : readIndex 8 (u8 k) = some k := readIndex_single k 8 (by omega) (by omega)
  rw [servePlanErase, asService_arrived received, if_pos ⟨service, rfl⟩, body, read]
  dsimp only
  rw [State.writeRefusal_arrived] <;> rfl

theorem planErase_refused (received : s.receives p n h f rest 0x4C) (service : h.cls = .service) (body : f.body = u8 k)
    (range : k ≤ 7) (refused : s.writeRefusal k prot = some r) :
    exec (.planErase p true prot) s = .next (s.answered p n h f rest r []) := by
  have served := servePlanErase_arrived (prot := prot) received service body range
  rw [refused] at served
  exact congrArg Host.Outcome.next (State.takeRequest_answered received _ r [] served)

theorem planErase_accepted (received : s.receives p n h f rest 0x4C) (service : h.cls = .service) (body : f.body = u8 k)
    (range : k ≤ 7) (accepted : s.writeRefusal k prot = none) :
    exec (.planErase p true prot) s = .next
      { (s.answered p n h f rest .ok (u8 k)).setSlot k (s.slot k).erasing with store := .erasing k (some n) } := by
  have served := servePlanErase_arrived (prot := prot) received service body range
  rw [accepted, State.beginErase, State.arrived_slot] at served
  exact congrArg Host.Outcome.next (State.takeRequest_plan received _ (tset · k (s.slot k).erasing)
    (fun _ => .erasing k (some n)) id served)

/-! ### PLAN_LOAD (R176) -/

/-- The bytes of a PLAN_LOAD body in range: slot and start (R176, R192). -/
def LoadStart.bodyFor (start : LoadStart) (k : Nat) (body : List Byte) : Prop :=
  start = .now ∧ body = u8 k ++ [0] ∨
    (∃ d, d < 2 ^ 32 ∧ start = .after d ∧ body = u8 k ++ [1] ++ leBytes 4 d) ∨
    ∃ d, d < 2 ^ 48 ∧ start = .atTime d ∧ body = u8 k ++ [2] ++ leBytes 6 d

theorem readPlanLoad_spelled {start : LoadStart} {body : List Byte} (range : k ≤ 7) (spelled : start.bodyFor k body) :
    readPlanLoad body = some (k, start) := by
  have slot : (toByte k).toNat = k := toByte_toNat k (by omega)
  have read : ∀ (sel : Byte) (time : List Byte), field (u8 k ++ [sel] ++ time) 0 1 = k ∧
      field (u8 k ++ [sel] ++ time) 1 1 = sel.toNat ∧ ¬(7 < k ∨ (u8 k ++ [sel] ++ time).length < 2) := fun sel time =>
    ⟨(field_byte _ (toByte k) 0 rfl).trans slot, field_byte _ sel 1 rfl, by simp [u8]; omega⟩
  unfold readPlanLoad
  rcases spelled with ⟨rfl, rfl⟩ | ⟨d, small, rfl, rfl⟩ | ⟨d, small, rfl, rfl⟩
  · obtain ⟨first, second, inRange⟩ := read 0 []
    rw [List.append_nil] at first second inRange
    simp only [first, second, if_neg inRange]
    rfl
  · obtain ⟨first, second, inRange⟩ := read 1 (leBytes 4 d)
    have time : field (u8 k ++ [1] ++ leBytes 4 d) 2 4 = d := by
      have := field_append_right (u8 k ++ [1]) (leBytes 4 d) 0 4
      have whole := field_leBytes 4 d [] (by omega)
      rw [List.append_nil] at whole
      exact this.trans whole
    simp only [first, second, if_neg inRange, time]
    rfl
  · obtain ⟨first, second, inRange⟩ := read 2 (leBytes 6 d)
    have time : field (u8 k ++ [2] ++ leBytes 6 d) 2 6 = d := by
      have := field_append_right (u8 k ++ [2]) (leBytes 6 d) 0 6
      have whole := field_leBytes 6 d [] (by omega)
      rw [List.append_nil] at whole
      exact this.trans whole
    simp only [first, second, if_neg inRange, time]
    rfl

theorem servePlanLoad_arrived {start : LoadStart} (received : s.receives p n h f rest code) (operator : h.cls ≠ .observer)
    (range : k ≤ 7) (spelled : start.bodyFor k f.body) :
    servePlanLoad n f.body (s.arrived p n h rest) =
      if s.storeBusy then (s.arrived p n h rest, refuse .storeBusy)
      else if (s.slot k).state ≠ .valid then (s.arrived p n h rest, refuse .slotInvalid)
      else ({ s.arrived p n h rest with store := .reading k (some n) start },
        okWith (u8 k ++ u32 (s.slot k).generation ++ u16 (s.slot k).size)) := by
  rw [servePlanLoad, asOperator_arrived received operator, readPlanLoad_spelled range spelled]
  simp only [State.arrived_storeBusy, State.arrived_slot]

end

/-- Settles O44: each outcome is the rule's answer to the first of its conditions that fails. -/
theorem storeOperationsBegin : Obligations.StoreOperationsBegin := by
  intro s p prot n h f rest
  refine ⟨fun received service => ⟨fun nobody key => ?_, fun b build own => ⟨?_, fun body => ?_⟩⟩,
    fun b received service empty build own => ?_, fun k received service body range => ?_,
    fun k start received operator range spelled => ?_⟩
  · exact congrArg Host.Outcome.next
      (State.takeRequest_answered received _ .noBuild [] (withBuild_arrived_none received service nobody _))
  · have served := servePlanCommit_arrived (key := false) (prot := prot) received service build own
    rw [if_pos rfl] at served
    exact congrArg Host.Outcome.next (State.takeRequest_answered received _ .notPermitted [] served)
  · have served := servePlanCommit_arrived (key := true) (prot := prot) received service build own
    rw [if_neg nofun, if_pos body] at served
    exact congrArg Host.Outcome.next (State.takeRequest_answered received _ .malformed [] served)
  · have refused := fun r => planCommit_refused (prot := prot) (r := r) received service empty build own
    obtain ⟨busy, low, protected_, free⟩ := s.writeRefusal_spec b.slot prot
    exact ⟨fun store => refused _ (busy store), fun store supply => refused _ (low store supply),
      fun store supply zero on => refused _ (protected_ store supply zero on),
      fun store supply other => planCommit_accepted received service empty build own (free store supply other)⟩
  · have refused := fun r => planErase_refused (prot := prot) (r := r) received service body range
    obtain ⟨busy, low, protected_, free⟩ := s.writeRefusal_spec k prot
    exact ⟨fun store => refused _ (busy store), fun store supply => refused _ (low store supply),
      fun store supply zero on => refused _ (protected_ store supply zero on),
      fun store supply other => planErase_accepted received service body range (free store supply other)⟩
  · have served := servePlanLoad_arrived received operator range spelled
    refine ⟨fun busy => ?_, fun idle state => ?_, fun idle valid => ?_⟩
    · rw [if_pos (State.storeBusy_of_ne busy)] at served
      exact congrArg Host.Outcome.next (State.takeRequest_answered received _ .storeBusy [] served)
    · rw [if_neg (State.storeBusy_of_idle idle), if_pos state] at served
      exact congrArg Host.Outcome.next (State.takeRequest_answered received _ .slotInvalid [] served)
    · rw [if_neg (State.storeBusy_of_idle idle), if_neg (not_not_intro valid)] at served
      exact congrArg Host.Outcome.next
        (State.takeRequest_plan received _ id (fun _ => .reading k (some n) start) id served)

end Sys2Proof.Machine
end

section
/-!
The build: PLAN_BEGIN, PLAN_PUT and PLAN_ABANDON, and the records of a run of bytes (R160 to R164): O43.
-/

namespace Sys2Proof.Machine

/-! ### Records in a run of bytes (R161) -/

/-- The bytes `r` have the size of the kind that their first byte names. -/
def WholeRecord (r : List Byte) : Prop := r ≠ [] ∧ recordSize (field r 0 1) = r.length

theorem recordSize_toNat (k : Byte) :
    recordSize k.toNat = if k = 0x10 ∨ k = 0x20 then 8 else if k = 0x30 then 12 else if k = 0x40 then 16
      else if k = 0x41 ∨ k = 0x42 then 24 else if k = 0x43 then 32 else 0 := by
  revert k
  decide

theorem recordGroup_cons (k : Byte) (rest : List Byte) :
    recordGroup (k :: rest) = if k = 0x10 then 0 else if k = 0x20 then 1 else if k = 0x30 then 2 else 3 := by
  rw [recordGroup, field_byte _ k 0 rfl]
  revert k
  decide

theorem field_zero_append (r rest : List Byte) (nonempty : r ≠ []) : field (r ++ rest) 0 1 = field r 0 1 := by
  cases r with
  | nil => exact absurd rfl nonempty
  | cons b bs => rw [field_byte _ b 0 rfl, field_byte _ b 0 rfl]

theorem WholeRecord.splitRecord_append {r : List Byte} (whole : WholeRecord r) (rest : List Byte) :
    splitRecord (r ++ rest) = some (r, rest) := by
  obtain ⟨nonempty, size⟩ := whole
  have positive := List.length_pos_of_ne_nil nonempty
  unfold splitRecord
  rw [field_zero_append r rest nonempty, size]
  dsimp only
  rw [if_neg (by rw [List.length_append]; omega), List.take_left, List.drop_left]

theorem length_le_flatten {rs : List (List Byte)} (whole : ∀ r ∈ rs, WholeRecord r) : rs.length ≤ rs.flatten.length := by
  induction rs with
  | nil => exact Nat.le_refl 0
  | cons r rs ih =>
    have positive := List.length_pos_of_ne_nil (whole r List.mem_cons_self).1
    have rest := ih fun x mem => whole x (List.mem_cons_of_mem r mem)
    rw [List.flatten_cons, List.length_append, List.length_cons]
    omega

/-! ### The reading of a PLAN_PUT body (R161, R163) -/

/-- What the reading of a body comes to when its first records are `rs` and the rest reads as `result`. -/
def PutResult.after (rs : List (List Byte)) : PutResult → PutResult
  | .records more => .records (rs ++ more)
  | .failsAt position => .failsAt position

@[simp] theorem readPut_nil (fuel position group : Nat) : readPut fuel position group [] = .records [] := by
  cases fuel <;> rfl

theorem WholeRecord.readPut_append {r : List Byte} (whole : WholeRecord r) (fuel position group : Nat)
    (rest : List Byte) :
    readPut (fuel + 1) position group (r ++ rest) =
      if (readRecord r).isNone ∨ recordGroup r < group then .failsAt position
      else (readPut fuel (position + 1) (recordGroup r) rest).after [r] := by
  rw [readPut, if_neg (by simp [whole.1]), whole.splitRecord_append]
  dsimp only
  split
  · rfl
  · cases readPut fuel (position + 1) (recordGroup r) rest <;> rfl

/-- Records in range and in plan order are taken, and the rest is read from the group of the last one on. -/
theorem readPut_flatten_append {rs : List (List Byte)} (fuel position group : Nat) (tail : List Byte)
    (whole : ∀ r ∈ rs, WholeRecord r) (readable : ∀ r ∈ rs, (readRecord r).isSome = true)
    (sorted : (group :: rs.map recordGroup).Pairwise (· ≤ ·)) :
    readPut (rs.length + fuel) position group (rs.flatten ++ tail) =
      (readPut fuel (position + rs.length) ((rs.map recordGroup).getLastD group) tail).after rs := by
  induction rs generalizing position group with
  | nil =>
    simp only [List.length_nil, Nat.zero_add, List.flatten_nil, List.nil_append, Nat.add_zero, List.map_nil,
      List.getLastD_nil]
    cases readPut fuel position group tail <;> rfl
  | cons r rs ih =>
    rw [List.map_cons, List.pairwise_cons] at sorted
    have inOrder := sorted.1 (recordGroup r) List.mem_cons_self
    have taken : ¬((readRecord r).isNone = true ∨ recordGroup r < group) := by
      rw [not_or, Option.isNone_iff_eq_none, ← ne_eq, Option.ne_none_iff_isSome]
      exact ⟨readable r List.mem_cons_self, Nat.not_lt.mpr inOrder⟩
    rw [List.length_cons, Nat.add_right_comm, List.flatten_cons, List.append_assoc,
      (whole r List.mem_cons_self).readPut_append, if_neg taken,
      ih (position + 1) (recordGroup r) (fun x mem => whole x (List.mem_cons_of_mem r mem))
        (fun x mem => readable x (List.mem_cons_of_mem r mem)) sorted.2,
      List.map_cons, List.getLastD_cons, Nat.add_right_comm position, Nat.add_assoc position]
    cases readPut fuel (position + (rs.length + 1)) ((rs.map recordGroup).getLastD (recordGroup r)) tail <;> rfl

/-- In plan order the group of the last record is the greatest. -/
theorem le_getLastD_of_pairwise {g a : Nat} {gs : List Nat} (sorted : (g :: gs).Pairwise (· ≤ ·)) (mem : a ∈ g :: gs) :
    a ≤ gs.getLastD g := by
  rw [← List.getLastD_cons (a := g), List.getLastD_eq_getLast?, List.getLast?_eq_some_getLast (List.cons_ne_nil g gs),
    Option.getD_some]
  exact sorted.rel_getLast mem

/-- The readings of a body of whole records, in range and in plan order: all of it, or up to a record that fails. -/
theorem readPut_records {rs : List (List Byte)} {fuel group : Nat} (whole : ∀ r ∈ rs, WholeRecord r)
    (readable : ∀ r ∈ rs, (readRecord r).isSome = true) (sorted : (group :: rs.map recordGroup).Pairwise (· ≤ ·))
    (enough : rs.length ≤ fuel) : readPut fuel 0 group rs.flatten = .records rs := by
  obtain ⟨spare, rfl⟩ := Nat.exists_eq_add_of_le enough
  have read := readPut_flatten_append spare 0 group [] whole readable sorted
  rwa [List.append_nil, readPut_nil, PutResult.after, List.append_nil] at read

theorem readPut_failsAt {rs : List (List Byte)} {bad more : List Byte} {fuel group : Nat}
    (whole : ∀ r ∈ bad :: rs, WholeRecord r) (readable : ∀ r ∈ rs, (readRecord r).isSome = true)
    (sorted : (group :: rs.map recordGroup).Pairwise (· ≤ ·)) (enough : rs.length < fuel)
    (fails : readRecord bad = none ∨ ∃ g ∈ group :: rs.map recordGroup, recordGroup bad < g) :
    readPut fuel 0 group (rs.flatten ++ bad ++ more) = .failsAt rs.length := by
  obtain ⟨spare, rfl⟩ := Nat.exists_eq_add_of_le enough
  have refused : (readRecord bad).isNone = true ∨ recordGroup bad < (rs.map recordGroup).getLastD group :=
    fails.imp (fun none => by rw [none]; rfl) fun ⟨_, mem, before⟩ =>
      Nat.lt_of_lt_of_le before (le_getLastD_of_pairwise sorted mem)
  rw [List.append_assoc, Nat.succ_add_eq_add_succ,
    readPut_flatten_append _ _ _ _ (fun r mem => whole r (List.mem_cons_of_mem bad mem)) readable sorted,
    (whole bad List.mem_cons_self).readPut_append, if_pos refused, Nat.zero_add]
  rfl

/-! ### The build -/

theorem Build.group_of_nil {b : Build} (empty : b.records = []) : b.group = 0 := by
  rw [Build.group, empty]
  rfl

theorem Build.group_of_concat {b : Build} {rs : List (List Byte)} {r : List Byte} (records : b.records = rs ++ [r]) :
    b.group = recordGroup r := by
  rw [Build.group, records, List.getLast?_concat]

theorem Build.put_size (b : Build) (rs : List (List Byte)) : (b.put rs).size = b.size + rs.flatten.length := by
  rw [Build.size, Build.put, List.map_append, List.sum_append, List.length_flatten]
  rfl

section
variable {s : State} {p : Port} {n : Nat} {h : HostSession} {f : Frame} {rest : List Frame} {code : Byte} {key auto : Bool}
  {b : Build} {k : Nat} {name : List Byte} {rs : List (List Byte)}

/-- A request in sequence whose rule writes the build alone. -/
theorem State.takeRequest_build (received : s.receives p n h f rest code) (serve : Service) {fields : List Byte}
    (build : Option Build)
    (served : serve n f.body (s.arrived p n h rest) = ({ s.arrived p n h rest with build := build }, okWith fields)) :
    s.takeRequest p code serve = { s.answered p n h f rest .ok fields with build := build } :=
  State.takeRequest_plan received serve id id (fun _ => build) served

/-! ### PLAN_BEGIN (R162) -/

theorem planBegin_malformed (received : s.receives p n h f rest 0x48) (service : h.cls = .service)
    (unread : ∀ k name auto, ¬planBeginBody k name auto f.body) :
    exec (.planBegin p true) s = .next (s.answered p n h f rest .malformed []) := by
  have read : readPlanBegin f.body = none :=
    Option.eq_none_iff_forall_ne_some.mpr fun ⟨k, name, auto⟩ some =>
      unread k name auto ((readPlanBegin_eq_some f.body k name auto).mp some)
  have served : servePlanBegin true n f.body (s.arrived p n h rest) = (s.arrived p n h rest, refuse .malformed) := by
    rw [servePlanBegin, asService_arrived received, if_pos ⟨service, rfl⟩, read]
  exact congrArg Host.Outcome.next (State.takeRequest_answered received _ .malformed [] served)

theorem planBegin_buildActive (received : s.receives p n h f rest 0x48) (service : h.cls = .service)
    (body : planBeginBody k name auto f.body) (active : s.build.isSome = true) :
    exec (.planBegin p true) s = .next (s.answered p n h f rest .buildActive []) := by
  obtain ⟨b, build⟩ := Option.isSome_iff_exists.mp active
  have read := (readPlanBegin_eq_some f.body k name auto).mpr body
  have served : servePlanBegin true n f.body (s.arrived p n h rest) = (s.arrived p n h rest, refuse .buildActive) := by
    rw [servePlanBegin, asService_arrived received, if_pos ⟨service, rfl⟩, read]
    dsimp only
    rw [State.arrived_build, build]
  exact congrArg Host.Outcome.next (State.takeRequest_answered received _ .buildActive [] served)

theorem planBegin_creates (received : s.receives p n h f rest 0x48) (service : h.cls = .service)
    (body : planBeginBody k name auto f.body) (build : s.build = none) :
    exec (.planBegin p true) s = .next
      { s.answered p n h f rest .ok (leBytes 2 (Config.slotCapacity k)) with
        build := some ⟨n, k, name, auto, []⟩ } := by
  have read := (readPlanBegin_eq_some f.body k name auto).mpr body
  have served : servePlanBegin true n f.body (s.arrived p n h rest) =
      ({ s.arrived p n h rest with build := some ⟨n, k, name, auto, []⟩ }, okWith (u16 (Config.slotCapacity k))) := by
    rw [servePlanBegin, asService_arrived received, if_pos ⟨service, rfl⟩, read]
    dsimp only
    rw [State.arrived_build, build]
  exact congrArg Host.Outcome.next (State.takeRequest_build received _ _ served)

/-! ### PLAN_PUT (R163) -/

theorem planPut_noBuild (received : s.receives p n h f rest 0x49)
    (service : h.cls = .service) (nobody : ∀ b, s.build = some b → b.owner ≠ n) :
    exec (.planPut p key) s = .next (s.answered p n h f rest .noBuild []) :=
  congrArg Host.Outcome.next
    (State.takeRequest_answered received _ .noBuild [] (withBuild_arrived_none received service nobody _))

theorem planPut_notPermitted (received : s.receives p n h f rest 0x49) (service : h.cls = .service)
    (build : s.build = some b) (own : b.owner = n) :
    exec (.planPut p false) s = .next (s.answered p n h f rest .notPermitted []) :=
  congrArg Host.Outcome.next
    (State.takeRequest_answered received _ .notPermitted [] (withBuild_arrived_own received service build own _))

theorem planPut_failsAt (received : s.receives p n h f rest 0x49) (service : h.cls = .service)
    (build : s.build = some b) (own : b.owner = n) {position : Nat}
    (read : readPut f.body.length 0 b.group f.body = .failsAt position) :
    exec (.planPut p true) s = .next (s.answered p n h f rest .malformed (u8 position)) := by
  have served : servePlanPut true n f.body (s.arrived p n h rest) =
      (s.arrived p n h rest, ⟨.malformed, u8 position, true, false⟩) := by
    rw [servePlanPut, withBuild_arrived_own received service build own, if_neg nofun, read]
  exact congrArg Host.Outcome.next (State.takeRequest_answered received _ .malformed _ served)

/-- With the key a body that is read whole is judged by the room in the slot. -/
theorem servePlanPut_records (received : s.receives p n h f rest code) (service : h.cls = .service)
    (build : s.build = some b) (own : b.owner = n) (read : readPut f.body.length 0 b.group f.body = .records rs) :
    servePlanPut true n f.body (s.arrived p n h rest) =
      if Config.slotCapacity b.slot < b.size + rs.flatten.length then
        (s.arrived p n h rest, ⟨.planTooLarge, u16 (Config.slotCapacity b.slot - b.size), true, false⟩)
      else
        ({ s.arrived p n h rest with build := some (b.put rs) },
          okWith (u8 rs.length ++ u16 (b.records ++ rs).length ++ u16 (b.size + rs.flatten.length))) := by
  rw [servePlanPut, withBuild_arrived_own received service build own, if_neg nofun, read]
  dsimp only
  rw [putReply, Build.put_size]
  rfl

theorem planPut_tooLarge (received : s.receives p n h f rest 0x49) (service : h.cls = .service)
    (build : s.build = some b) (own : b.owner = n) (read : readPut f.body.length 0 b.group f.body = .records rs)
    (large : Config.slotCapacity b.slot < b.size + rs.flatten.length) :
    exec (.planPut p true) s = .next
      (s.answered p n h f rest .planTooLarge (leBytes 2 (Config.slotCapacity b.slot - b.size))) :=
  congrArg Host.Outcome.next (State.takeRequest_answered received _ .planTooLarge _
    ((servePlanPut_records received service build own read).trans (if_pos large)))

theorem planPut_appends (received : s.receives p n h f rest 0x49) (service : h.cls = .service)
    (build : s.build = some b) (own : b.owner = n) (read : readPut f.body.length 0 b.group f.body = .records rs)
    (fits : b.size + rs.flatten.length ≤ Config.slotCapacity b.slot) :
    exec (.planPut p true) s = .next
      { s.answered p n h f rest .ok (u8 rs.length ++ leBytes 2 (b.records ++ rs).length ++
          leBytes 2 (b.size + rs.flatten.length)) with
        build := some { b with records := b.records ++ rs } } :=
  congrArg Host.Outcome.next (State.takeRequest_build received _ _
    ((servePlanPut_records received service build own read).trans (if_neg (Nat.not_lt.mpr fits))))

/-- PLAN_PUT of whole records in plan order: taken when they fit, refused with the room when they do not, and refused
with the position of a record that fails. -/
theorem planPut_records (received : s.receives p n h f rest 0x49) (service : h.cls = .service)
    (build : s.build = some b) (own : b.owner = n) {bad more : List Byte}
    (whole : ∀ r ∈ bad :: rs, WholeRecord r) (readable : ∀ r ∈ rs, (readRecord r).isSome = true)
    (sorted : (b.group :: rs.map recordGroup).Pairwise (· ≤ ·)) :
    (f.body = rs.flatten →
      (b.size + rs.flatten.length ≤ Config.slotCapacity b.slot → exec (.planPut p true) s = .next
        { s.answered p n h f rest .ok (u8 rs.length ++ leBytes 2 (b.records ++ rs).length ++
            leBytes 2 (b.size + rs.flatten.length)) with
          build := some { b with records := b.records ++ rs } }) ∧
      (Config.slotCapacity b.slot < b.size + rs.flatten.length → exec (.planPut p true) s = .next
        (s.answered p n h f rest .planTooLarge (leBytes 2 (Config.slotCapacity b.slot - b.size))))) ∧
    (f.body = rs.flatten ++ bad ++ more →
      readRecord bad = none ∨ (∃ g ∈ b.group :: rs.map recordGroup, recordGroup bad < g) →
      exec (.planPut p true) s = .next (s.answered p n h f rest .malformed (u8 rs.length))) := by
  have wholeRs : ∀ r ∈ rs, WholeRecord r := fun r mem => whole r (List.mem_cons_of_mem bad mem)
  have few := length_le_flatten wholeRs
  refine ⟨fun body => ?_, fun body fails => ?_⟩
  · have read : readPut f.body.length 0 b.group f.body = .records rs := by
      rw [body]
      exact readPut_records wholeRs readable sorted few
    exact ⟨planPut_appends received service build own read, planPut_tooLarge received service build own read⟩
  · have read : readPut f.body.length 0 b.group f.body = .failsAt rs.length := by
      have one := List.length_pos_of_ne_nil (whole bad List.mem_cons_self).1
      rw [body]
      exact readPut_failsAt whole readable sorted (by simp only [List.length_append]; omega) fails
    exact planPut_failsAt received service build own read

/-! ### PLAN_ABANDON (R164) -/

theorem planAbandon_noBuild (received : s.receives p n h f rest 0x4A)
    (service : h.cls = .service) (nobody : ∀ b, s.build = some b → b.owner ≠ n) :
    exec (.planAbandon p key) s = .next (s.answered p n h f rest .noBuild []) :=
  congrArg Host.Outcome.next
    (State.takeRequest_answered received _ .noBuild [] (withBuild_arrived_none received service nobody _))

theorem planAbandon_notPermitted (received : s.receives p n h f rest 0x4A) (service : h.cls = .service)
    (build : s.build = some b) (own : b.owner = n) :
    exec (.planAbandon p false) s = .next (s.answered p n h f rest .notPermitted []) :=
  congrArg Host.Outcome.next
    (State.takeRequest_answered received _ .notPermitted [] (withBuild_arrived_own received service build own _))

theorem servePlanAbandon_arrived (received : s.receives p n h f rest code) (service : h.cls = .service)
    (build : s.build = some b) (own : b.owner = n) :
    servePlanAbandon true n f.body (s.arrived p n h rest) =
      if f.body = [] then
        ({ s.arrived p n h rest with build := none }, okWith (u16 b.records.length ++ u16 b.size))
      else (s.arrived p n h rest, refuse .malformed) := by
  rw [servePlanAbandon, withBuild_arrived_own received service build own, if_neg nofun]

theorem planAbandon_malformed (received : s.receives p n h f rest 0x4A) (service : h.cls = .service)
    (build : s.build = some b) (own : b.owner = n) (body : f.body ≠ []) :
    exec (.planAbandon p true) s = .next (s.answered p n h f rest .malformed []) :=
  congrArg Host.Outcome.next (State.takeRequest_answered received _ .malformed []
    ((servePlanAbandon_arrived received service build own).trans (if_neg body)))

theorem planAbandon_discards (received : s.receives p n h f rest 0x4A) (service : h.cls = .service)
    (build : s.build = some b) (own : b.owner = n) (body : f.body = []) :
    exec (.planAbandon p true) s = .next
      { s.answered p n h f rest .ok (leBytes 2 b.records.length ++ leBytes 2 b.size) with build := none } :=
  congrArg Host.Outcome.next (State.takeRequest_build received _ none
    ((servePlanAbandon_arrived received service build own).trans (if_pos body)))

end

/-- Settles O43: the readers by their specifications, a PLAN_PUT body by induction on its records, and each request by
the branches of its rule. -/
theorem buildGrows : Obligations.BuildGrows := by
  unfold Obligations.BuildGrows
  refine ⟨readPlanBegin_eq_some, readRecord_eq_some, ?_, fun b => ⟨Build.group_of_nil, fun rs r => Build.group_of_concat⟩,
    fun s p n h f rest service => ⟨fun received unread => planBegin_malformed received service unread, ?_, ?_, ?_, ?_⟩⟩
  · rintro r rest k rfl
    rw [field_byte _ k 0 rfl]
    exact ⟨recordSize_toNat k, recordGroup_cons k rest⟩
  · exact fun nobody key => ⟨fun received => planPut_noBuild received service nobody,
      fun received => planAbandon_noBuild received service nobody⟩
  · exact fun b build own => ⟨fun received => planPut_notPermitted received service build own,
      fun received => ⟨planAbandon_notPermitted received service build own,
        planAbandon_malformed received service build own⟩⟩
  · exact fun k name auto received body => ⟨planBegin_creates received service body,
      planBegin_buildActive received service body⟩
  · exact fun b build own =>
      ⟨fun rs bad more received whole readable sorted =>
        planPut_records received service build own whole readable sorted,
      fun received => planAbandon_discards received service build own⟩

end Sys2Proof.Machine
end

section
/-!
The records of a plan: how a slot's bytes are read, and what each record of R179 does (R160, R178, R179).
-/

namespace Sys2Proof.Machine

/-! ### The plan that bytes hold (R158, R160) -/

@[simp] theorem readPlan_nil (fuel : Nat) : readPlan fuel [] = [] := by
  cases fuel <;> rfl

theorem WholeRecord.readPlan_append {r : List Byte} (whole : WholeRecord r) {x : PlanRecord} (read : readRecord r = some x)
    (fuel : Nat) (rest : List Byte) : readPlan (fuel + 1) (r ++ rest) = x :: readPlan fuel rest := by
  rw [readPlan, if_neg (by simp [whole.1]), whole.splitRecord_append]
  dsimp only
  rw [read]

/-- Records that are whole and in range are read one by one, and then the rest. -/
theorem readPlan_flatten_append {rs : List (List Byte)} {xs : List PlanRecord} (fuel : Nat) (tail : List Byte)
    (whole : ∀ r ∈ rs, WholeRecord r) (read : rs.map readRecord = xs.map some) :
    readPlan (rs.length + fuel) (rs.flatten ++ tail) = xs ++ readPlan fuel tail := by
  induction rs generalizing xs with
  | nil =>
    cases xs with
    | nil => rw [List.length_nil, Nat.zero_add, List.flatten_nil, List.nil_append, List.nil_append]
    | cons x xs => nomatch read
  | cons r rs ih =>
    cases xs with
    | nil => nomatch read
    | cons x xs =>
      obtain ⟨first, others⟩ := List.cons.inj read
      rw [List.length_cons, Nat.add_right_comm, List.flatten_cons, List.append_assoc,
        (whole r List.mem_cons_self).readPlan_append first, ih (fun y mem => whole y (List.mem_cons_of_mem r mem)) others,
        List.cons_append]

/-- Bytes that spell no record end the plan (29). -/
theorem readPlan_unreadable {bad : List Byte} (fuel : Nat) (nonempty : bad ≠ [])
    (fails : recordSize (field bad 0 1) = 0 ∨ bad.length < recordSize (field bad 0 1) ∨
      readRecord (bad.take (recordSize (field bad 0 1))) = none) : readPlan (fuel + 1) bad = [.unreadable] := by
  rw [readPlan, if_neg nonempty, splitRecord]
  by_cases short : recordSize (field bad 0 1) = 0 ∨ bad.length < recordSize (field bad 0 1)
  · rw [if_pos short]
  · have unread := (or_assoc.mpr fails).resolve_left short
    rw [if_neg short]
    dsimp only
    rw [unread]

/-- The plan of a slot's bytes: its records, and at most one mark for a tail that spells none. -/
theorem readPlan_records {rs : List (List Byte)} {xs : List PlanRecord} {bad : List Byte}
    (read : rs.map readRecord = xs.map some) (whole : ∀ r ∈ rs, WholeRecord r) :
    readPlan rs.flatten.length rs.flatten = xs ∧
      (bad ≠ [] → recordSize (field bad 0 1) = 0 ∨ bad.length < recordSize (field bad 0 1) ∨
          readRecord (bad.take (recordSize (field bad 0 1))) = none →
        readPlan (rs.flatten ++ bad).length (rs.flatten ++ bad) = xs ++ [.unreadable]) := by
  have few := length_le_flatten whole
  refine ⟨?_, fun nonempty fails => ?_⟩
  · obtain ⟨spare, length⟩ := Nat.exists_eq_add_of_le few
    have result := readPlan_flatten_append spare [] whole read
    rwa [List.append_nil, readPlan_nil, List.append_nil, ← length] at result
  · have one := List.length_pos_of_ne_nil nonempty
    obtain ⟨spare, length⟩ := Nat.exists_eq_add_of_lt (Nat.lt_of_le_of_lt few
      (show rs.flatten.length < (rs.flatten ++ bad).length by rw [List.length_append]; omega))
    rw [length, Nat.add_assoc, readPlan_flatten_append _ _ whole read, readPlan_unreadable _ nonempty fails]

/-! ### Channel records written twice, or written as they are -/

theorem tset_tget_self {α : Type} {k : Nat} (v : Vector α k) (i : Nat) (d : α) : tset v i (tget v i d) = v := by
  by_cases h : i < k
  · refine Vector.ext fun j hj => ?_
    simp only [tset, tget, h, getElem?_pos, Option.getD_some, Vector.getElem_setIfInBounds]
    split
    · subst i; rfl
    · rfl
  · exact tset_out v i _ (Nat.le_of_not_lt h)

theorem tset_tset_same {α : Type} {k : Nat} (v : Vector α k) (i : Nat) (a b : α) : tset (tset v i a) i b = tset v i b := by
  by_cases h : i < k
  · simp [tset, Vector.setIfInBounds]
  · rw [tset_out v i a (Nat.le_of_not_lt h)]

theorem State.setChan_self {s : State} {c : Nat} {r : Channel} (e : s.chan c = r) : s.setChan c r = s := by
  rw [← e, State.setChan, State.chan, tset_tget_self]

theorem State.setChan_setChan (s : State) (c : Nat) (x y : Channel) : (s.setChan c x).setChan c y = s.setChan c y := by
  unfold State.setChan
  rw [tset_tset_same]

theorem State.setChan_setPins_setChan (s : State) (c : Nat) (x y : Channel) (ps : List Nat) (r : PinRec) :
    ((s.setChan c x).setPins ps r).setChan c y = (s.setChan c y).setPins ps r :=
  congrArg (fun t => t.setPins ps r) (s.setChan_setChan c x y)

theorem State.chan_setChan_setPins (s : State) (c : Nat) (x : Channel) (ps : List Nat) (r : PinRec) (lt : c < 32) :
    ((s.setChan c x).setPins ps r).chan c = x := s.chan_setChan_same c x lt

theorem State.setChan_out (s : State) {c : Nat} (out : 32 ≤ c) (x : Channel) : s.setChan c x = s := by
  rw [State.setChan, tset_out _ _ _ out]

section
variable {s : State} {c target base : Nat} {o : Output} {i : Input} {g : OutConfig} {pin interval qualify : Nat}

/-! ### The holding of a LAPSED target's output (R179) -/

theorem State.holdFor_output (output : s.chan c = .output o) :
    s.holdFor c target = s.setChan c (.output { o with held := o.held || (s.session target).isLapsed }) := by
  unfold State.holdFor State.setHeld
  rw [output]
  cases (s.session target).isLapsed with
  | false => rw [Bool.or_false]; exact (State.setChan_self output).symm
  | true => rw [Bool.or_true]; rfl

theorem State.holdFor_other (other : ∀ o, s.chan c ≠ .output o) : s.holdFor c target = s := by
  unfold State.holdFor State.setHeld
  split
  · split
    · exact absurd ‹_› (other _)
    · rfl
  · rfl

theorem State.holdFor_out (out : 32 ≤ c) : s.holdFor c target = s :=
  State.holdFor_other fun _ output => nomatch output.symm.trans (s.chan_out c out)

/-! ### A BIND of a channel that is NONE (R179) -/

/-- An output that is bound at its safe level has not been switched off. -/
theorem State.driveOutput_fresh : s.driveOutput c (g.fresh target) g.safe none =
    (s.setChan c (.output ⟨g, some target, g.safe, .settling (s.elapsed + g.settle), false, none, none⟩)).setPins
      g.pins (.driving c (g.presents g.safe)) := by
  have noSwitch : (g.fresh target).lastOffAfter g.safe s.now = none := by
    unfold Output.lastOffAfter OutConfig.fresh
    cases g.safe <;> rfl
  rw [State.driveOutput, noSwitch]
  rfl

theorem State.applyPlanRecord_bind_new_output (unbound : s.chan c = .unbound) :
    s.applyPlanRecord target base (.bind c (.output g)) =
      (s.setChan c (.output ⟨g, some target, g.safe, .settling (s.elapsed + g.settle),
        (s.session target).isLapsed, none, none⟩)).setPins g.pins (.driving c (g.presents g.safe)) := by
  rw [State.applyPlanRecord, if_pos unbound, State.bindForLoad, State.bindChannel, State.driveOutput_fresh]
  rcases Nat.lt_or_ge c 32 with lt | out
  · have driven := s.chan_setChan_setPins c
      (.output ⟨g, some target, g.safe, .settling (s.elapsed + g.settle), false, none, none⟩) g.pins
      (.driving c (g.presents g.safe)) lt
    rw [driven]
    dsimp only
    rw [State.holdFor_output driven, State.setChan_setPins_setChan]
    rfl
  · rw [State.chan_out _ c out]
    dsimp only
    rw [State.holdFor_out out, State.setChan_out _ out, State.setChan_out _ out]

theorem State.applyPlanRecord_bind_new_input (unbound : s.chan c = .unbound) :
    s.applyPlanRecord target base (.bind c (.input pin interval qualify)) =
      (s.setChan c (.input ⟨pin, interval, qualify, some target, .unknown, none, none, [target],
        s.elapsed + interval⟩)).setPins [pin] (.sensing c) := by
  rw [State.applyPlanRecord, if_pos unbound, State.bindForLoad, State.bindChannel]
  rcases Nat.lt_or_ge c 32 with lt | out
  · rw [s.chan_setChan_setPins c _ [pin] (.sensing c) lt]
    dsimp only
    rw [State.setChan_setPins_setChan]
    exact State.holdFor_other fun o output => nomatch output.symm.trans (s.chan_setChan_setPins c _ _ _ lt)
  · rw [State.chan_out _ c out]
    dsimp only
    rw [State.holdFor_out out, State.setChan_out _ out, State.setChan_out _ out]

/-! ### A BIND of a channel that is bound (R179) -/

theorem State.applyPlanRecord_bind_input {spec : BindSpec} (input : s.chan c = .input i) :
    s.applyPlanRecord target base (.bind c spec) =
      s.setChan c (.input { i with subscribers := addMember i.subscribers target }) := by
  have lt := s.lt_of_bound (c := c) (by rw [input]; nofun)
  rw [State.applyPlanRecord, if_neg (by rw [input]; nofun), State.rebindChannel, input]
  exact State.holdFor_other fun o output => nomatch output.symm.trans (s.chan_setChan_same c _ lt)

theorem State.applyPlanRecord_bind_output {spec : BindSpec} (output : s.chan c = .output o) :
    s.applyPlanRecord target base (.bind c spec) = (s.driveSafe c).holdFor c target := by
  rw [State.applyPlanRecord, if_neg (by rw [output]; nofun), State.rebindChannel, output]

theorem State.driveSafe_faulted (output : s.chan c = .output o) (faulted : o.isFaulted = true) : s.driveSafe c = s := by
  rw [State.driveSafe, output]
  exact if_pos faulted

/-- The pins of an output that is driven to its safe level present it. -/
theorem State.driveSafe_pin (output : s.chan c = .output o) (sound : o.isFaulted = false) {q : Nat} (mem : q ∈ o.cfg.pins)
    (lt : q < 24) : (s.driveSafe c).pin q = .driving c (o.cfg.presents o.cfg.safe) := by
  rw [State.driveSafe, output]
  dsimp only
  rw [sound, if_neg nofun, State.driveOutput_pin, if_pos ⟨mem, lt⟩]

/-- The partners of a channel, as the statement names them (R74). -/
theorem State.mem_partnersOf_named {d : Nat} (other : d ≠ c) :
    d ∈ s.partnersOf c ↔ ∃ i r, s.interlock i = some r ∧ (r.a = c ∧ r.b = d ∨ r.a = d ∧ r.b = c) := by
  rw [State.mem_partnersOf]
  refine exists₂_congr fun i r => and_congr_right fun _ =>
    ⟨fun named => (Interlock.partner_eq_some named).imp id And.symm, fun named => ?_⟩
  rw [Interlock.partner]
  rcases named with ⟨rfl, rfl⟩ | ⟨rfl, rfl⟩
  · exact if_pos rfl
  · rw [if_neg other, if_pos rfl]

/-- A re-bind of an output drives it to its safe level, breaks its partners, and holds it for a LAPSED target. -/
theorem State.recordApplied_bind_output {spec : BindSpec} {o : Output} (output : s.outputAt c = some o) {t : State}
    (applied : t = s.applyPlanRecord target base (.bind c spec)) :
    t = { s with channels := t.channels, pins := t.pins } ∧
      (o.isFaulted = true →
        t = s.setChan c (.output { o with held := o.held || (s.session target).isLapsed })) ∧
      (o.isFaulted = false →
        t.outputAt c = some { o.drivenTo o.cfg.safe s.now s.elapsed with
          held := o.held || (s.session target).isLapsed } ∧
        (∀ q ∈ o.cfg.pins, q < 24 → t.pin q = .driving c (o.cfg.presents o.cfg.safe)) ∧
        (∀ d, d ≠ c → s.outputAt d = none → t.chan d = s.chan d) ∧
        ∀ d od, d ≠ c → s.outputAt d = some od → ∀ broken : Prop,
          (broken ↔ o.cfg.safe = .active ∧ o.level = .inactive ∧ od.level = .active ∧ od.isFaulted = false ∧
            ∃ i r, s.interlock i = some r ∧ (r.a = c ∧ r.b = d ∨ r.a = d ∧ r.b = c)) →
          (broken → t.outputAt d = some (od.drivenTo .inactive s.now s.elapsed)) ∧
          (¬broken → t.outputAt d = some od)) := by
  have bound := State.chan_of_outputAt output
  have lt := s.lt_of_bound (c := c) (by rw [bound]; nofun)
  rw [State.applyPlanRecord_bind_output bound] at applied
  cases sound : o.isFaulted with
  | true =>
    rw [State.driveSafe_faulted bound sound, State.holdFor_output bound] at applied
    refine ⟨?_, fun _ => applied, nofun⟩
    rw [applied]
    rfl
  | false =>
    obtain ⟨driven, others⟩ := s.driveSafe_chan c o bound sound
    obtain ⟨ch, ps, frame⟩ := s.driveSafe_frame c
    have session : (s.driveSafe c).session target = s.session target := by rw [frame]; rfl
    rw [State.holdFor_output driven, session] at applied
    have same : ∀ d, d ≠ c → t.chan d = (s.driveSafe c).chan d := fun d other => by
      rw [applied, State.chan_setChan_ne _ _ _ _ other.symm]
    refine ⟨?_, nofun, fun _ => ⟨?_, fun q mem small => ?_, fun d other none => ?_, fun d od other partner broken meaning => ?_⟩⟩
    · rw [applied, frame]
      rfl
    · exact State.outputAt_of_chan ((congrArg (fun u => u.chan c) applied).trans (State.chan_setChan_same _ c _ lt))
    · rw [applied, State.setChan_pin, State.driveSafe_pin bound sound mem small]
    · rw [same d other, (others d other).2 fun od e => nomatch none.symm.trans (State.outputAt_of_chan e)]
    · rw [← State.mem_partnersOf_named other] at meaning
      have partner := State.chan_of_outputAt partner
      refine ⟨fun breaks => ?_, fun stays => ?_⟩ <;> refine State.outputAt_of_chan ((same d other).trans ?_)
      · obtain ⟨safe, off, active, faultless, mem⟩ := meaning.mp breaks
        exact (others d other).1 od partner safe off active faultless mem
      · refine ((others d other).2 fun od' e breaks => stays (meaning.mpr ?_)).trans partner
        cases partner.symm.trans e
        exact breaks

/-! ### The rows of R179 -/

theorem State.recordApplied_bind (s : State) (target base c : Nat) (spec : BindSpec) :
    s.recordApplied target base (.bind c spec) (s.applyPlanRecord target base (.bind c spec)) := by
  refine ⟨fun unbound => ?_, fun i input => ⟨addMember i.subscribers target, fun m => mem_addMember,
    State.applyPlanRecord_bind_input (State.chan_of_inputAt input)⟩, fun o output =>
    State.recordApplied_bind_output output rfl⟩
  cases spec with
  | output g => exact State.applyPlanRecord_bind_new_output unbound
  | input pin interval qualify => exact State.applyPlanRecord_bind_new_input unbound

/-- A record that passes on its pair has found a free position. -/
theorem State.free_of_judged_interlock {r : Interlock} (passed : s.judgePlanRecord target (.interlock r) = none) :
    s.freeInterlock ≠ none := by
  obtain ⟨unbound, judged⟩ := s.judgePlanRecord_judged target (.interlock r)
  rw [passed] at unbound judged
  cases a : s.outputAt r.a with
  | none => nomatch unbound (.inl a)
  | some oa =>
    cases b : s.outputAt r.b with
    | none => nomatch unbound (.inr b)
    | some ob =>
      obtain ⟨foreign, own⟩ := judged oa ob a b
      have owners : oa.owner = some target ∧ ob.owner = some target := by
        by_contra other
        nomatch foreign (Decidable.not_and_iff_not_or_not.mp other)
      intro noRoom
      rw [State.freeInterlock, List.find?_eq_none] at noRoom
      nomatch (own owners.1 owners.2).1 fun i lt empty => noRoom i (List.mem_range.mpr lt) (by rw [empty]; rfl)

theorem State.recordApplied_interlock {r : Interlock} (passed : s.judgePlanRecord target (.interlock r) = none) :
    s.recordApplied target base (.interlock r) (s.applyPlanRecord target base (.interlock r)) := by
  obtain ⟨i, room⟩ := Option.ne_none_iff_exists'.mp (State.free_of_judged_interlock passed)
  obtain ⟨lt, empty, lowest⟩ := State.freeInterlock_eq_some.mp room
  refine ⟨i, lt, empty, lowest, ?_⟩
  rw [State.applyPlanRecord, room]

/-- A record that passes on its action has found room in the pool. -/
theorem State.room_of_judged_action {form : ActionForm} {a : Action}
    (passed : s.judgePlanRecord target (.action form a) = none) : s.queue.length < 512 := by
  obtain ⟨unbound, judged⟩ := s.judgePlanRecord_judged target (.action form a)
  rw [passed] at unbound judged
  cases output : s.outputAt a.target with
  | none => nomatch unbound output
  | some o =>
    obtain ⟨foreign, own⟩ := judged o output
    by_cases owner : o.owner = some target
    · obtain ⟨unguarded, guarded⟩ := own owner
      by_cases guard : ∃ g, a.grd = some g ∧ s.inputAt g.channel = none
      · nomatch unguarded guard
      · have bound : ∀ g, a.grd = some g → (s.inputAt g.channel).isSome = true := fun g grd =>
          Option.isSome_iff_ne_none.mpr fun none => guard ⟨g, grd, none⟩
        exact Nat.lt_of_not_le fun full => nomatch (guarded bound).1 full
    · nomatch foreign owner

theorem State.recordApplied_action {form : ActionForm} {a : Action}
    (passed : s.judgePlanRecord target (.action form a) = none) :
    s.recordApplied target base (.action form a) (s.applyPlanRecord target base (.action form a)) := by
  have pool := State.room_of_judged_action passed
  refine ⟨s.newHandle, form.phase base, ?_, rfl, insertEntry_perm _ _, fun low high => ?_⟩
  · cases form <;> rfl
  · have free : firstFree (s.queue.map Entry.handle) s.handleCounter s.newHandle :=
      freeHandle_firstFree low high (by rw [List.length_map]; exact Nat.lt_succ_of_lt pool) (by decide)
    exact ⟨free, nextHandle_eq free.range.1 free.range.2⟩

/-- A record that passes is applied by its row of R179. -/
theorem State.applyPlanRecord_applied {x : PlanRecord} (passed : s.judgePlanRecord target x = none) :
    s.recordApplied target base x (s.applyPlanRecord target base x) := by
  cases x with
  | bind c spec => exact s.recordApplied_bind target base c spec
  | interlock r => exact State.recordApplied_interlock passed
  | trigger k g => rfl
  | action form a => exact State.recordApplied_action passed
  | unreadable => rfl

end

/-- The run of a plan judges and applies record by record. -/
theorem State.runPlan_runs {target base : Nat} {plan : List PlanRecord} (index : Nat) (s : State) :
    State.planRuns target base index plan s (State.runPlan target base index plan s) := by
  induction plan generalizing index s with
  | nil => rfl
  | cons x xs ih =>
    refine ⟨s.judgePlanRecord target x, s.judgePlanRecord_judged target x, ?_⟩
    rw [State.runPlan]
    cases passed : s.judgePlanRecord target x with
    | some code => rfl
    | none => exact ⟨_, State.applyPlanRecord_applied passed, ih (index + 1) _⟩

/-- The counts of LOAD_DONE count the records of each kind (R180). -/
theorem loadCounts_eq (plan : List PlanRecord) (base : Nat) : loadCounts plan base =
    ⟨plan.countP (fun y => y.kindCode == 0x10), plan.countP (fun y => y.kindCode == 0x20),
      plan.countP (fun y => y.kindCode == 0x30), plan.countP (fun y => y.kindCode == 0x40), base⟩ := by
  unfold loadCounts
  congr 1 <;> refine List.countP_congr fun x _ => ?_ <;> cases x <;> rfl

end Sys2Proof.Machine
end

section
/-!
READ_COMPLETION: the content check, and the plan judged and applied for the target (R177 to R182): O46.
-/

namespace Sys2Proof.Machine

section
variable {s : State} {k x : Nat} {m : Option Nat} {start : LoadStart} {bytes : List Byte}

/-! ### The end of a session whose reports are discarded -/

/-- The account of an ended session does not rest on that session's reports before. -/
theorem State.endedWith_of_reports {t : State} {n : Nat} {reports : Vector ReportQueue 5}
    (others : ∀ j, j ≠ n → { s with reports := reports }.reportQueue j = s.reportQueue j)
    (ended : { s with reports := reports }.endedWith n t) : s.endedWith n t := by
  obtain ⟨queue, trigger, fireRequests, inFlight, build, store, handed, free, session, fresh, left, channels, frame⟩ := ended
  exact ⟨queue, trigger, fireRequests, inFlight, build, store, handed, free, session, fresh,
    fun j other => (left j other).trans (others j other), channels, frame⟩

theorem State.teardown_startup (s : State) (n : Nat) : (s.teardown n).startup = s.startup := by
  obtain ⟨ch, ps, -, result⟩ := s.teardown_eq n
  rw [result, State.setSession_startup, State.setReportQueue_startup]
  rfl

/-- The failed startup load: its outcome stands, the LOCAL session is free, and the session has ended (R182). -/
theorem State.startup_failed {time : Nat} {body : ReportBody} {outcome : StartupOutcome} {t : State}
    (result : t = { s.addReport 5 time body with startup := outcome }.teardown 5) :
    t.startup = outcome ∧ t.session 5 = .free ∧
      (s.joinedKept → State.endedWith { s with startup := outcome } 5 t) := by
  subst result
  refine ⟨State.teardown_startup _ 5, State.teardown_session _ 5, fun kept => ?_⟩
  obtain ⟨reports, eq⟩ := s.addReport_frame 5 time body
  have others := fun j other => State.addReport_other s 5 j time body other
  rw [eq] at others ⊢
  exact State.endedWith_of_reports (s := { s with startup := outcome }) others
    (State.endedWith_teardown (s := { s with reports := reports, startup := outcome }) kept 5)

/-! ### The command -/

theorem execReadCompletion_eq (store : s.store = .reading k m start) (read : Option (List Byte)) :
    exec (.readCompletion read) s = .next (s.completeRead k m start (read.getD (s.slot k).contents)) := by
  show execReadCompletion read s = _
  rw [execReadCompletion, store]

theorem execReadCompletion_some (store : s.store = .reading k m start) (bytes : List Byte) :
    exec (.readCompletion (some bytes)) s = .next (s.completeRead k m start bytes) := execReadCompletion_eq store _

/-! ### The startup outcome (R181, R182) -/

theorem State.settleStartup_ne {target : Nat} (other : target ≠ 5) (outcome : StartupOutcome) (ends : Bool) :
    s.settleStartup target outcome ends = s := if_neg other

theorem State.settleStartup_loaded (target : Nat) (outcome : StartupOutcome) :
    s.settleStartup target outcome false = if target = 5 then { s with startup := outcome } else s := rfl

/-! ### The content check (R177, step 1) -/

theorem State.completeRead_corrupt (corrupt : (s.slot k).check ≠ some (crc32 bytes)) :
    s.completeRead k m start bytes = { s with store := .idle }.loadCorrupt k m := if_pos corrupt

/-- To write into a slot what a table holds there is to write what was last written there. -/
theorem State.setSlot_written {t : State} {r : Slot} (slots : t.slots = tset s.slots k r) :
    s.setSlot k (t.slot k) = s.setSlot k r := by
  rcases Nat.lt_or_ge k 8 with lt | out
  · rw [State.slot, slots, tget_tset_same _ _ _ _ lt]
  · unfold State.setSlot
    rw [tset_out _ _ _ out, tset_out _ _ _ out]

/-- Bytes that fail the check: the slot becomes INVALID, the target learns of it, and a startup load has failed. -/
theorem State.loadCorrupt_spec {t : State} (result : t = { s with store := .idle }.loadCorrupt k m) :
    t.store = .idle ∧
      (k < 8 → t.slot k = { s.slot k with state := .invalid, check := none, contents := [] }) ∧
      (∀ j, j ≠ k → t.slot j = s.slot j) ∧ (m = some 5 → t.startup = .corrupt ∧ t.session 5 = .free) ∧
      (m = some 5 → s.pairsKept → State.endedWith
        { s.setSlot k (t.slot k) with store := .idle, startup := .corrupt } 5 t) ∧
      (m = none → t = { s.setSlot k (t.slot k) with store := .idle }) ∧
      ∀ x, m = some x → x ≠ 5 →
        t = { s.setSlot k (t.slot k) with store := .idle }.addReport x s.now (.loadCorrupt k) := by
  have side : t.storeSide = ({ s with store := .idle }.setSlot k (s.slot k).invalidated).storeSide := by
    rw [result]
    exact State.loadCorrupt_storeSide _ k m
  have slots : t.slots = tset s.slots k (s.slot k).invalidated := congrArg StoreSide.slots side
  have op : t.store.withSession none = .idle := congrArg StoreSide.op side
  have written : s.setSlot k (t.slot k) = s.setSlot k (s.slot k).invalidated := State.setSlot_written slots
  rw [written]
  refine ⟨StoreOp.withSession_eq_idle.mp op, fun lt => ?_, fun j other => ?_, ?_, ?_, ?_, ?_⟩
  · rw [State.slot, slots, tget_tset_same _ _ _ _ lt]
    rfl
  · rw [State.slot, slots, tget_tset_ne _ _ _ _ _ other.symm]
    rfl
  · rintro rfl
    obtain ⟨startup, free, -⟩ := State.startup_failed (s := { s.setSlot k (s.slot k).invalidated with store := .idle }) result
    exact ⟨startup, free⟩
  · rintro rfl kept
    obtain ⟨-, -, ended⟩ := State.startup_failed (s := { s.setSlot k (s.slot k).invalidated with store := .idle }) result
    exact ended ((State.pairsKept_iff s).1 kept).1
  · rintro rfl
    exact result
  · rintro x rfl other
    exact result.trans (State.settleStartup_ne other .corrupt true)

/-! ### The target, validation and application (R177, steps 2 to 4) -/

theorem State.completeRead_intact (intact : (s.slot k).check = some (crc32 bytes)) :
    s.completeRead k (some x) start bytes =
      { s with store := .idle }.loadFor k x start (readPlan bytes.length bytes) := if_neg (not_not_intro intact)

theorem State.completeRead_ended (intact : (s.slot k).check = some (crc32 bytes)) :
    s.completeRead k none start bytes = { s with store := .idle } := if_neg (not_not_intro intact)

theorem State.loadFor_passes {plan : List PlanRecord} {u : State}
    (ran : State.runPlan x (start.base s.now) 0 plan s = .ok u) :
    s.loadFor k x start plan =
      (u.addReport x s.now (.loadDone k (loadCounts plan (start.base s.now)))).settleStartup x
        (.loaded (loadCounts plan (start.base s.now))) false := by
  rw [State.loadFor, ran]

theorem State.loadFor_fails {plan : List PlanRecord} {i : Nat} {code : Result}
    (ran : State.runPlan x (start.base s.now) 0 plan s = .error (i, code)) :
    s.loadFor k x start plan =
      (s.addReport x s.now (.loadRecord k i code)).settleStartup x (.failed i code) true := by
  rw [State.loadFor, ran]

/-- A plan is refused at its first record that fails, or applied whole (R178 to R182). -/
theorem State.loadFor_spec (s : State) (k x : Nat) (start : LoadStart) (plan : List PlanRecord) :
    (∃ i code, State.planRuns x (start.base s.now) 0 plan s (.error (i, code)) ∧
      (x ≠ 5 → s.loadFor k x start plan = s.addReport x s.now (.loadRecord k i code)) ∧
      (x = 5 → (s.loadFor k x start plan).startup = .failed i code ∧ (s.loadFor k x start plan).session 5 = .free ∧
        (s.joinedKept → State.endedWith { s with startup := .failed i code } 5 (s.loadFor k x start plan)))) ∨
    ∃ u, State.planRuns x (start.base s.now) 0 plan s (.ok u) ∧
      s.loadFor k x start plan =
        if x = 5 then
          { u.addReport x s.now (.loadDone k (loadCounts plan (start.base s.now))) with
            startup := .loaded (loadCounts plan (start.base s.now)) }
        else u.addReport x s.now (.loadDone k (loadCounts plan (start.base s.now))) := by
  have runs := State.runPlan_runs (target := x) (base := start.base s.now) (plan := plan) 0 s
  cases ran : State.runPlan x (start.base s.now) 0 plan s with
  | error failure =>
    obtain ⟨i, code⟩ := failure
    rw [ran] at runs
    have result := State.loadFor_fails (k := k) ran
    refine .inl ⟨i, code, runs, fun other => result.trans (State.settleStartup_ne other _ true), ?_⟩
    rintro rfl
    exact State.startup_failed result
  | ok u =>
    rw [ran] at runs
    exact .inr ⟨u, runs, (State.loadFor_passes ran).trans (State.settleStartup_loaded x _)⟩

end

/-- Settles O46: the bytes by induction on their records, the plan by the run of its records against R178 and R179, and
the failed startup load by the teardown of session 5. -/
theorem readCompletes : Obligations.ReadCompletes := by
  refine ⟨fun rs xs bad read whole => readPlan_records read whole, fun s k m start bytes store => ⟨fun contents => ?_,
    fun corrupt => ?_, fun intact => ⟨?_, fun x base plan counts target baseTime planRead counted => ?_⟩⟩⟩
  · rw [execReadCompletion_eq store, Option.getD_none, execReadCompletion_some store, contents]
  · exact ⟨_, (execReadCompletion_some store bytes).trans (congrArg Host.Outcome.next (State.completeRead_corrupt corrupt)),
      State.loadCorrupt_spec rfl⟩
  · rintro rfl
    exact (execReadCompletion_some store bytes).trans (congrArg Host.Outcome.next (State.completeRead_ended intact))
  · subst target
    have step := (execReadCompletion_some store bytes).trans
      (congrArg Host.Outcome.next (State.completeRead_intact intact))
    have baseOf : start.base (State.now { s with store := .idle }) = base := by
      rw [baseTime]
      cases start <;> exact Nat.min_comm _ _
    have countsOf : loadCounts plan base = counts := (loadCounts_eq plan base).trans counted.symm
    have load := State.loadFor_spec { s with store := .idle } k x start plan
    rw [← planRead] at step
    rw [baseOf, countsOf] at load
    rcases load with ⟨i, code, runs, toHost, toStartup⟩ | ⟨u, runs, result⟩
    · refine .inl ⟨i, code, runs, fun other => step.trans (congrArg Host.Outcome.next (toHost other)), fun five => ?_⟩
      obtain ⟨startup, free, ended⟩ := toStartup five
      exact ⟨_, step, startup, free, fun kept => ended ((State.pairsKept_iff s).1 kept).1⟩
    · exact .inr ⟨u, runs, step.trans (congrArg Host.Outcome.next result)⟩

end Sys2Proof.Machine
end

section
/-!
A kind that is no request code, with and without a session (R186, R193): O9.
-/

namespace Sys2Proof.Machine

/-- The request codes as bytes, in place of their numbers (R193). -/
theorem unknownKind_iff {codes : List Byte} (spelled : requestCodes = codes.map BitVec.toNat) (k : Byte) :
    unknownKind k = true ↔ k ∉ codes := by
  have injective : Function.Injective (BitVec.toNat : Byte → Nat) := fun _ _ => BitVec.eq_of_toNat_eq
  rw [unknownKind, spelled, Bool.not_eq_true', Bool.eq_false_iff, Ne, List.contains_iff_mem,
    List.mem_map_of_injective injective]

section
variable {s : State} {p : Port} {n : Nat} {h : HostSession} {f : Frame} {rest : List Frame} {code : Byte}

/-- A frame that a session hears names that session, and not 0 (R122). -/
theorem State.ses_ne_zero (heard : s.hears p n h f rest code) : f.ses ≠ 0 := by
  obtain ⟨-, -, -, named, live, -⟩ := heard
  rintro zero
  have low := (State.session_ne_zero live).1
  rw [← named, zero] at low
  exact absurd low (by decide)

/-- Without a session, the refusal goes back under session 0. -/
theorem execUnknownRequestKind_bare (unknown : unknownKind f.kind = true) (can : s.canTake p = true)
    (fifo : (s.link p).fifo = f :: rest) (zero : f.ses = 0) :
    execUnknownRequestKind p s = .next (s.setLink p
      { s.link p with
        fifo := rest, replies := (s.link p).replies ++ [⟨replyFrame f .unknownKind [], false⟩] }) := by
  simp only [execUnknownRequestKind, s.takeFrame_eq p unknownKind f rest can fifo unknown, if_pos zero,
    State.placeReply, State.link_setLink_same, State.setLink_setLink]

/-- For a session, the frame is taken as a request of its own kind, which `serveUnknown` serves. -/
theorem execUnknownRequestKind_heard (unknown : unknownKind f.kind = true) (heard : s.hears p n h f rest f.kind) :
    execUnknownRequestKind p s = .next (s.takeRequest p f.kind serveUnknown) := by
  have named := State.ses_ne_zero heard
  obtain ⟨can, fifo, -⟩ := heard
  simp only [execUnknownRequestKind, State.takeRequest, s.takeFrame_eq p unknownKind f rest can fifo unknown,
    s.takeFrame_eq p (· == f.kind) f rest can fifo (beq_self_eq_true _), if_neg named]

end

/-- Settles O9: the codes by their numbers, and the refusal as any other reply, with a session or without. -/
theorem unknownKindAnswered : Obligations.UnknownKindAnswered := by
  refine ⟨unknownKind_iff rfl, fun _ _ _ => rfl, rfl, fun s p f rest unknown => ⟨fun can fifo zero => ?_,
    fun n h received => ?_⟩⟩
  · exact execUnknownRequestKind_bare unknown can fifo zero
  · exact (execUnknownRequestKind_heard unknown received.1).trans (congrArg Host.Outcome.next
      (State.takeRequest_answered received serveUnknown .unknownKind [] rfl))

end Sys2Proof.Machine
end

section
/-!
DEVICE_RESET: its refusal, its acceptance, and the timeout of Port B's reply (R186, R190): O47.
-/

namespace Sys2Proof.Machine

section
variable {s : State} {p : Port} {n : Nat} {h : HostSession} {f : Frame} {rest : List Frame} {code : Byte}

/-- With the class and the key, only a store operation in flight stands in the way (R190). -/
theorem serveDeviceReset_arrived (received : s.receives p n h f rest code) (service : h.cls = .service)
    (empty : f.body = []) :
    serveDeviceReset p true n f.body (s.arrived p n h rest) =
      if s.storeBusy then (s.arrived p n h rest, refuse .storeBusy)
      else ({ s.arrived p n h rest with deviceReset := some ⟨p, s.elapsed + 10000⟩ }, ⟨.ok, [], false, true⟩) := by
  rw [serveDeviceReset, asService_arrived received, if_pos ⟨service, rfl⟩, if_neg (not_not_intro empty),
    State.arrived_storeBusy, State.arrived_elapsed]
  rfl

/-- A request in sequence that is accepted as a DEVICE_RESET: its reply is marked and not cached (R123, R190). -/
theorem State.takeRequest_accepted (received : s.receives p n h f rest code) (serve : Service) (r : PendingReset)
    (served : serve n f.body (s.arrived p n h rest) =
      ({ s.arrived p n h rest with deviceReset := some r }, ⟨.ok, [], false, true⟩)) :
    s.takeRequest p code serve =
      { (s.setSession n (.host { h with
            life := .opened (s.elapsed + h.interval), expected := (h.expected + 1) % 256 })).setLink p
          { s.link p with
            fifo := rest, replies := (s.link p).replies ++ [⟨replyFrame f .ok [], true⟩] } with
        deviceReset := some r } := by
  rw [State.takeRequest_receives received]
  obtain ⟨⟨_, _, _, _, live, _⟩, _⟩ := received
  have session : State.session { s.arrived p n h rest with deviceReset := some r } n =
      .host { h with life := .opened (s.elapsed + h.interval) } := State.arrived_session live
  have setSession : ∀ (t : State) q, State.setSession { t with deviceReset := some r } n q =
      { t.setSession n q with deviceReset := some r } := fun t q => by unfold State.setSession; split <;> rfl
  have link : ∀ t : State, State.link { t with deviceReset := some r } p = t.link p := fun _ => by cases p <;> rfl
  have setLink : ∀ (t : State) l, State.setLink { t with deviceReset := some r } p l =
      { t.setLink p l with deviceReset := some r } := fun _ _ => by cases p <;> rfl
  simp only [State.performRequest, served, State.noteReply, session, setSession, State.placeReply, link, setLink,
    Bool.false_eq_true, if_false]
  simp only [State.arrived, State.setLink_setSession, State.setSession_setSession, State.link_setLink_same,
    State.setLink_setLink]

/-- The handlers wait once a DEVICE_RESET has been accepted (R186). -/
theorem State.canTake_of_deviceReset {r : PendingReset} (accepted : s.deviceReset = some r) (p : Port) :
    s.canTake p = false :=
  State.canTake_eq_false.2 (.inr (.inl (by rw [accepted]; rfl)))

theorem execDeviceResetTimeout_eq {r : PendingReset} (accepted : s.deviceReset = some r) :
    execDeviceResetTimeout s = if r.port = .b ∧ r.deadline ≤ s.elapsed then .next s.softReset else .next s := by
  simp only [execDeviceResetTimeout, accepted]

end

/-- Settles O47: a store operation in flight refuses it; else it is accepted, and the handlers wait for the reset. -/
theorem deviceResetAccepted : Obligations.DeviceResetAccepted := by
  intro s p n h f rest
  refine ⟨fun received service empty => ?_, fun r accepted => ⟨fun onB due => ?_, fun notDue => ?_⟩⟩
  · have served := serveDeviceReset_arrived received service empty
    refine ⟨fun busy => ?_, fun idle => ⟨_, ?_, rfl, ?_, ?_⟩⟩
    · rw [if_pos (State.storeBusy_of_ne busy)] at served
      exact congrArg Host.Outcome.next (State.takeRequest_answered received _ .storeBusy [] served)
    · rw [if_neg (State.storeBusy_of_idle idle)] at served
      have taken := State.takeRequest_accepted received _ _ served
      obtain ⟨⟨_, _, kind, _⟩, _⟩ := received
      rw [replyFrame, kind] at taken
      exact congrArg Host.Outcome.next taken
    · exact State.canTake_of_deviceReset rfl .a
    · exact State.canTake_of_deviceReset rfl .b
  · exact (execDeviceResetTimeout_eq accepted).trans (if_pos ⟨onB, due⟩)
  · refine (execDeviceResetTimeout_eq accepted).trans (if_neg ?_)
    rintro ⟨onB, due⟩
    rcases notDue with onA | early
    · exact nomatch onA.symm.trans onB
    · exact Nat.not_le.2 early due

end Sys2Proof.Machine
end

section
/-!
The receiver of Port A, byte by byte: the phases, the gap, and frames sent whole (R183, R189, R192): O49.
-/

namespace Sys2Proof.Machine

/-- The Port A receiver in a phase, with its last byte at this moment. -/
def State.listening (s : State) (ph : RxPhase) : State := { s with rxA := ⟨ph, s.elapsed⟩ }

section
variable {s : State} {ph : RxPhase} {len : Nat} {kept : List Byte}

/-! ### The gap (R183) -/

theorem State.gapPassed_iff : s.gapPassed = true ↔ s.rxA.phase ≠ .hunt ∧ s.rxA.lastByte + 20 < s.elapsed := by
  rw [State.gapPassed, Bool.and_eq_true, decide_eq_true_eq, decide_eq_true_eq]
  rfl

theorem State.gapTimeout_due (waiting : s.rxA.phase ≠ .hunt) (late : s.rxA.lastByte + 20 < s.elapsed) :
    s.gapTimeout = s.discard :=
  if_pos (State.gapPassed_iff.2 ⟨waiting, late⟩)

theorem State.gapTimeout_not_due (early : s.rxA.phase = .hunt ∨ s.elapsed ≤ s.rxA.lastByte + 20) :
    s.gapTimeout = s := by
  refine if_neg fun passed => ?_
  obtain ⟨waiting, late⟩ := State.gapPassed_iff.1 passed
  rcases early with hunting | recent
  · exact waiting hunting
  · exact Nat.not_lt.2 recent late

/-- A byte after the gap limit is taken as after the gap timeout. -/
theorem State.takeByte_gapTimeout (waiting : s.rxA.phase ≠ .hunt) (late : s.rxA.lastByte + 20 < s.elapsed)
    (b : RxByte) : s.takeByte b = s.gapTimeout.takeByte b := by
  have settled : s.discard.gapTimeout = s.discard := State.gapTimeout_not_due (.inl rfl)
  rw [State.gapTimeout_due waiting late, State.takeByte, State.takeByte, State.gapTimeout_due waiting late, settled]
  rfl

/-! ### One byte -/

/-- With no gap outstanding, a byte is judged in the phase that it meets. -/
theorem State.takeByte_eq (early : s.rxA.phase = .hunt ∨ s.elapsed ≤ s.rxA.lastByte + 20) (phase : s.rxA.phase = ph)
    (b : RxByte) : s.takeByte b = (s.listening ph).judgeByte b := by
  rw [State.takeByte, State.gapTimeout_not_due early, ← phase]
  rfl

/-- No gap stands between a byte and the next of the same moment. -/
theorem State.takeByte_listening (s : State) (ph : RxPhase) (b : RxByte) :
    (s.listening ph).takeByte b = (s.listening ph).judgeByte b :=
  State.takeByte_eq (.inr (Nat.le_add_right _ _)) rfl b

theorem State.judgeByte_sync (s : State) : (s.listening .hunt).judgeByte ⟨0xA7, true⟩ = s.listening .header := rfl

theorem State.judgeByte_ignored {b : RxByte} (ignored : b.value ≠ 0xA7 ∨ b.stopOk = false) :
    (s.listening .hunt).judgeByte b = s.listening .hunt := by
  refine if_neg ?_
  rintro ⟨stop, sync⟩
  rcases ignored with other | bad
  · exact other sync
  · exact Bool.false_ne_true (bad.symm.trans stop)

theorem State.judgeByte_len {v : Byte} (low : 5 ≤ v.toNat) (high : v.toNat ≤ 253) :
    (s.listening .header).judgeByte ⟨v, true⟩ = s.listening (.body v.toNat []) :=
  if_pos ⟨rfl, low, high⟩

theorem State.judgeByte_badLen {v : Byte} (out : v.toNat < 5 ∨ 253 < v.toNat) :
    (s.listening .header).judgeByte ⟨v, true⟩ = (s.listening .header).discard :=
  if_neg fun ⟨_, low, high⟩ => out.elim (Nat.not_lt.2 low) (Nat.not_lt.2 high)

theorem State.judgeByte_kept (v : Byte) (more : kept.length + 1 < len) :
    (s.listening (.body len kept)).judgeByte ⟨v, true⟩ = s.listening (.body len (kept ++ [v])) :=
  if_neg (Nat.ne_of_lt more)

theorem State.judgeByte_last (v : Byte) (last : kept.length + 1 = len) :
    (s.listening (.body len kept)).judgeByte ⟨v, true⟩ = (s.listening (.body len kept)).checkFrame len (kept ++ [v]) :=
  if_pos last

/-- In HEADER and BODY a bad stop bit ends the frame. -/
theorem State.judgeByte_badStop (waiting : ph ≠ .hunt) (v : Byte) :
    (s.listening ph).judgeByte ⟨v, false⟩ = (s.listening ph).discard := by
  cases ph with
  | hunt => exact absurd rfl waiting
  | header => rfl
  | body len kept => rfl

/-! ### What ends a frame -/

/-- A discarded frame counts as an error, and the receiver hunts (R183, R189). -/
theorem State.discard_listening (s : State) (ph : RxPhase) : (s.listening ph).discard =
    { s with
      linkA := { s.linkA with errors := min (s.linkA.errors + 1) 65535 }
      rxA := ⟨.hunt, s.elapsed⟩ } := rfl

/-- A checked frame finds a free place, and the receiver hunts (R183). -/
theorem State.receive_listening_room (room : s.linkA.fifo.length < 4) (ph : RxPhase) (f : Frame) :
    ((s.listening ph).receive .a f).rxPhase .hunt =
      { s with linkA := { s.linkA with fifo := s.linkA.fifo ++ [f] }, rxA := ⟨.hunt, s.elapsed⟩ } :=
  congrArg (State.rxPhase · .hunt) (State.receive_room (s := s.listening ph) (p := .a) room f)

/-- A checked frame finds no place and counts as an overflow, and the receiver hunts (R183, R189). -/
theorem State.receive_listening_full (full : 4 ≤ s.linkA.fifo.length) (ph : RxPhase) (f : Frame) :
    ((s.listening ph).receive .a f).rxPhase .hunt =
      { s with
        linkA := { s.linkA with overflows := min (s.linkA.overflows + 1) 65535 }
        rxA := ⟨.hunt, s.elapsed⟩ } :=
  congrArg (State.rxPhase · .hunt) (State.receive_full (s := s.listening ph) (p := .a) full f)

theorem State.checkFrame_some {f : Frame} (good : frameOf len kept = some f) :
    s.checkFrame len kept = (s.receive .a f).rxPhase .hunt := by
  rw [State.checkFrame, good]

theorem State.checkFrame_none (bad : frameOf len kept = none) : s.checkFrame len kept = s.discard := by
  rw [State.checkFrame, bad]

/-- CHECK ends in HUNT, whatever phase it was reached in. -/
theorem State.checkFrame_listening (s : State) (ph : RxPhase) (len : Nat) (kept : List Byte) :
    (s.listening ph).checkFrame len kept = (s.listening .hunt).checkFrame len kept := by
  cases checked : frameOf len kept with
  | none => rw [State.checkFrame_none checked, State.checkFrame_none checked, s.discard_listening, s.discard_listening]
  | some f =>
    rw [State.checkFrame_some checked, State.checkFrame_some checked]
    rcases Nat.lt_or_ge s.linkA.fifo.length 4 with room | full
    · rw [State.receive_listening_room room, State.receive_listening_room room]
    · rw [State.receive_listening_full full, State.receive_listening_full full]

/-! ### Many bytes -/

/-- The bytes of the body are kept until their number is LEN, and then checked. -/
theorem State.takeBytes_body (bs : List Byte) (kept : List Byte) (some_left : bs ≠ [])
    (whole : kept.length + bs.length = len) :
    (bs.map fun b => ⟨b, true⟩).foldl State.takeByte (s.listening (.body len kept)) =
      (s.listening .hunt).checkFrame len (kept ++ bs) := by
  induction bs generalizing kept with
  | nil => exact absurd rfl some_left
  | cons b bs ih =>
    rw [List.map_cons, List.foldl_cons, State.takeByte_listening]
    cases bs with
    | nil => exact (State.judgeByte_last b whole).trans (s.checkFrame_listening _ _ _)
    | cons c bs =>
      simp only [List.length_cons] at whole
      rw [State.judgeByte_kept b (by omega), ih (kept ++ [b]) (List.cons_ne_nil c bs)
        (by simp only [List.length_append, List.length_cons, List.length_nil]; omega), List.append_assoc]
      rfl

/-- A sync byte, a LEN in range and LEN bytes bring the receiver from HUNT to CHECK. -/
theorem State.takeBytes_whole (hunting : s.rxA.phase = .hunt) {len : Byte} (low : 5 ≤ len.toNat)
    (high : len.toNat ≤ 253) (whole : kept.length = len.toNat) :
    ((0xA7 :: len :: kept).map fun b => ⟨b, true⟩).foldl State.takeByte s =
      (s.listening .hunt).checkFrame len.toNat kept := by
  have some_left : kept ≠ [] := List.ne_nil_of_length_pos (by omega)
  rw [List.map_cons, List.map_cons, List.foldl_cons, List.foldl_cons, State.takeByte_eq (.inl hunting) hunting,
    State.judgeByte_sync, State.takeByte_listening, State.judgeByte_len low high,
    State.takeBytes_body kept [] some_left (by rw [List.length_nil, Nat.zero_add, whole]), List.nil_append]

/-- A frame sent whole to a receiver in HUNT is received. -/
theorem State.takeBytes_frame (hunting : s.rxA.phase = .hunt) {f : Frame} (fits : f.body.length ≤ 248) :
    ((0xA7 :: f.bytes).map fun b => ⟨b, true⟩).foldl State.takeByte s =
      ((s.listening .hunt).receive .a f).rxPhase .hunt := by
  have len := f.len_eq
  have spelled : (toByte f.len).toNat = f.len := toByte_toNat _ (by omega)
  rw [f.bytes_eq, State.takeBytes_whole hunting (by omega) (by omega)
    (by rw [spelled, List.length_append, leBytes_length]; rfl), State.checkFrame_some (Frame.frameOf_bytes fits)]

/-- A LEN out of range ends the frame. -/
theorem State.takeBytes_badLen (hunting : s.rxA.phase = .hunt) {len : Byte} (out : len.toNat < 5 ∨ 253 < len.toNat) :
    ([0xA7, len].map fun b => ⟨b, true⟩).foldl State.takeByte s = (s.listening .header).discard := by
  rw [List.map_cons, List.map_cons, List.map_nil, List.foldl_cons, List.foldl_cons, List.foldl_nil,
    State.takeByte_eq (.inl hunting) hunting, State.judgeByte_sync, State.takeByte_listening,
    State.judgeByte_badLen out]

end

/-- Settles O49: a frame sent whole by induction on the bytes of its body, the rest byte by byte. -/
theorem portAReceives : Obligations.PortAReceives := by
  intro s line spelled
  obtain rfl : line = List.map fun b => ⟨b, true⟩ := funext spelled
  refine ⟨fun hunting => ⟨fun f fits => ⟨fun room => ?_, fun full => ?_⟩, fun len out => ?_,
      fun len kept low high whole mismatch => ?_⟩, fun b hunting ignored => ?_, fun hunting => ?_,
    fun waiting recent => ⟨fun v => ?_, fun v header low high => ?_, fun v len kept body more => ?_⟩,
    fun b waiting late => ?_, fun bs more t taken => ?_, fun waiting late => ?_, fun early => ?_⟩
  · exact congrArg Host.Outcome.next
      ((State.takeBytes_frame hunting fits).trans (State.receive_listening_room room .hunt f))
  · exact congrArg Host.Outcome.next
      ((State.takeBytes_frame hunting fits).trans (State.receive_listening_full full .hunt f))
  · exact congrArg Host.Outcome.next (State.takeBytes_badLen hunting out)
  · exact congrArg Host.Outcome.next ((State.takeBytes_whole hunting low high whole).trans
      (State.checkFrame_none (frameOf_eq_none (.inr (.inr (.inr mismatch))))))
  · exact congrArg Host.Outcome.next
      ((State.takeByte_eq (.inl hunting) hunting b).trans (State.judgeByte_ignored ignored))
  · exact congrArg Host.Outcome.next ((State.takeByte_eq (.inl hunting) hunting _).trans s.judgeByte_sync)
  · exact congrArg Host.Outcome.next
      ((State.takeByte_eq (.inr recent) rfl _).trans (State.judgeByte_badStop waiting v))
  · exact congrArg Host.Outcome.next ((State.takeByte_eq (.inr recent) header _).trans (State.judgeByte_len low high))
  · exact congrArg Host.Outcome.next ((State.takeByte_eq (.inr recent) body _).trans (State.judgeByte_kept v more))
  · exact ⟨s.gapTimeout, rfl, congrArg Host.Outcome.next (State.takeByte_gapTimeout waiting late b)⟩
  · obtain rfl := Host.Outcome.next.inj taken
    exact congrArg Host.Outcome.next List.foldl_append
  · exact congrArg Host.Outcome.next (State.gapTimeout_due waiting late)
  · exact congrArg Host.Outcome.next (State.gapTimeout_not_due early)

end Sys2Proof.Machine
end

section
/-!
The step of the part (1): it takes one command from the front of the queue, and idles on an empty queue.
-/

namespace Sys2Proof.Machine

theorem step_of_pending_nil {s : State} (empty : s.pending = []) : step s = .next s := by
  rw [step, empty]

theorem step_of_pending_cons {s : State} {c : Instr} {rest : List Instr} (queued : s.pending = c :: rest) :
    step s = exec c { s with pending := rest } := by
  rw [step, queued]

/-- Settles O1, by the two shapes of the queue. -/
theorem stepRunsFrontCommand : Obligations.StepRunsFrontCommand :=
  ⟨fun _ _ _ => step_of_pending_cons, fun _ => step_of_pending_nil⟩

end Sys2Proof.Machine
end
